-- ==== Sys2Proof/Word.lean ====
section
/-! DEFINITION. The word types of the UH-576: a byte, a 32-bit register word, a 64-bit pair value
(R101, R102), and the canonical sparse map in which registers and memory are held. -/

namespace Sys2Proof

/-- One byte of storage. -/
abbrev Byte := BitVec 8

/-- One 32-bit register word (R101). -/
abbrev Word := BitVec 32

/-- A 64-bit value, as held by an even/odd pair of registers (R102). -/
abbrev DWord := BitVec 64

/-- A set of lanes: bit `l` stands for lane `l` (0 to 31). -/
abbrev Mask := BitVec 32

/-- A sparse map from natural-number keys. Canonical form: keys strictly rising and no entry equal
to what an unlisted key reads as; the operations are in `Machine/SMap.lean`. -/
abbrev SMap (α : Type) := List (Nat × α)

end Sys2Proof
end

