-- ==== Sys2Proof/Syntax.lean ====
section
/-! DEFINITION. The instructions and events of the UH-576 as data: one constructor of `Instr` per row
of spec/opcode_table.json. Instruction rows carry decoded operands (R127 to R135 and each entry's
table); event rows carry what the manual leaves to time (which operation, which part, which value
arrives). -/

namespace Sys2Proof

/-! ### Operands -/

/-- A register operand: a vector register or a group-wide register (R101, R130). -/
inductive Reg where
  | v (n : Fin 192)
  | s (n : Fin 64)
deriving DecidableEq, Repr

/-- A source that IMM32 may replace (R128, R170). -/
inductive Src where
  | reg (r : Reg)
  | imm (w : Word)
deriving DecidableEq, Repr

/-- A guard (R132): `grp` names a group predicate (always with G=1; under QG with G=0),
`neg` inverts it. The unguarded form is p7 or q7, not inverted. -/
structure Guard where
  grp : Bool
  neg : Bool
  idx : Fin 8
deriving DecidableEq, Repr

/-- The integer type codes of R134. -/
inductive IType where
  | b8 | b16 | b32 | b64 | s8 | s16 | s32 | s64 | n8 | n16 | n32 | n64
deriving DecidableEq, Repr

/-- The floating operating formats of R172 ("Float"). -/
inductive FFmt where
  | f32 | bf16 | f16 | bf16x2 | f16x2
deriving DecidableEq, Repr

/-- Memory spaces (R51, R135). -/
inductive Space where
  | g | p | c | k | x | h
deriving DecidableEq, Repr

/-- Fence scopes (R76, R211). -/
inductive Scope where
  | group | team | crew | device | system
deriving DecidableEq, Repr

/-- State registers (R106). -/
inductive SReg where
  | wid | widf | lane | group | team | crew | core | cluster | ctx
  | time | energy | throttle | pathcnt | handler | trapinfo
  | stall (n : Fin 16)
deriving DecidableEq, Repr

/-- A numeric format named by a 6-bit code of R27 that stands in some role. -/
inductive NFmt where
  | none | f32 | bf16 | f16 | s8 | n8
  /-- binary8: `uns` unsigned, `inf` infinity variant, precision `p + 1`. -/
  | b8 (uns inf : Bool) (p : Fin 7)
deriving DecidableEq, Repr

/-- A conversion type of R189: a signed or unsigned integer, or a floating format. -/
inductive CvtType where
  | int (t : IType)
  | flt (f : NFmt)
deriving DecidableEq, Repr

/-- A floating type: the format codes s8 and n8 act as the integer codes .s8 and .n8 (R189). -/
def CvtType.floating : CvtType → Bool
  | .int _ | .flt .s8 | .flt .n8 => false
  | .flt _ => true

/-- Integer comparison conditions (R177). -/
inductive ICond where
  | eq | ne | lt | le | gt | ge
deriving DecidableEq, Repr

/-- Floating comparison conditions (R185). -/
inductive FCond where
  | eq | ne | lt | le | gt | ge | un | ord
deriving DecidableEq, Repr

/-- Lane exchange modes (R192). -/
inductive ShflMode where
  | idx | up | down | xor
deriving DecidableEq, Repr

/-- Reduction operations (R193). -/
inductive RedOp where
  | add | min | max
deriving DecidableEq, Repr

/-- Types of `lred`, `lscan` and `topk` (R172). -/
inductive RedType where
  | s32 | n32 | s64 | n64 | f32 | bf16 | f16
deriving DecidableEq, Repr

/-- Atomic operations (R212), in the order of their codes 0 to 13. -/
inductive AtomOp where
  | add | minS | minN | maxS | maxN | and | or | xor | exch | cas | inc | addF32 | addBf16x2 | addF16x2
deriving DecidableEq, Repr

/-- Register counts of `ldv` and `stv` (R201): 4, 8 or 16. -/
inductive VSize where
  | w16 | w32 | w64
deriving DecidableEq, Repr

/-- Element sizes of a window (R386): 4, 8 or 16 bytes. -/
inductive ESize where
  | e4 | e8 | e16
deriving DecidableEq, Repr

/-- Message routes (R399). -/
inductive Route where
  | minimal | plus | minus
deriving DecidableEq, Repr

/-- Reorder record selectors (R335). -/
inductive RSel where
  | key | count | seq | inst | spill | tkey | from | rank
deriving DecidableEq, Repr

/-- Forms of `vote` (R163). -/
inductive VoteForm where
  | ballot (d : Fin 64) (b : Fin 8)
  | any (d b : Fin 8)
  | all (d b : Fin 8)
  | eq (d : Fin 8) (a : Fin 192)
deriving DecidableEq, Repr

/-! ### Forms: the operands that several instructions share -/

/-- `getsr` (R159). -/
structure GetsrForm where
  g : Bool
  gd : Guard
  sel : SReg
  d : Reg
deriving DecidableEq, Repr

/-- `mov` (R161). -/
structure MovForm where
  g : Bool
  gd : Guard
  w64 : Bool
  d : Reg
  a : Reg
deriving DecidableEq, Repr

/-- `movi.b32` (R161). -/
structure Movi32Form where
  g : Bool
  gd : Guard
  d : Reg
  imm : Word
deriving DecidableEq, Repr

/-- `movi.b64` (R161). -/
structure Movi64Form where
  g : Bool
  gd : Guard
  d : Reg
  imm : DWord
deriving DecidableEq, Repr

/-- `sel` (R161). -/
structure SelForm where
  g : Bool
  gd : Guard
  w64 : Bool
  d : Reg
  a : Reg
  b : Reg
  c : Fin 8
deriving DecidableEq, Repr

/-- Two-source integer, logic and shift instructions (R172); `sat` is FN[5:4] = 0b01. -/
structure AluForm where
  g : Bool
  gd : Guard
  ty : IType
  sat : Bool
  d : Reg
  a : Reg
  b : Src
deriving DecidableEq, Repr

/-- `mad` and `bfi` (R172): IMM32 replaces C. -/
structure MadForm where
  g : Bool
  gd : Guard
  ty : IType
  sat : Bool
  d : Reg
  a : Reg
  b : Reg
  c : Src
deriving DecidableEq, Repr

/-- One-source integer instructions (R172). -/
structure UnForm where
  g : Bool
  gd : Guard
  ty : IType
  sat : Bool
  d : Reg
  a : Reg
deriving DecidableEq, Repr

/-- `cmp` (R177). -/
structure CmpForm where
  g : Bool
  gd : Guard
  ty : IType
  cond : ICond
  d : Fin 8
  a : Reg
  b : Src
deriving DecidableEq, Repr

/-- `addc` and `subc` (R176). -/
structure CarryForm where
  g : Bool
  gd : Guard
  ty : IType
  d : Reg
  a : Reg
  b : Reg
  c : Fin 8
deriving DecidableEq, Repr

/-- `div` and `rem` (R175), with a lookahead count. -/
structure DivForm where
  gd : Guard
  la : Fin 16
  ty : IType
  d : Reg
  a : Reg
  b : Src
deriving DecidableEq, Repr

/-- Two-source floating instructions (R182, R183). -/
structure FAluForm where
  gd : Guard
  fmt : FFmt
  d : Reg
  a : Reg
  b : Src
deriving DecidableEq, Repr

/-- `fma` (R182). -/
structure FmaForm where
  gd : Guard
  fmt : FFmt
  d : Reg
  a : Reg
  b : Reg
  c : Src
deriving DecidableEq, Repr

/-- `fabs`, `fneg`, `fclass` (R184, R186). -/
structure FUnForm where
  gd : Guard
  fmt : FFmt
  d : Reg
  a : Reg
deriving DecidableEq, Repr

/-- `fcmp` (R185). -/
structure FcmpForm where
  gd : Guard
  fmt : FFmt
  cond : FCond
  d : Fin 8
  a : Reg
  b : Src
deriving DecidableEq, Repr

/-- `rcp` to `tanh` (R188), with a lookahead count. -/
structure FLongForm where
  gd : Guard
  la : Fin 16
  fmt : FFmt
  d : Reg
  a : Reg
deriving DecidableEq, Repr

/-- `dot2` (R187). -/
structure Dot2Form where
  gd : Guard
  fmt : FFmt
  d : Reg
  a : Reg
  b : Reg
  c : Reg
deriving DecidableEq, Repr

/-- `cvt` (R189, R190). -/
structure CvtForm where
  gd : Guard
  dst : CvtType
  src : CvtType
  sat : Bool
  trunc : Bool
  d : Reg
  a : Reg
deriving DecidableEq, Repr

/-- `prmb` (R191): `b` is absent in `.nib` mode. -/
structure PrmbForm where
  gd : Guard
  d : Reg
  a : Reg
  b : Option Reg
  c : Src
deriving DecidableEq, Repr

/-- `shfl` (R192): the immediate form carries the lane amount. -/
structure ShflForm where
  gd : Guard
  w64 : Bool
  mode : ShflMode
  d : Reg
  a : Reg
  b : Src
deriving DecidableEq, Repr

/-- `lred` and `lscan` (R193); `excl` is `.excl` of `lscan`. -/
structure RedForm where
  gd : Guard
  la : Fin 16
  ty : RedType
  op : RedOp
  excl : Bool
  d : Reg
  a : Reg
deriving DecidableEq, Repr

/-- `topk` (R194). -/
structure TopkForm where
  gd : Guard
  la : Fin 16
  ty : RedType
  min : Bool
  rank : Bool
  k : Fin 64
  d : Reg
  a : Reg
deriving DecidableEq, Repr

/-- A memory address `[base + index + #disp]` (R196); an absent displacement is the 64-bit form. -/
structure Addr where
  base : Option Reg
  index : Option Reg
  disp : Option Word
deriving DecidableEq, Repr

/-- `ld` (R198); `cm` marks a consuming access (R199). -/
structure LdForm where
  g : Bool
  gd : Guard
  la : Fin 16
  cm : Bool
  ty : IType
  space : Space
  d : Reg
  addr : Addr
deriving DecidableEq, Repr

/-- `st` (R198). -/
structure StForm where
  g : Bool
  gd : Guard
  ty : IType
  space : Space
  data : Reg
  addr : Addr
deriving DecidableEq, Repr

/-- `ldv` (R201). -/
structure LdvForm where
  gd : Guard
  la : Fin 16
  cm : Bool
  size : VSize
  space : Space
  d : Reg
  addr : Addr
deriving DecidableEq, Repr

/-- `stv` (R201). -/
structure StvForm where
  gd : Guard
  size : VSize
  space : Space
  data : Reg
  addr : Addr
deriving DecidableEq, Repr

/-- `cpa` (R202): `size` is 4, 8 or 16 bytes; `ck` places the cell in .k. -/
structure CpaForm where
  gd : Guard
  size : ESize
  dspace : Space
  sspace : Space
  ck : Bool
  a : Reg
  b : Reg
  c : Fin 64
deriving DecidableEq, Repr

/-- `cell.init` (R206); `k` is the space .k. -/
structure CellInitForm where
  gd : Guard
  k : Bool
  a : Fin 64
  b : Fin 64
  c : Fin 64
deriving DecidableEq, Repr

/-- `cell.arrive` (R207). -/
structure CellArriveForm where
  gd : Guard
  k : Bool
  d : Fin 64
  a : Fin 64
  b : Fin 64
deriving DecidableEq, Repr

/-- `cell.wait` (R208): `b` is the mask pair of `.chunk`. -/
structure CellWaitForm where
  gd : Guard
  k : Bool
  phase : Bool
  ext : Bool
  a : Fin 64
  b : Option (Fin 64)
deriving DecidableEq, Repr

/-- `cell.test` (R208). -/
structure CellTestForm where
  gd : Guard
  k : Bool
  phase : Bool
  d : Fin 8
  a : Fin 64
  b : Option (Fin 64)
deriving DecidableEq, Repr

/-- `cell.arm` (R209). -/
structure CellArmForm where
  gd : Guard
  k : Bool
  phase : Bool
  a : Fin 64
deriving DecidableEq, Repr

/-- Threshold of `waitc` (R210). -/
inductive Threshold where
  | reg (s : Fin 64)
  | imm (t : Fin 64)
deriving DecidableEq, Repr

/-- `atom` and `red` (R212): space .x when `x`, else .g; `c` is the new value of `.cas`. -/
structure AtomForm where
  g : Bool
  gd : Guard
  la : Fin 16
  op : AtomOp
  w64 : Bool
  x : Bool
  d : Reg
  base : Reg
  b : Reg
  c : Option Reg
  disp : Option Word
deriving DecidableEq, Repr

/-- `red` (R212). -/
structure RedAtForm where
  g : Bool
  gd : Guard
  op : AtomOp
  w64 : Bool
  x : Bool
  base : Reg
  b : Reg
  disp : Option Word
deriving DecidableEq, Repr

/-- `ldr` (R214). -/
structure LdrForm where
  g : Bool
  gd : Guard
  la : Fin 16
  w64 : Bool
  x : Bool
  d : Reg
  base : Reg
  disp : Option Word
deriving DecidableEq, Repr

/-- `stc` (R214). -/
structure StcForm where
  g : Bool
  gd : Guard
  la : Fin 16
  w64 : Bool
  x : Bool
  d : Reg
  base : Reg
  b : Reg
  disp : Option Word
deriving DecidableEq, Repr

/-- `flush` and `inval` (R216): `.all` has no address; `wide` is its 96-bit length. -/
inductive LineArg where
  | all (wide : Bool)
  | at (addr : Addr)
deriving DecidableEq, Repr

/-- `bcomp` (R217). -/
structure BcompForm where
  gd : Guard
  dspace : Space
  sspace : Space
  ck : Bool
  a : Fin 64
  b : Fin 64
  c : Fin 64
  n : Fin 16
  big : Bool
  two : Bool
  q : Fin 8
deriving DecidableEq, Repr

/-- Operand spaces of `mma` (R225): .c, .k, .x or .h. -/
inductive MSpace where
  | c | k | x | h
deriving DecidableEq, Repr

/-- Variants of `mma` (R225, R229): the packed A stride belongs to dense and gather. -/
inductive MVar where
  | dense (astr : BitVec 16)
  | gather (astr : BitVec 16) (idx : Fin 192)
  | sparse (q : Fin 8)
deriving DecidableEq, Repr

/-- `mma` (R225, R229). -/
structure MmaForm where
  gd : Guard
  d : Fin 4
  aspace : MSpace
  bspace : MSpace
  z : Bool
  ca : Bool
  cb : Bool
  a : Fin 64
  b : Fin 64
  c : Fin 64
  var : MVar
  bstr : BitVec 16
  kq : Fin 48
deriving DecidableEq, Repr

/-- `mqinit` (R238). -/
structure MqinitForm where
  gd : Guard
  k : Bool
  q : Fin 8
  a : Fin 64
  b : Fin 64
deriving DecidableEq, Repr

/-- `mdrain` (R241). -/
structure MdrainForm where
  gd : Guard
  fmt : NFmt
  add : Bool
  space : Space
  a : Fin 64
  b : Fin 64
  c : Fin 4
deriving DecidableEq, Repr

/-- `mload` (R243). -/
structure MloadForm where
  gd : Guard
  fmt : NFmt
  space : Space
  d : Fin 4
  a : Fin 64
  b : Fin 64
deriving DecidableEq, Repr

/-- `reorder` (R319). -/
structure ReorderForm where
  a : Reg
  merge : Bool
  stream : Bool
  vmask : BitVec 24
  smask : BitVec 8
deriving DecidableEq, Repr

/-- `rinfo` (R335). -/
structure RinfoForm where
  g : Bool
  gd : Guard
  sel : RSel
  d : Reg
deriving DecidableEq, Repr

/-- `bar.arrive` and `bar.sync` (R343): `cnt` names the explicit count's register. -/
structure BarForm where
  gd : Guard
  b : Fin 16
  crew : Bool
  cnt : Option (Fin 64)
deriving DecidableEq, Repr

/-- `bar.arrive.rem` (R346): `team` is absent under `.crew`. -/
structure BarRemForm where
  gd : Guard
  b : Fin 16
  crewReg : Fin 64
  cnt : Fin 64
  team : Option (Fin 64)
deriving DecidableEq, Repr

/-- `bar.wait` (R345). -/
structure BarWaitForm where
  gd : Guard
  b : Fin 16
  crew : Bool
deriving DecidableEq, Repr

/-- `launch` (R294): `c` is the context register of `.ctx`. -/
structure LaunchForm where
  gd : Guard
  sys : Bool
  a : Fin 64
  b : Fin 64
  c : Option (Fin 64)
deriving DecidableEq, Repr

/-- `tlsig` (R277). -/
structure TlsigForm where
  gd : Guard
  sys : Bool
  set : Bool
  a : Fin 64
  b : Fin 64
deriving DecidableEq, Repr

/-- `tlwait`, 64-bit form (R277). -/
structure TlwaitForm where
  gd : Guard
  sys : Bool
  ext : Bool
  d : Fin 8
  a : Fin 64
  b : Fin 64
deriving DecidableEq, Repr

/-- `tlwait.ext`, 96-bit form (R277): `us` is the timeout in microseconds. -/
structure TlwaitExtForm where
  gd : Guard
  sys : Bool
  d : Fin 8
  a : Fin 64
  b : Fin 64
  us : Word
deriving DecidableEq, Repr

/-- `msend` (R399). -/
structure MsendForm where
  gd : Guard
  k : Bool
  route : Route
  a : Fin 64
  b : Fin 64
  c : Fin 64
  tag : BitVec 16
deriving DecidableEq, Repr

/-- `mrecv` (R399). -/
structure MrecvForm where
  gd : Guard
  k : Bool
  d : Fin 64
  a : Fin 64
  b : Fin 64
  c : Fin 64
  tag : BitVec 16
deriving DecidableEq, Repr

/-- `mprobe` (R399). -/
structure MprobeForm where
  gd : Guard
  d : Fin 64
  a : Fin 64
  tag : BitVec 16
deriving DecidableEq, Repr

/-- `ratom`, 64-bit form (R399, R405): no destination under `.nr`. -/
structure RatomForm where
  g : Bool
  gd : Guard
  la : Fin 16
  op : AtomOp
  w64 : Bool
  d : Option Reg
  a : Fin 64
  b : Reg
  c : Fin 64
deriving DecidableEq, Repr

/-- `ratom.cas`, 128-bit form (R399, R405): `e` is the new value. -/
structure RatomCasForm where
  g : Bool
  gd : Guard
  la : Fin 16
  w64 : Bool
  d : Option Reg
  a : Fin 64
  b : Reg
  c : Fin 64
  e : Fin 64
deriving DecidableEq, Repr

/-- `bindw` (R383). -/
structure BindwForm where
  gd : Guard
  slot : Fin 64
  e : ESize
  a : Fin 64
  b : Fin 64
  c : Fin 64
deriving DecidableEq, Repr

/-! ### Arguments of the event rows -/

/-- A group's place: its cluster, logical core and group slot (R299). -/
structure GroupId where
  cluster : Nat
  core : Nat
  slot : Nat
deriving DecidableEq, Repr

/-- What a load's delivery brings: the whole operation, or of one on several paths the accesses that lie on a
path (R70). -/
inductive Delivery where
  | whole (op : Nat)
  | onPath (op path : Nat)
deriving DecidableEq, Repr

/-- A device access by a peer or by our own group to a peer (R83, R391, R406). -/
inductive IngressAct where
  /-- Our group's access, named by its request, is accepted at the peer's ingress or the adapter. -/
  | outbound (req : Nat)
  /-- A peer device's access, which came in by one of our stitch ports and is held packet number `n`. -/
  | inbound (n : Nat)
deriving DecidableEq, Repr

/-- An atomic at an ingress controller (R406). -/
inductive IngressAtomic where
  | outbound (req : Nat)
  | inbound (n : Nat)
  /-- Eviction of the least recently used word of a port's cache. -/
  | evict (port : Nat)
deriving DecidableEq, Repr

/-- The address, operand and reply fields of a packet, by its TYPE (R391). -/
inductive PktBody where
  /-- A message has none. -/
  | none
  /-- Physical address in the destination's local HBM4, and bytes, of a read or a write. -/
  | addr (pa size : Nat)
  /-- An atomic on a word: a physical address, or an offset of chip scratchpad of the context that has the
  packet's job (R405). -/
  | atomic (share : Bool) (at_ : Nat) (w64 : Bool) (op : AtomOp) (b c : Nat)
  /-- A reply or completion of an operation of the destination: the code of a refusal or 0, and a T_w. -/
  | reply (code tw : Nat)
deriving DecidableEq, Repr

/-- The header fields of a packet (R391), its payload, and how its directions are chosen (R394). -/
structure PktHeader where
  seq : Nat
  cls : Fin 4
  len : Nat
  job : Nat
  tag : Nat
  typ : Nat
  srcClu : Nat
  srcDev : Nat
  dstClu : Nat
  dstDev : Nat
  payload : List Byte
  route : Route
  /-- Sending group and operation, by which answers return and R398 orders. -/
  flow : Nat
  op : Nat
  body : PktBody
deriving DecidableEq, Repr

/-- One hop of a packet (R392 to R395). -/
inductive HopAct where
  /-- A packet from the neighbour enters port `port` of this device. -/
  | enter (port : Nat) (pkt : PktHeader)
  /-- Held packet number `n` leaves for the next device, or stays for its destination here. -/
  | forward (n : Nat)
  /-- The packet of one of our requests to a peer, or to the host, leaves by a link. -/
  | depart (req : Nat)
  /-- The next device has sent on what an operation of ours sent there. -/
  | onward (op : Nat)
deriving DecidableEq, Repr

/-- The groups that a debug command names (R427). -/
inductive DbgSel where
  | all
  | one (g : GroupId)
deriving DecidableEq, Repr

/-- The outcome of an ECC check (R265, R416). -/
inductive EccAct where
  | corrected (island : Nat)
  | inContext (ctx : Nat)
  /-- A ring's record, found uncorrectable during capsule assembly (R411). -/
  | inRing (cluster core index : Nat)
  | unowned (island : Nat)
deriving DecidableEq, Repr

/-- What the dispatcher's placement of a crew leaves open: the base of each team's private area,
in team order (R60: "the launch assigns it"). -/
structure PlaceChoice where
  privBases : List Nat
deriving DecidableEq, Repr

/-! ### The table -/

/-- One constructor per row of spec/opcode_table.json, in its order. -/
inductive Instr where
  -- control and group-wide instructions (R148)
  | br (gd : Guard) (disp : Word)
  | rcv (tok : Fin 16)
  | jmpi (gd : Guard) (a : Fin 64)
  | call (gd : Guard) (disp : Word)
  | callReg (gd : Guard) (a : Fin 64)
  | ret (gd : Guard)
  | safept
  | safeptMask (mask : Word)
  | brd (gd : Guard) (tok : Fin 16) (disp : Word)
  | exit (gd : Guard)
  | trap (gd : Guard) (code : BitVec 16)
  | trapBreak (gd : Guard) (code : BitVec 16)
  | tret
  | halt (gd : Guard)
  | yield (gd : Guard)
  | getsr (f : GetsrForm)
  | mov (f : MovForm)
  | movi32 (f : Movi32Form)
  | movi64 (f : Movi64Form)
  | sel (f : SelForm)
  | setsr (gd : Guard) (a : Fin 64)
  | setq (gd : Guard) (d : Fin 8) (a : Fin 64)
  | qand (gd : Guard) (d a b : Fin 8)
  | qor (gd : Guard) (d a b : Fin 8)
  | qnot (gd : Guard) (d a : Fin 8)
  | vote (gd : Guard) (v : VoteForm)
  /-- 64-bit form: the lane register, or none for `.first`. -/
  | bcast (gd : Guard) (w64 : Bool) (d : Fin 64) (a : Fin 192) (l : Option (Fin 64))
  | bcastImm (gd : Guard) (w64 : Bool) (d : Fin 64) (a : Fin 192) (l : Fin 32)
  | actm (gd : Guard) (d : Fin 64)
  | popc (gd : Guard) (d a : Fin 64)
  | ffs (gd : Guard) (d a : Fin 64)
  -- integer instructions (R172, R166)
  | add (f : AluForm)
  | sub (f : AluForm)
  | mul (f : AluForm)
  | mulhi (f : AluForm)
  | mad (f : MadForm)
  | min (f : AluForm)
  | max (f : AluForm)
  | abs (f : UnForm)
  | neg (f : UnForm)
  | and (f : AluForm)
  | or (f : AluForm)
  | xor (f : AluForm)
  | not (f : UnForm)
  | andn (f : AluForm)
  | shl (f : AluForm)
  | shr (f : AluForm)
  | sar (f : AluForm)
  | rot (f : AluForm)
  | bfe (f : AluForm)
  | bfi (f : MadForm)
  | bcnt (f : UnForm)
  | clz (f : UnForm)
  | brev (f : UnForm)
  | cmp (f : CmpForm)
  | addc (f : CarryForm)
  | subc (f : CarryForm)
  | div (f : DivForm)
  | rem (f : DivForm)
  -- floating instructions
  | fadd (f : FAluForm)
  | fsub (f : FAluForm)
  | fmul (f : FAluForm)
  | fma (f : FmaForm)
  | fmin (f : FAluForm)
  | fmax (f : FAluForm)
  | fabs (f : FUnForm)
  | fneg (f : FUnForm)
  | fcmp (f : FcmpForm)
  | fclass (f : FUnForm)
  | rcp (f : FLongForm)
  | rsqrt (f : FLongForm)
  | sqrt (f : FLongForm)
  | exp2 (f : FLongForm)
  | log2 (f : FLongForm)
  | sinpi (f : FLongForm)
  | tanh (f : FLongForm)
  | dot2 (f : Dot2Form)
  | cvt (f : CvtForm)
  | prmb (f : PrmbForm)
  | shfl (f : ShflForm)
  | lred (f : RedForm)
  | lscan (f : RedForm)
  | topk (f : TopkForm)
  /-- A fetched word with LEN = 0b11 (R125). -/
  | padWord (w : Word)
  -- memory, copy and atomic instructions (R197)
  | ld (f : LdForm)
  | st (f : StForm)
  | ldv (f : LdvForm)
  | stv (f : StvForm)
  | cpa (f : CpaForm)
  | cellInit (f : CellInitForm)
  | cellArrive (f : CellArriveForm)
  | cellWait (f : CellWaitForm)
  | cellTest (f : CellTestForm)
  | cellArm (f : CellArmForm)
  | waitc (gd : Guard) (path : Fin 8) (thr : Threshold)
  | fenceRel (gd : Guard) (scope : Scope)
  | fenceAcq (gd : Guard) (scope : Scope)
  | fenceSc (gd : Guard) (scope : Scope)
  | atom (f : AtomForm)
  | red (f : RedAtForm)
  | ldr (f : LdrForm)
  | stc (f : StcForm)
  | prefetch (gd : Guard) (addr : Addr)
  | flush (gd : Guard) (arg : LineArg)
  | inval (gd : Guard) (arg : LineArg)
  | bcomp (f : BcompForm)
  -- matrix instructions (R225)
  | mres (gd : Guard) (mask : BitVec 4)
  | mrel (gd : Guard) (mask : BitVec 4)
  | mzero (gd : Guard) (d : Fin 4)
  | mma (f : MmaForm)
  | mqinit (f : MqinitForm)
  | mdrain (f : MdrainForm)
  | mload (f : MloadForm)
  -- tiles and queues (R358)
  | talloc (gd : Guard) (p : Fin 16) (d b : Fin 64)
  | tallocImm (gd : Guard) (p : Fin 16) (d : Fin 64) (n : BitVec 8)
  | tinfo (gd : Guard) (d a : Fin 64)
  | tpart (gd : Guard) (p : Fin 16) (d b : Fin 64)
  | qpush (gd : Guard) (h : Fin 16) (a : Fin 64)
  | qpop (gd : Guard) (h : Fin 16) (d : Fin 64)
  | qtry (gd : Guard) (h : Fin 16) (d : Fin 64) (c : Fin 8)
  | qmc (gd : Guard) (a b : Fin 64)
  | reorder (f : ReorderForm)
  | rinfo (f : RinfoForm)
  | barArrive (f : BarForm)
  | barArriveRem (f : BarRemForm)
  | barWait (f : BarWaitForm)
  | barSync (f : BarForm)
  | launch (f : LaunchForm)
  | tlsig (f : TlsigForm)
  | tlwait (f : TlwaitForm)
  | tlwaitExt (f : TlwaitExtForm)
  | msend (f : MsendForm)
  | mrecv (f : MrecvForm)
  | mprobe (f : MprobeForm)
  | mwaitr (gd : Guard) (ext : Bool) (d a : Fin 64)
  | mwaitrExt (gd : Guard) (d a : Fin 64) (us : Word)
  | ratom (f : RatomForm)
  | ratomCas (f : RatomCasForm)
  | trace (gd : Guard) (a : Fin 64)
  | traceImm (gd : Guard) (imm : DWord)
  | mark (gd : Guard) (block : BitVec 20)
  | evt (gd : Guard) (code : BitVec 16) (a : Fin 64)
  | bindw (f : BindwForm)
  | unbindw (gd : Guard) (slot : Fin 64)
  -- events of the memory system
  | loadDelivered (op : Delivery)
  | storeAck (op part : Nat)
  /-- `drop` names a line whose expiry record the slice drops to make room (R80). -/
  | sliceLoad (req : Nat) (drop : Option Nat)
  | sliceStore (req : Nat) (drop : Option Nat)
  | sliceAtomic (req : Nat) (drop : Option Nat)
  | timelineSignal (op : Nat)
  | opticalToken (slice : Nat)
  | fenceComplete (g : GroupId) (fence : Nat)
  | qpushVisible (g : GroupId) (path : Nat)
  | barArrivalApply (g : GroupId) (path : Nat)
  | barRemoteApply (op : Nat)
  | launchKickSent (g : GroupId) (path : Nat)
  | tlsigSent (g : GroupId) (path : Nat)
  | bindwComplete (g : GroupId) (path : Nat)
  | tlwaitTimeout (g : GroupId) (path : Nat)
  | mwaitrTimeout (g : GroupId) (path : Nat)
  | yieldExpire (g : GroupId) (path : Nat)
  | reservationExpire (n : Nat)
  | cpaTransfer (op idx : Nat)
  | completionInterrupt (g : GroupId)
  | bcompFinish (op : Nat)
  | bcompFault (op : Nat)
  | metadataPush (op : Nat)
  | mqinitWord (op : Nat)
  | matrixPass (cluster quad : Nat)
  | arbiterPromote (cluster quad entry : Nat)
  | mmaComplete (cluster quad entry : Nat)
  | mresBind (g : GroupId) (path : Nat)
  | mrelUnbind (g : GroupId) (z : Fin 4)
  | mdrainApply (op part : Nat)
  | mdrainComplete (op : Nat)
  | mloadComplete (op : Nat)
  | fragmentSlotFill (g : GroupId) (slot : Fin 2)
  | fragmentUnspill (cluster core : Nat)
  | pathSwap (g : GroupId)
  | groupEnd (g : GroupId)
  | congestionSample (cluster : Nat)
  | crossbarReply (cluster core : Nat) (marked : Bool)
  | reorderArrive (g : GroupId) (path : Nat)
  | dissolveEnd (g : GroupId)
  | reorderEmit (kid crew : Nat)
  | kick (c q : Nat) (v : DWord)
  | doorbell (link page off size : Nat) (v : DWord)
  | packetRead (c q : Nat)
  | sealReread (c q : Nat)
  | waitTimelineTest (kid : Nat)
  | crewPlace (kid : Nat) (ch : PlaceChoice)
  | deadlineDrop (kid : Nat)
  | markerComplete (kid : Nat)
  | kernelBoundary (kid : Nat)
  | crewRetire (kid crew : Nat)
  | kernelRetire (kid : Nat)
  | queueEnable (c q : Nat)
  | queueDisable (c q : Nat)
  | queueRestart (c q : Nat)
  | queueDispatch (c q seq : Nat)
  | ctxCreate (c : Nat)
  | ctxPreempt (c : Nat)
  | ctxResume (c : Nat)
  | ctxKill (c : Nat)
  | ctxDestroy (c : Nat)
  | sliceExpiry (c : Nat)
  | preemptWindowExpire (c : Nat)
  | groupSave (g : GroupId)
  | saveComplete (c : Nat)
  | timeResumePlace (c : Nat)
  | watchdog (c : Nat)
  | containmentComplete (c : Nat)
  | translationWalk (c cluster va : Nat)
  | walkComplete (c va : Nat)
  | pageFaultRecord (g : GroupId) (path : Nat) (page : Nat)
  | pfresp (v : DWord)
  | pftailWrite (v : DWord)
  | tlbinv (v : DWord)
  | tlbinvComplete
  | linkEnable (port : Nat)
  | linkDisable (port : Nat)
  | linkTrained (link : Nat)
  | linkTrainTimeout (link : Nat)
  | linkRetryFail (link : Nat)
  | fibreLockLoss (link : Nat)
  | flitReceive (link : Nat) (crcOk : Bool)
  | creditReport (port sh e0 e1 : Nat)
  | packetHop (a : HopAct)
  /-- The packet held at its destination here is number `n` of the held packets. -/
  | messageArrival (n : Nat)
  | messageAnswer (op : Nat)
  | peerIngressAtomic (a : IngressAtomic)
  | hostAtomic (req : Nat)
  | ingressWrite (a : IngressAct)
  | hostWrite (link pa size : Nat) (data : Nat)
  | hostRead (link pa size : Nat)
  | freezeReceive (cluster core : Nat)
  | capsuleSeal
  | capreq (v : DWord)
  | capsuleViewReady
  | capack (v : DWord)
  | traceDrain (cluster core : Nat)
  | checkpoint (c : Nat)
  | dbgStop (c : Nat) (sel : DbgSel)
  | dbgGo (c : Nat) (sel : DbgSel)
  | dbgStep (c : Nat) (sel : DbgSel)
  | powerUp
  | warmReset
  | powerLoss
  | fwGo (v : DWord)
  | fwLoaded (readOk : Bool)
  | attreq
  | attestReady
  | svcDrain (island : Nat)
  | clusterOffline (cluster : Nat)
  | svcReturn (island : Nat)
  | svcRepair (island core : Nat)
  | svcModule (island addr : Nat)
  | svcCycle (island : Nat)
  | svcComplete
  | powerControlTick (watts : Nat)
  | rampStage (quad : Nat)
  | energyInterval (nj : List (Nat × Nat × Nat))
  | softError (a : EccAct)
  | fabjobWrite (c : Nat) (v : DWord)
  | congctlWrite (v : DWord)
  | congrateWrite (cluster : Nat) (v : DWord)
  | rspillWrite (c : Nat) (v : DWord)
  | pwrcapWrite (v : DWord)
  | rplctlWrite (c : Nat) (v : DWord)
  | trcbaseWrite (c : Nat) (v : DWord)
  | regWrite (off size : Nat) (v : DWord)
  | stallClock (g : GroupId)
  | progressMarkFirst (g : GroupId)
  | completionReply (req : Nat)
  | ingressRead (a : IngressAct)
  | hostAbandonChoice (kid : Nat) (fault : Bool)
deriving DecidableEq, Repr

end Sys2Proof
end

