-- ==== Sys2Proof/WellFormed.lean ====
section
/-! DEFINITION. Which instructions an encoding exists for: the register files, pairs, types, spaces
and immediate ranges that each entry's table accepts (R101 to R135, R148, R172, R197, R225, R277,
R294, R319, R335, R343, R358, R383, R399, R426). Declared register counts (R104) are the launch
header's and are tested at issue. -/

namespace Sys2Proof

/-! ### Registers and guards -/

/-- A destination of `n` registers (1, or 2 for a pair, R102): vector with G=0, group-wide with
G=1 (R130). -/
def Reg.okDest (g : Bool) (n : Nat) : Reg → Bool
  | .v k => !g && k.val % n == 0
  | .s k => g && k.val % n == 0

/-- A source of `n` registers: any file with G=0, group-wide with G=1 (R130, R131). -/
def Reg.okSrc (g : Bool) (n : Nat) : Reg → Bool
  | .v k => !g && k.val % n == 0
  | .s k => k.val % n == 0

/-- The guard's predicate file: q with G=1; p or, where `qg` allows it, q with G=0 (R132). -/
def Guard.ok (g qg : Bool) (gd : Guard) : Bool :=
  if g then gd.grp else qg || !gd.grp

/-- Even group-wide register, the name of a pair (R102). -/
def evenS (n : Fin 64) : Bool := n.val % 2 == 0

/-! ### Types -/

/-- Width in bits (R134). -/
def IType.width : IType → Nat
  | .b8 | .s8 | .n8 => 8
  | .b16 | .s16 | .n16 => 16
  | .b32 | .s32 | .n32 => 32
  | .b64 | .s64 | .n64 => 64

/-- Signed kinds (R134, R169). -/
def IType.signed : IType → Bool
  | .s8 | .s16 | .s32 | .s64 => true
  | _ => false

/-- Unsigned arithmetic kinds `.n` (R134). -/
def IType.isN : IType → Bool
  | .n8 | .n16 | .n32 | .n64 => true
  | _ => false

/-- Plain bit kinds `.b` (R134). -/
def IType.isB : IType → Bool
  | .b8 | .b16 | .b32 | .b64 => true
  | _ => false

/-- Registers that a value of the type occupies (R102, R169). -/
def IType.regs (t : IType) : Nat := if t.width = 64 then 2 else 1

/-- Registers for a 32- or 64-bit value. -/
def wregs (w64 : Bool) : Nat := if w64 then 2 else 1

/-- Width 32 or 64, any kind. -/
def IType.wide (t : IType) : Bool := t.width == 32 || t.width == 64

/-- The IMM32 of an integer type: bits [31:w] repeat the sign for `.s`, are zero otherwise
(R170). -/
def IType.immOk (t : IType) (w : Word) : Bool :=
  t.width ≥ 32 ||
  (if t.signed then (w.extractLsb' 0 t.width).signExtend 32 == w
   else (w.extractLsb' 0 t.width).zeroExtend 32 == w)

/-- Scalar floating formats of the vector instructions. -/
def FFmt.scalar : FFmt → Bool
  | .f32 | .bf16 | .f16 => true
  | _ => false

/-- The IMM32 of a floating type: bits [31:16] are reserved for a 16-bit scalar (R170). -/
def FFmt.immOk (f : FFmt) (w : Word) : Bool :=
  match f with
  | .bf16 | .f16 => w.toNat < 2 ^ 16
  | _ => true

/-- Roles of R28 other than a block scale: every format but `none`. -/
def NFmt.real : NFmt → Bool
  | .none => false
  | _ => true

/-- Formats of `mload` (R243). -/
def NFmt.loadable : NFmt → Bool
  | .f32 | .bf16 | .f16 => true
  | _ => false

/-- Conversion types (R189): an integer type is never `.b`; a float never `none`. -/
def CvtType.ok : CvtType → Bool
  | .int t => !t.isB
  | .flt f => f.real

def CvtType.regs : CvtType → Nat
  | .int t => t.regs
  | .flt _ => 1

/-- Registers of a reduction type (R172). -/
def RedType.regs : RedType → Nat
  | .s64 | .n64 => 2
  | _ => 1

/-- Access width of a state register (R106). -/
def SReg.regs : SReg → Nat
  | .wid | .widf | .time | .energy | .pathcnt | .handler | .trapinfo => 2
  | _ => 1

/-- Lane scope (R106). -/
def SReg.laneScope : SReg → Bool
  | .wid | .lane | .team => true
  | _ => false

def RSel.laneScope : RSel → Bool
  | .tkey | .from | .rank => true
  | _ => false

/-- Registers of `ldv` and `stv` (R201). -/
def VSize.regs : VSize → Nat
  | .w16 => 4
  | .w32 => 8
  | .w64 => 16

/-- `atom` accepts every code but the float additions (R212). -/
def AtomOp.okAtom : AtomOp → Bool
  | .addF32 | .addBf16x2 | .addF16x2 => false
  | _ => true

/-- `red` accepts every code but `.exch` and `.cas`; float additions are 32-bit (R212). -/
def AtomOp.okRed (w64 : Bool) : AtomOp → Bool
  | .exch | .cas => false
  | .addF32 | .addBf16x2 | .addF16x2 => !w64
  | _ => true

/-! ### Operands -/

/-- An immediate or a source of `n` registers; `immOk` tests an immediate. -/
def Src.ok (g : Bool) (n : Nat) (immOk : Word → Bool) : Src → Bool
  | .reg r => r.okSrc g n
  | .imm w => immOk w

/-- Any 32-bit word is a legal immediate below bound `b` bits. -/
def immBits (b : Nat) (w : Word) : Bool := w.toNat < 2 ^ b

/-- A memory operand (R196): a pair base in .g. -/
def Addr.ok (g : Bool) (sp : Space) (a : Addr) : Bool :=
  (match a.base with
   | some r => r.okSrc g (if sp = .g then 2 else 1)
   | none => true) &&
  (match a.index with
   | some r => r.okSrc g 1
   | none => true) &&
  !(g && sp == .p)

/-- An address register of `cpa` or a matrix move: a pair in .g and .h (R202). -/
def Space.cpaRegs : Space → Nat
  | .g | .h => 2
  | _ => 1

/-- Copy spaces (R202, R217). -/
def Space.copyable : Space → Bool
  | .p => false
  | _ => true

def vreg16 (n : Nat) (r : Reg) : Bool :=
  match r with
  | .v k => k.val % 4 == 0 && k.val + n ≤ 192
  | .s _ => false

/-! ### Instructions -/

/-- The operand test of an integer two-source form. -/
def AluForm.ok (f : AluForm) (ty : Bool) (satOk : Bool) (amount : Option Nat) : Bool :=
  f.gd.ok f.g true && ty && (!f.sat || (satOk && !f.ty.isB)) &&
  f.d.okDest f.g f.ty.regs && f.a.okSrc f.g f.ty.regs &&
  (match amount with
   | none => f.b.ok f.g f.ty.regs f.ty.immOk
   | some n => f.b.ok f.g 1 (immBits n))

def UnForm.ok (f : UnForm) (ty : Bool) (satOk : Bool) : Bool :=
  f.gd.ok f.g true && ty && (!f.sat || satOk) &&
  f.d.okDest f.g f.ty.regs && f.a.okSrc f.g f.ty.regs

def FAluForm.ok (f : FAluForm) : Bool :=
  f.gd.ok false true && f.d.okDest false 1 && f.a.okSrc false 1 && f.b.ok false 1 f.fmt.immOk

def FUnForm.ok (f : FUnForm) : Bool :=
  f.gd.ok false true && f.d.okDest false 1 && f.a.okSrc false 1

def FLongForm.ok (f : FLongForm) : Bool :=
  f.gd.ok false false && f.d.okDest false 1 && f.a.okSrc false 1

def RedForm.ok (f : RedForm) (exclOk : Bool) : Bool :=
  f.gd.ok false false && (exclOk || !f.excl) && f.d.okDest false f.ty.regs &&
  f.a.okSrc false f.ty.regs

def CarryForm.ok (f : CarryForm) : Bool :=
  f.gd.ok f.g true && (f.ty == .n32 || f.ty == .n64) && f.d.okDest f.g f.ty.regs &&
  f.a.okSrc f.g f.ty.regs && f.b.okSrc f.g f.ty.regs

def DivForm.ok (f : DivForm) : Bool :=
  f.gd.ok false false && f.ty.wide && !f.ty.isB && f.d.okDest false f.ty.regs &&
  f.a.okSrc false f.ty.regs && f.b.ok false f.ty.regs f.ty.immOk

def MadForm.okMad (f : MadForm) : Bool :=
  f.gd.ok f.g true && (!f.sat || !f.ty.isB) && f.d.okDest f.g f.ty.regs &&
  f.a.okSrc f.g f.ty.regs && f.b.okSrc f.g f.ty.regs && f.c.ok f.g f.ty.regs f.ty.immOk

def MadForm.okBfi (f : MadForm) : Bool :=
  f.gd.ok f.g true && !f.sat && (f.ty == .b32 || f.ty == .b64) && f.d.okDest f.g f.ty.regs &&
  f.a.okSrc f.g f.ty.regs && f.b.okSrc f.g f.ty.regs && f.c.ok f.g 1 (immBits 16)

def BarForm.ok (f : BarForm) : Bool := f.gd.ok false true

def AtomForm.ok (f : AtomForm) : Bool :=
  f.gd.ok f.g true && f.op.okAtom && f.d.okDest f.g (wregs f.w64) &&
  f.base.okSrc f.g (if f.x then 1 else 2) && f.b.okSrc f.g (wregs f.w64) &&
  (match f.c with
   | some r => f.op == .cas && r.okSrc f.g (wregs f.w64)
   | none => f.op != .cas)

def RedAtForm.ok (f : RedAtForm) : Bool :=
  f.gd.ok f.g true && f.op.okRed f.w64 && f.base.okSrc f.g (if f.x then 1 else 2) &&
  f.b.okSrc f.g (wregs f.w64)

def LdrForm.ok (f : LdrForm) : Bool :=
  f.gd.ok f.g true && f.d.okDest f.g (wregs f.w64) && f.base.okSrc f.g (if f.x then 1 else 2)

def StcForm.ok (f : StcForm) : Bool :=
  f.gd.ok f.g true && f.d.okDest f.g 1 && f.base.okSrc f.g (if f.x then 1 else 2) &&
  f.b.okSrc f.g (wregs f.w64)

def LdForm.ok (f : LdForm) : Bool :=
  f.gd.ok f.g true && (!f.cm || f.space == .h) && f.d.okDest f.g f.ty.regs &&
  f.addr.ok f.g f.space

def StForm.ok (f : StForm) : Bool :=
  f.gd.ok f.g true && f.data.okSrc f.g f.ty.regs && f.addr.ok f.g f.space

def LdvForm.ok (f : LdvForm) : Bool :=
  f.gd.ok false true && (!f.cm || f.space == .h) && vreg16 f.size.regs f.d &&
  f.addr.ok false f.space

def StvForm.ok (f : StvForm) : Bool :=
  f.gd.ok false true && vreg16 f.size.regs f.data && f.addr.ok false f.space

def CpaForm.ok (f : CpaForm) : Bool :=
  f.gd.ok false true && f.dspace.copyable && f.sspace.copyable &&
  f.a.okSrc false f.dspace.cpaRegs && f.b.okSrc false f.sspace.cpaRegs

def LineArg.ok : LineArg → Bool
  | .all _ => true
  | .at a => a.ok false .p

def BcompForm.ok (f : BcompForm) : Bool :=
  f.gd.ok false true && f.dspace.copyable && f.sspace.copyable && f.dspace != .h &&
  f.sspace != .h && (f.sspace != .g || evenS f.a) && (f.dspace != .g || evenS f.b)

def MmaForm.ok (f : MmaForm) : Bool :=
  f.gd.grp && (!f.ca || f.aspace == .h) && (!f.cb || f.bspace == .h) && f.c.val % 4 == 0 &&
  (match f.var with
   | .gather _ idx => idx.val % 2 == 0
   | _ => true)

def MdrainForm.ok (f : MdrainForm) : Bool :=
  f.gd.grp && f.fmt.real && f.space != .p && !(f.add && (f.space == .g || f.space == .x)) &&
  (f.space != .g || evenS f.a)

def MloadForm.ok (f : MloadForm) : Bool :=
  f.gd.grp && f.fmt.loadable && f.space != .p && (f.space != .g || evenS f.a)

def ReorderForm.ok (f : ReorderForm) : Bool := f.a.okSrc false 1

def RatomForm.ok (f : RatomForm) : Bool :=
  f.gd.ok f.g true && f.b.okSrc f.g 1 && (!f.w64 || evenS f.c) && f.op != .cas &&
  (match f.d with
   | some r => r.okDest f.g (wregs f.w64) && f.op.okAtom
   | none => f.op.okRed f.w64 && f.la.val == 0)

def RatomCasForm.ok (f : RatomCasForm) : Bool :=
  f.gd.ok f.g true && f.b.okSrc f.g 1 && (!f.w64 || evenS f.c) &&
  (!f.w64 || evenS f.e) &&
  (match f.d with
   | some r => r.okDest f.g (wregs f.w64)
   | none => false)

/-- An instruction is well formed when its entry's table gives it an encoding. Event rows have no
encoding and are always well formed. -/
def Instr.wf : Instr → Bool
  | .br gd _ | .call gd _ | .ret gd | .halt gd | .yield gd =>
    gd.grp && true
  | .rcv _ | .safept | .safeptMask _ | .tret => true
  | .brd _ _ _ | .exit _ | .trap _ _ | .trapBreak _ _ => true
  | .getsr f => f.gd.ok f.g true && f.d.okDest f.g f.sel.regs && !(f.g && f.sel.laneScope)
  | .mov f => f.gd.ok f.g true && f.d.okDest f.g (wregs f.w64) && f.a.okSrc f.g (wregs f.w64)
  | .movi32 f => f.gd.ok f.g true && f.d.okDest f.g 1
  | .movi64 f => f.gd.ok f.g true && f.d.okDest f.g 2
  | .sel f => f.gd.ok f.g true && f.d.okDest f.g (wregs f.w64) && f.a.okSrc f.g (wregs f.w64) &&
      f.b.okSrc f.g (wregs f.w64)
  | .jmpi gd a | .callReg gd a | .setsr gd a => gd.grp && evenS a
  | .setq gd _ _ | .qand gd _ _ _ | .qor gd _ _ _ | .qnot gd _ _ | .vote gd _ => gd.grp
  | .bcast gd w64 d a _ => gd.grp && (!w64 || (evenS d && a.val % 2 == 0))
  | .bcastImm gd w64 d a _ => gd.grp && (!w64 || (evenS d && a.val % 2 == 0))
  | .actm gd _ | .popc gd _ _ | .ffs gd _ _ => gd.grp
  | .add f | .sub f => f.ok true true none
  | .mul f => f.ok true false none
  | .mulhi f | .min f | .max f => f.ok (!f.ty.isB) false none
  | .mad f => f.okMad
  | .abs f | .neg f => f.ok f.ty.signed true
  | .and f | .or f | .xor f | .andn f => f.ok f.ty.isB false none
  | .not f => f.ok f.ty.isB false
  | .shl f | .shr f | .rot f => f.ok (f.ty == .b32 || f.ty == .b64) false (some 8)
  | .sar f => f.ok (f.ty == .s32 || f.ty == .s64) false (some 8)
  | .bfe f => f.ok (f.ty.wide && !f.ty.isB) false (some 16)
  | .bfi f => f.okBfi
  | .bcnt f | .clz f | .brev f => f.ok (f.ty == .b32 || f.ty == .b64) false
  | .cmp f => f.gd.ok f.g true && f.a.okSrc f.g f.ty.regs && f.b.ok f.g f.ty.regs f.ty.immOk
  | .addc f | .subc f => f.ok
  | .div f | .rem f => f.ok
  | .fadd f | .fsub f | .fmul f | .fmin f | .fmax f => f.ok
  | .fma f => f.gd.ok false true && f.d.okDest false 1 && f.a.okSrc false 1 &&
      f.b.okSrc false 1 && f.c.ok false 1 f.fmt.immOk
  | .fabs f | .fneg f | .fclass f => f.ok
  | .fcmp f => f.gd.ok false true && f.fmt.scalar && f.a.okSrc false 1 &&
      f.b.ok false 1 f.fmt.immOk
  | .rcp f | .rsqrt f | .sqrt f | .exp2 f | .log2 f | .sinpi f | .tanh f => f.ok
  | .dot2 f => f.gd.ok false true && !f.fmt.scalar && f.d.okDest false 1 && f.a.okSrc false 1 &&
      f.b.okSrc false 1 && f.c.okSrc false 1
  | .cvt f => f.gd.ok false true && f.dst.ok && f.src.ok &&
      !(f.trunc && f.dst.floating) &&
      f.d.okDest false f.dst.regs && f.a.okSrc false f.src.regs
  | .prmb f => f.gd.ok false true && f.d.okDest false 1 && f.a.okSrc false 1 &&
      (match f.b with | some r => r.okSrc false 1 | none => true) && f.c.ok false 1 (immBits 16)
  | .shfl f => f.gd.ok false false && f.d.okDest false (wregs f.w64) &&
      f.a.okSrc false (wregs f.w64) && f.b.ok false 1 (immBits 5)
  | .lred f => f.ok false
  | .lscan f => f.ok true
  | .topk f => f.gd.ok false false && (f.ty == .s32 || f.ty == .n32 || f.ty == .f32) &&
      1 ≤ f.k.val && f.k.val ≤ 32 && f.d.okDest false 1 && f.a.okSrc false 1
  | .padWord w => w.extractLsb' 0 2 == 3
  | .ld f => f.ok
  | .st f => f.ok
  | .ldv f => f.ok
  | .stv f => f.ok
  | .cpa f => f.ok
  | .cellInit f => f.gd.grp
  | .cellArrive f => f.gd.grp
  | .cellWait f => f.gd.grp && (match f.b with | some n => evenS n | none => true)
  | .cellTest f => f.gd.grp && (match f.b with | some n => evenS n | none => true)
  | .cellArm f => f.gd.grp
  | .waitc gd _ _ => gd.grp
  | .fenceRel _ _ | .fenceAcq _ _ | .fenceSc _ _ => true
  | .atom f => f.ok
  | .red f => f.ok
  | .ldr f => f.ok
  | .stc f => f.ok
  | .prefetch gd a => gd.ok false true && a.ok false .g
  | .flush gd a | .inval gd a => gd.ok false true && a.ok
  | .bcomp f => f.ok
  | .mres gd m | .mrel gd m => gd.grp && m != 0
  | .mzero gd _ => gd.grp
  | .mma f => f.ok
  | .mqinit f => f.gd.grp
  | .mdrain f => f.ok
  | .mload f => f.ok
  | .talloc gd _ _ _ | .tallocImm gd _ _ _ | .tinfo gd _ _ | .tpart gd _ _ _ | .qpush gd _ _
  | .qpop gd _ _ | .qtry gd _ _ _ | .qmc gd _ _ => gd.grp
  | .reorder f => f.ok
  | .rinfo f => f.gd.ok f.g true && f.d.okDest f.g 1 && !(f.g && f.sel.laneScope)
  | .barArrive f | .barSync f => f.ok
  | .barArriveRem _ | .barWait _ => true
  | .launch f => f.gd.grp && evenS f.b
  | .tlsig f => f.gd.grp && evenS f.a && evenS f.b
  | .tlwait f => f.gd.grp && evenS f.a && evenS f.b
  | .tlwaitExt f => f.gd.grp && evenS f.a && evenS f.b && f.us != 0
  | .msend f => f.gd.grp
  | .mrecv f => f.gd.grp
  | .mprobe f => f.gd.grp
  | .mwaitr gd _ _ _ => gd.grp
  | .mwaitrExt gd _ _ us => gd.grp && us != 0
  | .ratom f => f.ok
  | .ratomCas f => f.ok
  | .trace gd a => gd.grp && evenS a
  | .traceImm gd _ | .mark gd _ | .evt gd _ _ => gd.grp
  | .bindw f => f.gd.grp && evenS f.a && evenS f.b
  | .unbindw gd _ => gd.grp
  | .loadDelivered .. | .storeAck .. | .sliceLoad .. | .sliceStore .. | .sliceAtomic ..
  | .timelineSignal .. | .opticalToken .. | .fenceComplete .. | .qpushVisible ..
  | .barArrivalApply .. | .barRemoteApply .. | .launchKickSent .. | .tlsigSent ..
  | .bindwComplete .. | .tlwaitTimeout .. | .mwaitrTimeout .. | .yieldExpire ..
  | .reservationExpire .. | .cpaTransfer .. | .completionInterrupt .. | .bcompFinish ..
  | .bcompFault .. | .metadataPush .. | .mqinitWord .. | .matrixPass .. | .arbiterPromote ..
  | .mmaComplete .. | .mresBind .. | .mrelUnbind .. | .mdrainApply .. | .mdrainComplete ..
  | .mloadComplete .. | .fragmentSlotFill .. | .fragmentUnspill .. | .pathSwap .. | .groupEnd ..
  | .congestionSample .. | .crossbarReply .. | .reorderArrive .. | .dissolveEnd ..
  | .reorderEmit .. | .kick .. | .doorbell .. | .packetRead .. | .sealReread ..
  | .waitTimelineTest .. | .crewPlace .. | .deadlineDrop .. | .markerComplete ..
  | .kernelBoundary .. | .crewRetire .. | .kernelRetire .. | .queueEnable .. | .queueDisable ..
  | .queueRestart .. | .queueDispatch .. | .ctxCreate .. | .ctxPreempt .. | .ctxResume ..
  | .ctxKill .. | .ctxDestroy .. | .sliceExpiry .. | .preemptWindowExpire .. | .groupSave ..
  | .saveComplete .. | .timeResumePlace .. | .watchdog .. | .containmentComplete ..
  | .translationWalk .. | .walkComplete .. | .pageFaultRecord .. | .pfresp .. | .pftailWrite ..
  | .tlbinv .. | .tlbinvComplete | .linkEnable .. | .linkDisable .. | .linkTrained ..
  | .linkTrainTimeout .. | .linkRetryFail .. | .fibreLockLoss .. | .flitReceive ..
  | .creditReport .. | .packetHop .. | .messageArrival .. | .messageAnswer ..
  | .peerIngressAtomic .. | .hostAtomic .. | .ingressWrite .. | .hostWrite .. | .hostRead ..
  | .freezeReceive .. | .capsuleSeal | .capreq .. | .capsuleViewReady | .capack ..
  | .traceDrain .. | .checkpoint .. | .dbgStop .. | .dbgGo .. | .dbgStep .. | .powerUp
  | .warmReset | .powerLoss | .fwGo .. | .fwLoaded .. | .attreq | .attestReady | .svcDrain ..
  | .clusterOffline .. | .svcReturn .. | .svcRepair .. | .svcModule .. | .svcCycle ..
  | .svcComplete | .powerControlTick .. | .rampStage .. | .energyInterval .. | .softError ..
  | .fabjobWrite .. | .congctlWrite .. | .congrateWrite .. | .rspillWrite .. | .pwrcapWrite ..
  | .rplctlWrite .. | .trcbaseWrite .. | .regWrite .. | .stallClock .. | .progressMarkFirst ..
  | .completionReply .. | .ingressRead .. | .hostAbandonChoice .. => true

end Sys2Proof
end

