-- ==== Sys2Proof/Decode.lean ====
section
/-! DEFINITION. The decoder (R123 to R136, R142, R144 steps 1 and 3 to 5) and, after it, an encoder
written from the same tables. Step 2 of R144 (block crossing) needs the program counter and is made
at fetch; the parts of step 5 that read the launch header are made at issue. -/

namespace Sys2Proof

/-- Why a word is not an instruction: the trap code of the decode step that stops it (R144), or
`truncated` when fewer words were supplied than LEN asks for. -/
inductive Reject where
  | illegalOpcode
  | reservedNonzero
  | illegalOperand
  | truncated
deriving DecidableEq, Repr

/-- The lengths of R123 other than the pad. -/
inductive Len where
  | l64 | l96 | l128
deriving DecidableEq, Repr

/-- The fields of R127 and R128; `lo` is IMM32 or the low half of EXT64. -/
structure Raw where
  len : Len
  g : Bool
  opc : BitVec 9
  la : BitVec 4
  prd : BitVec 4
  d : BitVec 8
  a : BitVec 8
  b : BitVec 8
  c : BitVec 8
  fn : BitVec 8
  x : BitVec 4
  lo : Word
  hi : Word
deriving DecidableEq, Repr

/-! ### Words and fields -/

def Len.code : Len → BitVec 2
  | .l64 => 0
  | .l96 => 1
  | .l128 => 2

/-- The common 64 bits of R127. -/
def Raw.common (r : Raw) : DWord :=
  r.x ++ r.fn ++ r.c ++ r.b ++ r.a ++ r.d ++ r.prd ++ r.la ++ r.opc ++
    (BitVec.ofBool r.g) ++ r.len.code

/-- The fields of the common 64 bits, with the words above them. -/
def Raw.ofCommon (len : Len) (w : DWord) (lo hi : Word) : Raw where
  len := len
  g := w.getLsbD 2
  opc := w.extractLsb' 3 9
  la := w.extractLsb' 12 4
  prd := w.extractLsb' 16 4
  d := w.extractLsb' 20 8
  a := w.extractLsb' 28 8
  b := w.extractLsb' 36 8
  c := w.extractLsb' 44 8
  fn := w.extractLsb' 52 8
  x := w.extractLsb' 60 4
  lo := lo
  hi := hi

/-- The words of an instruction, lowest address first (R123, R127, R128). -/
def Raw.words (r : Raw) : List Word :=
  let w0 := r.common.extractLsb' 0 32
  let w1 := r.common.extractLsb' 32 32
  match r.len with
  | .l64 => [w0, w1]
  | .l96 => [w0, w1, r.lo]
  | .l128 => [w0, w1, r.lo, r.hi]

/-! ### Operand fields -/

/-- R130, destination column: no register is named by a field that breaks it. -/
def destReg (g : Bool) (f : BitVec 8) : Option Reg :=
  if g then (if h : f.toNat < 64 then some (.s ⟨f.toNat, h⟩) else none)
  else (if h : f.toNat < 192 then some (.v ⟨f.toNat, h⟩) else none)

/-- R130, source column. -/
def srcReg (g : Bool) (f : BitVec 8) : Option Reg :=
  if g then (if h : f.toNat < 64 then some (.s ⟨f.toNat, h⟩) else none)
  else if h : f.toNat < 192 then some (.v ⟨f.toNat, h⟩)
  else if h : f.toNat - 192 < 64 then some (.s ⟨f.toNat - 192, h⟩) else none

/-- A destination of `n` registers, named by its lowest (R102). -/
def destN (g : Bool) (n : Nat) (f : BitVec 8) : Option Reg :=
  (destReg g f).filter (·.okDest g n)

/-- A source of `n` registers (R102, R131). -/
def srcN (g : Bool) (n : Nat) (f : BitVec 8) : Option Reg :=
  (srcReg g f).filter (·.okSrc g n)

/-- A vector register whatever G is (R130's exception fields), a multiple of `n`. -/
def vecReg (n : Nat) (f : BitVec 8) : Option (Fin 192) :=
  if h : f.toNat < 192 then (if f.toNat % n = 0 then some ⟨f.toNat, h⟩ else none) else none

/-- A group-wide register of a G=1 instruction, a multiple of `n`. -/
def sReg (n : Nat) (f : BitVec 8) : Option (Fin 64) :=
  if h : f.toNat < 64 then (if f.toNat % n = 0 then some ⟨f.toNat, h⟩ else none) else none

/-- A group-wide register that a G=0 instruction must name as broadcast (0xC0 to 0xFF), a multiple
of `n` (R130, R202, R217, R343). -/
def bReg (n : Nat) (f : BitVec 8) : Option (Fin 64) :=
  if h : 192 ≤ f.toNat ∧ f.toNat - 192 < 64 then
    (if (f.toNat - 192) % n = 0 then some ⟨f.toNat - 192, h.2⟩ else none)
  else none

/-- A group-wide register under either G. -/
def gReg (g : Bool) (n : Nat) (f : BitVec 8) : Option (Fin 64) :=
  if g then sReg n f else bReg n f

/-- The predicate number in bits [2:0] (R103). -/
def predNo (f : BitVec 8) : Fin 8 := Fin.ofNat 8 f.toNat

/-- The guard of R132. -/
def Raw.guard (r : Raw) : Guard where
  grp := r.g || r.x.getLsbD 3
  neg := r.prd.getLsbD 3
  idx := Fin.ofNat 8 r.prd.toNat

/-- The integer type codes of R134. -/
def itype (c : Nat) : Option IType :=
  match c with
  | 0 => some .b8 | 1 => some .b16 | 2 => some .b32 | 3 => some .b64
  | 4 => some .s8 | 5 => some .s16 | 6 => some .s32 | 7 => some .s64
  | 8 => some .n8 | 9 => some .n16 | 10 => some .n32 | 11 => some .n64
  | _ => none

def IType.code : IType → Nat
  | .b8 => 0 | .b16 => 1 | .b32 => 2 | .b64 => 3
  | .s8 => 4 | .s16 => 5 | .s32 => 6 | .s64 => 7
  | .n8 => 8 | .n16 => 9 | .n32 => 10 | .n64 => 11

/-- Type class 0b00 of FN with an integer code (R133). -/
def fnInt (fn : BitVec 8) : Option IType :=
  if fn.extractLsb' 6 2 = 0 then itype (fn.extractLsb' 0 4).toNat else none

/-- Floating classes of FN (R133, R172). -/
def fnFlt (fn : BitVec 8) : Option FFmt :=
  match fn.toNat with
  | 0x41 => some .f32 | 0x42 => some .bf16 | 0x43 => some .f16
  | 0x82 => some .bf16x2 | 0x83 => some .f16x2
  | _ => none

def FFmt.code : FFmt → BitVec 8
  | .f32 => 0x41 | .bf16 => 0x42 | .f16 => 0x43 | .bf16x2 => 0x82 | .f16x2 => 0x83

/-- The format codes of R27. -/
def nfmt (c : Nat) : Option NFmt :=
  match c with
  | 0 => some .none | 1 => some .f32 | 2 => some .bf16 | 3 => some .f16 | 4 => some .s8
  | 5 => some .n8
  | _ =>
    let p := c % 8
    if h : p - 1 < 7 then
      if p = 0 then none
      else if c / 8 = 2 then some (.b8 false false ⟨p - 1, h⟩)
      else if c / 8 = 3 then some (.b8 false true ⟨p - 1, h⟩)
      else if c / 8 = 4 then some (.b8 true false ⟨p - 1, h⟩)
      else if c / 8 = 5 then some (.b8 true true ⟨p - 1, h⟩)
      else none
    else none

def NFmt.code : NFmt → Nat
  | .none => 0 | .f32 => 1 | .bf16 => 2 | .f16 => 3 | .s8 => 4 | .n8 => 5
  | .b8 uns inf p => (if uns then 32 else 16) + (if inf then 8 else 0) + (p.val + 1)

/-- The type bytes of `cvt` (R189). -/
def cvtType (t : BitVec 8) : Option CvtType :=
  (match (t.extractLsb' 6 2).toNat with
   | 0 => if t.extractLsb' 4 2 = 0 then (itype (t.extractLsb' 0 4).toNat).map CvtType.int else none
   | 1 => (nfmt (t.extractLsb' 0 6).toNat).map CvtType.flt
   | _ => none).filter (·.ok)

def CvtType.code : CvtType → BitVec 8
  | .int t => BitVec.ofNat 8 t.code
  | .flt f => BitVec.ofNat 8 (0x40 + f.code)

/-- Types of `lred` and `lscan` (R172). -/
def redType (fn : BitVec 8) : Option RedType :=
  match fn.toNat with
  | 6 => some .s32 | 10 => some .n32 | 7 => some .s64 | 11 => some .n64
  | 0x41 => some .f32 | 0x42 => some .bf16 | 0x43 => some .f16
  | _ => none

def RedType.code : RedType → BitVec 8
  | .s32 => 6 | .n32 => 10 | .s64 => 7 | .n64 => 11 | .f32 => 0x41 | .bf16 => 0x42 | .f16 => 0x43

/-- Space codes (R135). -/
def space (c : Nat) : Option Space :=
  match c with
  | 0 => some .g | 1 => some .p | 2 => some .c | 3 => some .k | 4 => some .x | 5 => some .h
  | _ => none

def Space.code : Space → Nat
  | .g => 0 | .p => 1 | .c => 2 | .k => 3 | .x => 4 | .h => 5

/-- .c or .k, as a cell or a buffer names them (R197): the flag is `.k`. -/
def cellSpace (c : Nat) : Option Bool :=
  match c with
  | 2 => some false | 3 => some true
  | _ => none

/-- .g or .x (R212, R214): the flag is `.x`. -/
def gxSpace (c : Nat) : Option Bool :=
  match c with
  | 0 => some false | 4 => some true
  | _ => none

/-- Fence scopes (R211). -/
def scope (c : Nat) : Option Scope :=
  match c with
  | 0 => some .group | 1 => some .team | 2 => some .crew | 3 => some .device | 4 => some .system
  | _ => none

def Scope.code : Scope → Nat
  | .group => 0 | .team => 1 | .crew => 2 | .device => 3 | .system => 4

/-- Atomic op codes (R212). -/
def atomOp (c : Nat) : Option AtomOp :=
  match c with
  | 0 => some .add | 1 => some .minS | 2 => some .minN | 3 => some .maxS | 4 => some .maxN
  | 5 => some .and | 6 => some .or | 7 => some .xor | 8 => some .exch | 9 => some .cas
  | 10 => some .inc | 11 => some .addF32 | 12 => some .addBf16x2 | 13 => some .addF16x2
  | _ => none

def AtomOp.code : AtomOp → Nat
  | .add => 0 | .minS => 1 | .minN => 2 | .maxS => 3 | .maxN => 4 | .and => 5 | .or => 6
  | .xor => 7 | .exch => 8 | .cas => 9 | .inc => 10 | .addF32 => 11 | .addBf16x2 => 12
  | .addF16x2 => 13

/-- State-register selectors (R106). -/
def stateReg (c : Nat) : Option SReg :=
  match c with
  | 0x00 => some .wid | 0x01 => some .widf | 0x02 => some .lane | 0x03 => some .group
  | 0x04 => some .team | 0x05 => some .crew | 0x06 => some .core | 0x07 => some .cluster
  | 0x08 => some .ctx | 0x10 => some .time | 0x11 => some .energy | 0x12 => some .throttle
  | 0x13 => some .pathcnt | 0x20 => some .handler | 0x21 => some .trapinfo
  | _ => if 0x40 ≤ c ∧ c < 0x50 then some (.stall (Fin.ofNat 16 (c - 0x40))) else none

def SReg.code : SReg → Nat
  | .wid => 0x00 | .widf => 0x01 | .lane => 0x02 | .group => 0x03 | .team => 0x04
  | .crew => 0x05 | .core => 0x06 | .cluster => 0x07 | .ctx => 0x08 | .time => 0x10
  | .energy => 0x11 | .throttle => 0x12 | .pathcnt => 0x13 | .handler => 0x20
  | .trapinfo => 0x21 | .stall n => 0x40 + n.val

def icond (c : Nat) : Option ICond :=
  match c with
  | 0 => some .eq | 1 => some .ne | 2 => some .lt | 3 => some .le | 4 => some .gt | 5 => some .ge
  | _ => none

def ICond.code : ICond → Nat
  | .eq => 0 | .ne => 1 | .lt => 2 | .le => 3 | .gt => 4 | .ge => 5

def fcond (c : Nat) : FCond :=
  match c with
  | 0 => .eq | 1 => .ne | 2 => .lt | 3 => .le | 4 => .gt | 5 => .ge | 6 => .un
  | _ => .ord

def FCond.code : FCond → Nat
  | .eq => 0 | .ne => 1 | .lt => 2 | .le => 3 | .gt => 4 | .ge => 5 | .un => 6 | .ord => 7

def shflMode (c : Nat) : ShflMode :=
  match c with
  | 0 => .idx | 1 => .up | 2 => .down
  | _ => .xor

def ShflMode.code : ShflMode → Nat
  | .idx => 0 | .up => 1 | .down => 2 | .xor => 3

def redOp (c : Nat) : Option RedOp :=
  match c with
  | 0 => some .add | 1 => some .min | 2 => some .max
  | _ => none

def RedOp.code : RedOp → Nat
  | .add => 0 | .min => 1 | .max => 2

def vsize (c : Nat) : Option VSize :=
  match c with
  | 0 => some .w16 | 1 => some .w32 | 2 => some .w64
  | _ => none

def VSize.code : VSize → Nat
  | .w16 => 0 | .w32 => 1 | .w64 => 2

def esize (c : Nat) : Option ESize :=
  match c with
  | 0 => some .e4 | 1 => some .e8 | 2 => some .e16
  | _ => none

def ESize.code : ESize → Nat
  | .e4 => 0 | .e8 => 1 | .e16 => 2

def route (c : Nat) : Option Route :=
  match c with
  | 0 => some .minimal | 1 => some .plus | 2 => some .minus
  | _ => none

def Route.code : Route → Nat
  | .minimal => 0 | .plus => 1 | .minus => 2

def mspace (c : Nat) : MSpace :=
  match c with
  | 0 => .c | 1 => .k | 2 => .x
  | _ => .h

def MSpace.code : MSpace → Nat
  | .c => 0 | .k => 1 | .x => 2 | .h => 3

def rsel (c : Nat) : Option RSel :=
  match c with
  | 0 => some .key | 1 => some .count | 2 => some .seq | 3 => some .inst | 4 => some .spill
  | 5 => some .tkey | 6 => some .from | 7 => some .rank
  | _ => none

def RSel.code : RSel → Nat
  | .key => 0 | .count => 1 | .seq => 2 | .inst => 3 | .spill => 4 | .tkey => 5 | .from => 6
  | .rank => 7

/-! ### One entry -/

/-- The bits of each field that an entry's form uses; every other bit is reserved (R136). The X
bits of the guard are given by `guard`. -/
structure Use where
  la : BitVec 4 := 0
  d : BitVec 8 := 0
  a : BitVec 8 := 0
  b : BitVec 8 := 0
  c : BitVec 8 := 0
  fn : BitVec 8 := 0
  x : BitVec 4 := 0
  lo : Word := 0
  hi : Word := 0
deriving DecidableEq, Repr

/-- Guards an entry accepts: none (PRD = 0b0111), q or p alone, or with QG (R132, R148). -/
inductive GuardKind where
  | none | plain | qg
deriving DecidableEq, Repr

/-- Step 4 of R144: a reserved field is non-zero, or QG or PRD is set where not accepted. -/
def Raw.reservedBad (r : Raw) (k : GuardKind) (u : Use) : Bool :=
  let xm := if k = .qg ∧ r.g = false then u.x ||| 8 else u.x
  r.la &&& ~~~u.la != 0 || r.d &&& ~~~u.d != 0 || r.a &&& ~~~u.a != 0 || r.b &&& ~~~u.b != 0 ||
  r.c &&& ~~~u.c != 0 || r.fn &&& ~~~u.fn != 0 || r.x &&& ~~~xm != 0 || r.lo &&& ~~~u.lo != 0 ||
  r.hi &&& ~~~u.hi != 0 || (k == .none && r.prd != 7)

/-- Steps 3 to 5 of R144 for one entry: `form` says that G and LEN are accepted, `u` which bits
are used, and `i` what the operand fields name (none: ILLEGAL_OPERAND). -/
def Raw.entry (r : Raw) (form : Bool) (k : GuardKind) (u : Use) (i : Option Instr) :
    Except Reject Instr :=
  if !form then .error .illegalOpcode
  else if r.reservedBad k u then .error .reservedNonzero
  else match i with
    | some i => .ok i
    | none => .error .illegalOperand

/-- All eight bits of a register field. -/
abbrev full : BitVec 8 := 0xFF

/-- All bits of an immediate. -/
abbrev fullW : Word := 0xFFFFFFFF

def Raw.is64 (r : Raw) : Bool := r.len == .l64
def Raw.is96 (r : Raw) : Bool := r.len == .l96
def Raw.is128 (r : Raw) : Bool := r.len == .l128
/-- 64 or 96 bits. -/
def Raw.short (r : Raw) : Bool := r.len != .l128

/-- FN bits of an integer-class form: [5:4] are used when they carry a variant, or when the class is
not the integer class and R133 gives them to the format code. -/
def Raw.fnMask (r : Raw) (variant : Bool) : BitVec 8 :=
  if variant || r.fn.extractLsb' 6 2 != 0 then 0xFF else 0xCF

/-- FN[5:4] as a saturation variant: 0b00 or 0b01. -/
def Raw.satVar (r : Raw) : Option Bool :=
  match (r.fn.extractLsb' 4 2).toNat with
  | 0 => some false
  | 1 => some true
  | _ => none

/-- The last source: IMM32 in the 96-bit form, else a register of `n`. -/
def Raw.srcOrImm (r : Raw) (n : Nat) (f : BitVec 8) (immOk : Word → Bool) : Option Src :=
  if r.is96 then (if immOk r.lo then some (.imm r.lo) else none)
  else (srcN r.g n f).map .reg

/-- The IMM32 bits that a floating immediate uses (R170). -/
def Raw.fltImm (r : Raw) : Word :=
  if r.fn = 0x42 ∨ r.fn = 0x43 then 0xFFFF else fullW

/-! ### Families -/

def Raw.alu (r : Raw) (tyOk : IType → Bool) (hasSat : Bool) (amount : Option Word)
    (mk : AluForm → Instr) : Except Reject Instr :=
  r.entry r.short .qg
    { d := full, a := full, b := if r.is96 then 0 else full, fn := r.fnMask hasSat,
      lo := if r.is96 then amount.getD fullW else 0 }
    (do
      let ty ← fnInt r.fn
      let sat ← if hasSat then r.satVar else some false
      let d ← destN r.g ty.regs r.d
      let a ← srcN r.g ty.regs r.a
      let b ← r.srcOrImm (if amount.isSome then 1 else ty.regs) r.b
        (fun w => amount.isSome || ty.immOk w)
      if tyOk ty && (!sat || !ty.isB) then
        some (mk { g := r.g, gd := r.guard, ty := ty, sat := sat, d := d, a := a, b := b })
      else none)

def Raw.mad (r : Raw) (bfi : Bool) (mk : MadForm → Instr) : Except Reject Instr :=
  r.entry r.short .qg
    { d := full, a := full, b := full, c := if r.is96 then 0 else full, fn := r.fnMask (!bfi),
      lo := if r.is96 then (if bfi then 0xFFFF else fullW) else 0 }
    (do
      let ty ← fnInt r.fn
      let sat ← if bfi then some false else r.satVar
      let d ← destN r.g ty.regs r.d
      let a ← srcN r.g ty.regs r.a
      let b ← srcN r.g ty.regs r.b
      let c ← r.srcOrImm (if bfi then 1 else ty.regs) r.c (fun w => bfi || ty.immOk w)
      if (!bfi || ty == .b32 || ty == .b64) && (!sat || !ty.isB) then
        some (mk { g := r.g, gd := r.guard, ty := ty, sat := sat, d := d, a := a, b := b, c := c })
      else none)

def Raw.un (r : Raw) (tyOk : IType → Bool) (hasSat : Bool) (mk : UnForm → Instr) :
    Except Reject Instr :=
  r.entry r.is64 .qg { d := full, a := full, fn := r.fnMask hasSat }
    (do
      let ty ← fnInt r.fn
      let sat ← if hasSat then r.satVar else some false
      let d ← destN r.g ty.regs r.d
      let a ← srcN r.g ty.regs r.a
      if tyOk ty then some (mk { g := r.g, gd := r.guard, ty := ty, sat := sat, d := d, a := a })
      else none)

def Raw.carry (r : Raw) (mk : CarryForm → Instr) : Except Reject Instr :=
  r.entry r.is64 .qg { d := full, a := full, b := full, c := 7, fn := r.fnMask false }
    (do
      let ty ← fnInt r.fn
      let d ← destN r.g ty.regs r.d
      let a ← srcN r.g ty.regs r.a
      let b ← srcN r.g ty.regs r.b
      if ty == .n32 || ty == .n64 then
        some (mk { g := r.g, gd := r.guard, ty := ty, d := d, a := a, b := b, c := predNo r.c })
      else none)

def Raw.divRem (r : Raw) (mk : DivForm → Instr) : Except Reject Instr :=
  r.entry (r.short && !r.g) .plain
    { la := 0xF, d := full, a := full, b := if r.is96 then 0 else full, fn := r.fnMask false,
      lo := if r.is96 then fullW else 0 }
    (do
      let ty ← fnInt r.fn
      let d ← destN false ty.regs r.d
      let a ← srcN false ty.regs r.a
      let b ← r.srcOrImm ty.regs r.b ty.immOk
      if ty.wide && !ty.isB then
        some (mk { gd := r.guard, la := Fin.ofNat 16 r.la.toNat, ty := ty, d := d, a := a, b := b })
      else none)

def Raw.falu (r : Raw) (mk : FAluForm → Instr) : Except Reject Instr :=
  r.entry (r.short && !r.g) .qg
    { d := full, a := full, b := if r.is96 then 0 else full, fn := r.fnMask false,
      lo := if r.is96 then r.fltImm else 0 }
    (do
      let fmt ← fnFlt r.fn
      let d ← destN false 1 r.d
      let a ← srcN false 1 r.a
      let b ← r.srcOrImm 1 r.b fmt.immOk
      some (mk { gd := r.guard, fmt := fmt, d := d, a := a, b := b }))

def Raw.fun1 (r : Raw) (mk : FUnForm → Instr) : Except Reject Instr :=
  r.entry (r.is64 && !r.g) .qg { d := full, a := full, fn := r.fnMask false }
    (do
      let fmt ← fnFlt r.fn
      let d ← destN false 1 r.d
      let a ← srcN false 1 r.a
      some (mk { gd := r.guard, fmt := fmt, d := d, a := a }))

def Raw.flong (r : Raw) (mk : FLongForm → Instr) : Except Reject Instr :=
  r.entry (r.is64 && !r.g) .plain { la := 0xF, d := full, a := full, fn := r.fnMask false }
    (do
      let fmt ← fnFlt r.fn
      let d ← destN false 1 r.d
      let a ← srcN false 1 r.a
      some (mk { gd := r.guard, la := Fin.ofNat 16 r.la.toNat, fmt := fmt, d := d, a := a }))

def Raw.redOrScan (r : Raw) (scan : Bool) (mk : RedForm → Instr) : Except Reject Instr :=
  r.entry (r.is64 && !r.g) .plain { la := 0xF, d := full, a := full, fn := r.fnMask false, x := 7 }
    (do
      let ty ← redType r.fn
      let op ← redOp (r.x.extractLsb' 0 2).toNat
      let d ← destN false ty.regs r.d
      let a ← srcN false ty.regs r.a
      if scan || !r.x.getLsbD 2 then
        some (mk { gd := r.guard, la := Fin.ofNat 16 r.la.toNat, ty := ty, op := op,
                   excl := r.x.getLsbD 2, d := d, a := a })
      else none)

/-- Use of A, B, X and IMM32 by a memory operand (R196): a marked field is reserved. -/
def Raw.addrUse (r : Raw) (u : Use) : Use :=
  { u with
    a := if r.x.getLsbD 1 then 0 else full
    b := if r.x.getLsbD 0 then 0 else full
    x := 3
    lo := if r.is96 then fullW else 0 }

/-- The memory operand of R196. -/
def Raw.addr (r : Raw) (sp : Space) : Option Addr := do
  let base ← if r.x.getLsbD 1 then some none
    else (srcN r.g (if sp = .g then 2 else 1) r.a).map some
  let index ← if r.x.getLsbD 0 then some none else (srcN r.g 1 r.b).map some
  if r.g && sp == .p then none
  else some { base := base, index := index, disp := if r.is96 then some r.lo else none }

/-- The displacement of a form with no index (R212, R214). -/
def Raw.disp (r : Raw) : Option Word := if r.is96 then some r.lo else none

def Raw.barUse (r : Raw) (cnt : Bool) (rem : Bool) : Use :=
  { a := if rem then full else 0
    b := if cnt || rem then full else 0
    c := if rem && !r.fn.getLsbD 4 then full else 0 }

/-- `atom` (R212). -/
def Raw.atom (r : Raw) : Except Reject Instr :=
  let isCas := r.fn.extractLsb' 3 5 == 9
  r.entry r.short .qg
    { la := 0xF, d := full, a := full, b := full, c := if isCas then full else 0, fn := full,
      x := 1, lo := if r.is96 then fullW else 0 }
    (do
      let w64 := r.x.getLsbD 0
      let x ← gxSpace (r.fn.extractLsb' 0 3).toNat
      let op ← (atomOp (r.fn.extractLsb' 3 5).toNat).filter (·.okAtom)
      let d ← destN r.g (wregs w64) r.d
      let base ← srcN r.g (if x then 1 else 2) r.a
      let b ← srcN r.g (wregs w64) r.b
      let c ← if isCas then (srcN r.g (wregs w64) r.c).map some else some none
      some (.atom { g := r.g, gd := r.guard, la := Fin.ofNat 16 r.la.toNat, op := op, w64 := w64,
                    x := x, d := d, base := base, b := b, c := c, disp := r.disp }))

/-- `ratom` and its `.cas` form (R399, R405). -/
def Raw.ratom (r : Raw) : Except Reject Instr :=
  let isCas := r.fn.extractLsb' 3 5 == 9
  let w64 := r.x.getLsbD 0
  let nr := r.x.getLsbD 1
  r.entry (r.len == (if isCas then .l128 else .l64)) .qg
    { la := if nr then 0 else 0xF, d := if nr then 0 else full, a := full, b := full, c := full,
      fn := 0xF8, x := 3, lo := if isCas then 0xFF else 0 }
    (do
      let op ← (atomOp (r.fn.extractLsb' 3 5).toNat).filter
        (fun o => if nr then o.okRed w64 else o.okAtom)
      let d ← if nr then some none else (destN r.g (wregs w64) r.d).map some
      let a ← gReg r.g 1 r.a
      let b ← srcN r.g 1 r.b
      let c ← gReg r.g (wregs w64) r.c
      if isCas then do
        let e ← gReg r.g (wregs w64) (r.lo.extractLsb' 0 8)
        some (.ratomCas { g := r.g, gd := r.guard, la := Fin.ofNat 16 r.la.toNat, w64 := w64,
                          d := d, a := a, b := b, c := c, e := e })
      else
        some (.ratom { g := r.g, gd := r.guard, la := Fin.ofNat 16 r.la.toNat, op := op,
                       w64 := w64, d := d, a := a, b := b, c := c }))

/-- `mma` (R225, R229). -/
def Raw.mma (r : Raw) : Except Reject Instr :=
  let v := (r.fn.extractLsb' 0 2).toNat
  r.entry (r.is128 && r.g) .plain
    { d := 3, a := full, b := full, c := full, fn := 0x7F, x := 3,
      lo := if v = 2 then 0x0001C03F else if v = 1 then 0x00003FFF else 0x0000003F,
      hi := if v = 2 then 0xFFFF0000 else fullW }
    (do
      let asp := mspace (r.fn.extractLsb' 2 2).toNat
      let bsp := mspace (r.fn.extractLsb' 4 2).toNat
      let ca := r.x.getLsbD 0
      let cb := r.x.getLsbD 1
      let a ← sReg 1 r.a
      let b ← sReg 1 r.b
      let c ← sReg 4 r.c
      let astr := r.hi.extractLsb' 0 16
      let var ← (match v with
        | 0 => some (.dense astr)
        | 1 => (vecReg 2 (r.lo.extractLsb' 6 8)).map (.gather astr)
        | 2 => some (.sparse (Fin.ofNat 8 (r.lo.extractLsb' 14 3).toNat))
        | _ => none)
      if h : (r.lo.extractLsb' 0 6).toNat < 48 then
        if (!ca || asp == .h) && (!cb || bsp == .h) then
          some (.mma { gd := r.guard, d := Fin.ofNat 4 r.d.toNat, aspace := asp, bspace := bsp,
                       z := r.fn.getLsbD 6, ca := ca, cb := cb, a := a, b := b, c := c,
                       var := var, bstr := r.hi.extractLsb' 16 16,
                       kq := ⟨(r.lo.extractLsb' 0 6).toNat, h⟩ })
        else none
      else none)

/-- Opcodes 0x001 to 0x01A (R148). -/
def Raw.control (r : Raw) : Except Reject Instr :=
  match r.opc.toNat with
  | 0x001 => r.entry (r.is96 && r.g) .plain { lo := fullW } (some (.br r.guard r.lo))
  | 0x002 => r.entry (r.is64 && r.g) .none { fn := 0xF } (some (.rcv (Fin.ofNat 16 r.fn.toNat)))
  | 0x003 => r.entry (r.is64 && r.g) .plain { a := full } (do
      let a ← sReg 2 r.a
      some (.jmpi r.guard a))
  | 0x004 => r.entry (r.short && r.g) .plain
      { a := if r.is96 then 0 else full, lo := if r.is96 then fullW else 0 } (do
      if r.is96 then some (.call r.guard r.lo) else do
        let a ← sReg 2 r.a
        some (.callReg r.guard a))
  | 0x005 => r.entry (r.is64 && r.g) .plain {} (some (.ret r.guard))
  | 0x006 => r.entry (r.short && r.g) .none { lo := if r.is96 then fullW else 0 }
      (some (if r.is96 then .safeptMask r.lo else .safept))
  | 0x007 => r.entry (r.is96 && !r.g) .qg { fn := 0xF, lo := fullW }
      (some (.brd r.guard (Fin.ofNat 16 r.fn.toNat) r.lo))
  | 0x008 => r.entry (r.is64 && !r.g) .qg {} (some (.exit r.guard))
  | 0x009 => r.entry (r.is96 && !r.g) .qg { fn := 1, lo := 0xFFFF }
      (some (if r.fn.getLsbD 0 then .trapBreak r.guard (r.lo.extractLsb' 0 16)
             else .trap r.guard (r.lo.extractLsb' 0 16)))
  | 0x00A => r.entry (r.is64 && r.g) .none {} (some .tret)
  | 0x00B => r.entry (r.is64 && r.g) .plain {} (some (.halt r.guard))
  | 0x00C => r.entry (r.is64 && r.g) .plain {} (some (.yield r.guard))
  | 0x00D => r.entry r.is64 .qg { d := full, fn := full } (do
      let sel ← stateReg r.fn.toNat
      let d ← destN r.g sel.regs r.d
      if r.g && sel.laneScope then none
      else some (.getsr { g := r.g, gd := r.guard, sel := sel, d := d }))
  | 0x00E => r.entry r.is64 .qg { d := full, a := full, fn := 0xF } (do
      let w64 ← widthCode (r.fn.extractLsb' 0 4).toNat
      let d ← destN r.g (wregs w64) r.d
      let a ← srcN r.g (wregs w64) r.a
      some (.mov { g := r.g, gd := r.guard, w64 := w64, d := d, a := a }))
  | 0x00F =>
      let t := (r.fn.extractLsb' 0 4).toNat
      r.entry (!r.is64 && !(r.is96 && t == 3) && !(r.is128 && t == 2)) .qg
        { d := full, fn := 0xF, lo := fullW, hi := if r.is128 then fullW else 0 } (do
      let w64 ← widthCode t
      let d ← destN r.g (wregs w64) r.d
      some (if w64 then .movi64 { g := r.g, gd := r.guard, d := d, imm := r.hi ++ r.lo }
            else .movi32 { g := r.g, gd := r.guard, d := d, imm := r.lo }))
  | 0x010 => r.entry r.is64 .qg { d := full, a := full, b := full, c := 7, fn := 0xF } (do
      let w64 ← widthCode (r.fn.extractLsb' 0 4).toNat
      let d ← destN r.g (wregs w64) r.d
      let a ← srcN r.g (wregs w64) r.a
      let b ← srcN r.g (wregs w64) r.b
      some (.sel { g := r.g, gd := r.guard, w64 := w64, d := d, a := a, b := b, c := predNo r.c }))
  | 0x011 => r.entry (r.is64 && r.g) .plain { a := full, fn := full } (do
      let a ← sReg 2 r.a
      if r.fn = 0x20 then some (.setsr r.guard a) else none)
  | 0x012 => r.entry (r.is64 && r.g) .plain { d := 7, a := full } (do
      let a ← sReg 1 r.a
      some (.setq r.guard (predNo r.d) a))
  | 0x013 => r.entry (r.is64 && r.g) .plain { d := 7, a := 7, b := 7 }
      (some (.qand r.guard (predNo r.d) (predNo r.a) (predNo r.b)))
  | 0x014 => r.entry (r.is64 && r.g) .plain { d := 7, a := 7, b := 7 }
      (some (.qor r.guard (predNo r.d) (predNo r.a) (predNo r.b)))
  | 0x015 => r.entry (r.is64 && r.g) .plain { d := 7, a := 7 }
      (some (.qnot r.guard (predNo r.d) (predNo r.a)))
  | 0x016 =>
      let v := (r.fn.extractLsb' 0 2).toNat
      r.entry (r.is64 && r.g) .plain
        { d := if v = 0 then full else 7, a := if v = 3 then full else 0,
          b := if v = 3 then 0 else 7, fn := 3 } (do
      match v with
      | 0 => do
        let d ← sReg 1 r.d
        some (.vote r.guard (.ballot d (predNo r.b)))
      | 1 => some (.vote r.guard (.any (predNo r.d) (predNo r.b)))
      | 2 => some (.vote r.guard (.all (predNo r.d) (predNo r.b)))
      | _ => do
        let a ← vecReg 1 r.a
        some (.vote r.guard (.eq (predNo r.d) a)))
  | 0x017 =>
      let first := r.fn.getLsbD 4
      r.entry (r.short && r.g && !(r.is96 && first)) .plain
        { d := full, a := full, b := if r.is96 || first then 0 else full, fn := 0x1F,
          lo := if r.is96 then 0x1F else 0 } (do
      let w64 ← widthCode (r.fn.extractLsb' 0 4).toNat
      let d ← sReg (wregs w64) r.d
      let a ← vecReg (wregs w64) r.a
      if r.is96 then some (.bcastImm r.guard w64 d a (Fin.ofNat 32 r.lo.toNat))
      else if first then some (.bcast r.guard w64 d a none)
      else do
        let l ← sReg 1 r.b
        some (.bcast r.guard w64 d a (some l)))
  | 0x018 => r.entry (r.is64 && r.g) .plain { d := full } (do
      let d ← sReg 1 r.d
      some (.actm r.guard d))
  | 0x019 => r.entry (r.is64 && r.g) .plain { d := full, a := full } (do
      let d ← sReg 1 r.d
      let a ← sReg 1 r.a
      some (.popc r.guard d a))
  | 0x01A => r.entry (r.is64 && r.g) .plain { d := full, a := full } (do
      let d ← sReg 1 r.d
      let a ← sReg 1 r.a
      some (.ffs r.guard d a))
  | _ => .error .illegalOpcode
where
  /-- Type codes .b32 and .b64 (R148). -/
  widthCode (t : Nat) : Option Bool :=
    match t with
    | 2 => some false
    | 3 => some true
    | _ => none

/-- Opcodes 0x040 to 0x104 (R172). -/
def Raw.vector (r : Raw) : Except Reject Instr :=
  match r.opc.toNat with
  | 0x040 => r.alu (fun _ => true) true none .add
  | 0x041 => r.alu (fun _ => true) true none .sub
  | 0x042 => r.alu (fun _ => true) false none .mul
  | 0x043 => r.alu (fun t => !t.isB) false none .mulhi
  | 0x044 => r.mad false .mad
  | 0x045 => r.alu (fun t => !t.isB) false none .min
  | 0x046 => r.alu (fun t => !t.isB) false none .max
  | 0x047 => r.un IType.signed true .abs
  | 0x048 => r.un IType.signed true .neg
  | 0x049 => r.alu IType.isB false none .and
  | 0x04A => r.alu IType.isB false none .or
  | 0x04B => r.alu IType.isB false none .xor
  | 0x04C => r.un IType.isB false .not
  | 0x04D => r.alu IType.isB false none .andn
  | 0x04E => r.alu (fun t => t == .b32 || t == .b64) false (some 0xFF) .shl
  | 0x04F => r.alu (fun t => t == .b32 || t == .b64) false (some 0xFF) .shr
  | 0x050 => r.alu (fun t => t == .s32 || t == .s64) false (some 0xFF) .sar
  | 0x051 => r.alu (fun t => t == .b32 || t == .b64) false (some 0xFF) .rot
  | 0x052 => r.alu (fun t => t.wide && !t.isB) false (some 0xFFFF) .bfe
  | 0x053 => r.mad true .bfi
  | 0x054 => r.un (fun t => t == .b32 || t == .b64) false .bcnt
  | 0x055 => r.un (fun t => t == .b32 || t == .b64) false .clz
  | 0x056 => r.un (fun t => t == .b32 || t == .b64) false .brev
  | 0x057 => r.entry r.short .qg
      { d := 7, a := full, b := if r.is96 then 0 else full, fn := r.fnMask false, x := 7,
        lo := if r.is96 then fullW else 0 } (do
      let ty ← fnInt r.fn
      let cond ← icond (r.x.extractLsb' 0 3).toNat
      let a ← srcN r.g ty.regs r.a
      let b ← r.srcOrImm ty.regs r.b ty.immOk
      some (.cmp { g := r.g, gd := r.guard, ty := ty, cond := cond, d := predNo r.d, a := a,
                   b := b }))
  | 0x058 => r.carry .addc
  | 0x059 => r.carry .subc
  | 0x05A => r.divRem .div
  | 0x05B => r.divRem .rem
  | 0x0C0 => r.falu .fadd
  | 0x0C1 => r.falu .fsub
  | 0x0C2 => r.falu .fmul
  | 0x0C3 => r.entry (r.short && !r.g) .qg
      { d := full, a := full, b := full, c := if r.is96 then 0 else full, fn := r.fnMask false,
        lo := if r.is96 then r.fltImm else 0 } (do
      let fmt ← fnFlt r.fn
      let d ← destN false 1 r.d
      let a ← srcN false 1 r.a
      let b ← srcN false 1 r.b
      let c ← r.srcOrImm 1 r.c fmt.immOk
      some (.fma { gd := r.guard, fmt := fmt, d := d, a := a, b := b, c := c }))
  | 0x0C4 => r.falu .fmin
  | 0x0C5 => r.falu .fmax
  | 0x0C6 => r.fun1 .fabs
  | 0x0C7 => r.fun1 .fneg
  | 0x0C8 => r.entry (r.short && !r.g) .qg
      { d := 7, a := full, b := if r.is96 then 0 else full, fn := r.fnMask false, x := 7,
        lo := if r.is96 then r.fltImm else 0 } (do
      let fmt ← (fnFlt r.fn).filter (·.scalar)
      let a ← srcN false 1 r.a
      let b ← r.srcOrImm 1 r.b fmt.immOk
      some (.fcmp { gd := r.guard, fmt := fmt, cond := fcond (r.x.extractLsb' 0 3).toNat,
                    d := predNo r.d, a := a, b := b }))
  | 0x0C9 => r.fun1 .fclass
  | 0x0CA => r.flong .rcp
  | 0x0CB => r.flong .rsqrt
  | 0x0CC => r.flong .sqrt
  | 0x0CD => r.flong .exp2
  | 0x0CE => r.flong .log2
  | 0x0CF => r.flong .sinpi
  | 0x0D0 => r.flong .tanh
  | 0x0D1 => r.entry (r.is64 && !r.g) .qg
      { d := full, a := full, b := full, c := full, fn := r.fnMask false } (do
      let fmt ← (fnFlt r.fn).filter (fun f => !f.scalar)
      let d ← destN false 1 r.d
      let a ← srcN false 1 r.a
      let b ← srcN false 1 r.b
      let c ← srcN false 1 r.c
      some (.dot2 { gd := r.guard, fmt := fmt, d := d, a := a, b := b, c := c }))
  | 0x0E0 => r.entry (r.is64 && !r.g) .qg
      { d := full, a := full, c := full, fn := r.fnMask false, x := 7 } (do
      let dst ← cvtType r.fn
      let src ← cvtType r.c
      let d ← destN false dst.regs r.d
      let a ← srcN false src.regs r.a
      let trunc := r.x.getLsbD 1
      if r.x.getLsbD 2 || (trunc && dst.floating) then none
      else some (.cvt { gd := r.guard, dst := dst, src := src, sat := r.x.getLsbD 0,
                        trunc := trunc, d := d, a := a }))
  | 0x100 =>
      let nib := r.fn.extractLsb' 4 2 == 1
      r.entry (r.short && !r.g) .qg
      { d := full, a := full, b := if nib then 0 else full, c := if r.is96 then 0 else full,
        fn := full, lo := if r.is96 then 0xFFFF else 0 } (do
      let d ← destN false 1 r.d
      let a ← srcN false 1 r.a
      let b ← if nib then some none else (srcN false 1 r.b).map some
      let c ← r.srcOrImm 1 r.c (fun _ => true)
      if r.fn.extractLsb' 0 4 == 2 && r.fn.extractLsb' 5 3 == 0 then
        some (.prmb { gd := r.guard, d := d, a := a, b := b, c := c })
      else none)
  | 0x101 => r.entry (r.short && !r.g) .plain
      { d := full, a := full, b := if r.is96 then 0 else full, fn := full,
        lo := if r.is96 then 0x1F else 0 } (do
      let ty ← fnInt r.fn
      let w64 := ty == .b64
      let d ← destN false (wregs w64) r.d
      let a ← srcN false (wregs w64) r.a
      let b ← r.srcOrImm 1 r.b (fun _ => true)
      if ty == .b32 || ty == .b64 then
        some (.shfl { gd := r.guard, w64 := w64, mode := shflMode (r.fn.extractLsb' 4 2).toNat,
                      d := d, a := a, b := b })
      else none)
  | 0x102 => r.redOrScan false .lred
  | 0x103 => r.redOrScan true .lscan
  | 0x104 => r.entry (r.is96 && !r.g) .plain
      { la := 0xF, d := full, a := full, fn := r.fnMask false, x := 7, lo := 0x3F } (do
      let ty ← (redType r.fn).filter (fun t => t == .s32 || t == .n32 || t == .f32)
      let d ← destN false 1 r.d
      let a ← srcN false 1 r.a
      let k := Fin.ofNat 64 r.lo.toNat
      if 1 ≤ k.val ∧ k.val ≤ 32 ∧ r.x.getLsbD 2 = false then
        some (.topk { gd := r.guard, la := Fin.ofNat 16 r.la.toNat, ty := ty,
                      min := r.x.getLsbD 0, rank := r.x.getLsbD 1, k := k, d := d, a := a })
      else none)
  | _ => .error .illegalOpcode

/-- Opcodes 0x140 to 0x155 (R197). -/
def Raw.memory (r : Raw) : Except Reject Instr :=
  let sp := space (r.fn.extractLsb' 0 3).toNat
  let la := Fin.ofNat 16 r.la.toNat
  match r.opc.toNat with
  | 0x140 => r.entry r.short .qg (r.addrUse { la := 0xF, d := full, fn := full }) (do
      let sp ← sp
      let ty ← itype (r.fn.extractLsb' 3 4).toNat
      let d ← destN r.g ty.regs r.d
      let addr ← r.addr sp
      let cm := r.fn.getLsbD 7
      if cm && sp != .h then none
      else some (.ld { g := r.g, gd := r.guard, la := la, cm := cm, ty := ty, space := sp, d := d,
                       addr := addr }))
  | 0x141 => r.entry r.short .qg (r.addrUse { c := full, fn := 0x7F }) (do
      let sp ← sp
      let ty ← itype (r.fn.extractLsb' 3 4).toNat
      let data ← srcN r.g ty.regs r.c
      let addr ← r.addr sp
      some (.st { g := r.g, gd := r.guard, ty := ty, space := sp, data := data, addr := addr }))
  | 0x142 => r.entry (r.short && !r.g) .qg
      (r.addrUse { la := 0xF, d := full, fn := 0x9F }) (do
      let sp ← sp
      let size ← vsize (r.fn.extractLsb' 3 2).toNat
      let d ← (destReg false r.d).filter (vreg16 size.regs)
      let addr ← r.addr sp
      let cm := r.fn.getLsbD 7
      if cm && sp != .h then none
      else some (.ldv { gd := r.guard, la := la, cm := cm, size := size, space := sp, d := d,
                        addr := addr }))
  | 0x143 => r.entry (r.short && !r.g) .qg (r.addrUse { c := full, fn := 0x1F }) (do
      let sp ← sp
      let size ← vsize (r.fn.extractLsb' 3 2).toNat
      let data ← (srcReg false r.c).filter (vreg16 size.regs)
      let addr ← r.addr sp
      some (.stv { gd := r.guard, size := size, space := sp, data := data, addr := addr }))
  | 0x144 => r.entry (r.is64 && !r.g) .qg
      { a := full, b := full, c := full, fn := full, x := 1 } (do
      let dsp ← sp.filter (·.copyable)
      let ssp ← (space (r.fn.extractLsb' 3 3).toNat).filter (·.copyable)
      let size ← esize (r.fn.extractLsb' 6 2).toNat
      let a ← srcN false dsp.cpaRegs r.a
      let b ← srcN false ssp.cpaRegs r.b
      let c ← bReg 1 r.c
      some (.cpa { gd := r.guard, size := size, dspace := dsp, sspace := ssp,
                   ck := r.x.getLsbD 0, a := a, b := b, c := c }))
  | 0x145 => r.entry (r.is64 && r.g) .plain { a := full, b := full, c := full, fn := 7 } (do
      let k ← cellSpace r.fn.toNat
      let a ← sReg 1 r.a
      let b ← sReg 1 r.b
      let c ← sReg 1 r.c
      some (.cellInit { gd := r.guard, k := k, a := a, b := b, c := c }))
  | 0x146 => r.entry (r.is64 && r.g) .plain { d := full, a := full, b := full, fn := 7 } (do
      let k ← cellSpace r.fn.toNat
      let d ← sReg 1 r.d
      let a ← sReg 1 r.a
      let b ← sReg 1 r.b
      some (.cellArrive { gd := r.guard, k := k, d := d, a := a, b := b }))
  | 0x147 =>
      let chunk := r.fn.getLsbD 3
      r.entry (r.is64 && r.g) .plain
        { a := full, b := if chunk then full else 0, fn := 0xF, x := 3 } (do
      let k ← cellSpace (r.fn.extractLsb' 0 3).toNat
      let a ← sReg 1 r.a
      let b ← if chunk then (sReg 2 r.b).map some else some none
      some (.cellWait { gd := r.guard, k := k, phase := r.x.getLsbD 0, ext := r.x.getLsbD 1,
                        a := a, b := b }))
  | 0x148 =>
      let chunk := r.fn.getLsbD 3
      r.entry (r.is64 && r.g) .plain
        { d := 7, a := full, b := if chunk then full else 0, fn := 0xF, x := 1 } (do
      let k ← cellSpace (r.fn.extractLsb' 0 3).toNat
      let a ← sReg 1 r.a
      let b ← if chunk then (sReg 2 r.b).map some else some none
      some (.cellTest { gd := r.guard, k := k, phase := r.x.getLsbD 0, d := predNo r.d, a := a,
                        b := b }))
  | 0x149 => r.entry (r.is64 && r.g) .plain { a := full, fn := 7, x := 1 } (do
      let k ← cellSpace r.fn.toNat
      let a ← sReg 1 r.a
      some (.cellArm { gd := r.guard, k := k, phase := r.x.getLsbD 0, a := a }))
  | 0x14A => r.entry (r.short && r.g) .plain
      { b := if r.is96 then 0 else full, fn := 7, lo := if r.is96 then 0x3F else 0 } (do
      let path := Fin.ofNat 8 r.fn.toNat
      if r.is96 then some (.waitc r.guard path (.imm (Fin.ofNat 64 r.lo.toNat)))
      else do
        let b ← sReg 1 r.b
        some (.waitc r.guard path (.reg b)))
  | 0x14B => r.entry (r.is64 && !r.g) .qg { fn := 7 } ((scope r.fn.toNat).map (.fenceRel r.guard))
  | 0x14C => r.entry (r.is64 && !r.g) .qg { fn := 7 } ((scope r.fn.toNat).map (.fenceAcq r.guard))
  | 0x14D => r.entry (r.is64 && !r.g) .qg { fn := 7 } ((scope r.fn.toNat).map (.fenceSc r.guard))
  | 0x14E => r.atom
  | 0x14F => r.entry r.short .qg
      { a := full, b := full, fn := full, x := 1, lo := if r.is96 then fullW else 0 } (do
      let w64 := r.x.getLsbD 0
      let x ← gxSpace (r.fn.extractLsb' 0 3).toNat
      let op ← (atomOp (r.fn.extractLsb' 3 5).toNat).filter (·.okRed w64)
      let base ← srcN r.g (if x then 1 else 2) r.a
      let b ← srcN r.g (wregs w64) r.b
      some (.red { g := r.g, gd := r.guard, op := op, w64 := w64, x := x, base := base, b := b,
                   disp := r.disp }))
  | 0x150 => r.entry r.short .qg
      { la := 0xF, d := full, a := full, fn := 0x7F, lo := if r.is96 then fullW else 0 } (do
      let x ← gxSpace (r.fn.extractLsb' 0 3).toNat
      let w64 ← widthB (r.fn.extractLsb' 3 4).toNat
      let d ← destN r.g (wregs w64) r.d
      let base ← srcN r.g (if x then 1 else 2) r.a
      some (.ldr { g := r.g, gd := r.guard, la := la, w64 := w64, x := x, d := d, base := base,
                   disp := r.disp }))
  | 0x151 => r.entry r.short .qg
      { la := 0xF, d := full, a := full, b := full, fn := 0x7F,
        lo := if r.is96 then fullW else 0 } (do
      let x ← gxSpace (r.fn.extractLsb' 0 3).toNat
      let w64 ← widthB (r.fn.extractLsb' 3 4).toNat
      let d ← destN r.g 1 r.d
      let base ← srcN r.g (if x then 1 else 2) r.a
      let b ← srcN r.g (wregs w64) r.b
      some (.stc { g := r.g, gd := r.guard, la := la, w64 := w64, x := x, d := d, base := base,
                   b := b, disp := r.disp }))
  | 0x152 => r.entry (r.short && !r.g) .qg (r.addrUse { fn := 7 }) (do
      let sp ← sp.filter (· == .g)
      let addr ← r.addr sp
      some (.prefetch r.guard addr))
  | 0x153 => lineOp .flush
  | 0x154 => lineOp .inval
  | 0x155 => r.entry (r.is96 && !r.g) .qg
      { a := full, b := full, c := full, fn := 0x3F, x := 1, lo := 0x1FF } (do
      let dsp ← sp.filter (fun s => s.copyable && s != .h)
      let ssp ← (space (r.fn.extractLsb' 3 3).toNat).filter (fun s => s.copyable && s != .h)
      let a ← bReg (if ssp = .g then 2 else 1) r.a
      let b ← bReg (if dsp = .g then 2 else 1) r.b
      let c ← bReg 1 r.c
      some (.bcomp { gd := r.guard, dspace := dsp, sspace := ssp, ck := r.x.getLsbD 0, a := a,
                     b := b, c := c, n := Fin.ofNat 16 r.lo.toNat, big := r.lo.getLsbD 4,
                     two := r.lo.getLsbD 5, q := Fin.ofNat 8 (r.lo.extractLsb' 6 3).toNat }))
  | _ => .error .illegalOpcode
where
  /-- Types .b32 and .b64 of `ldr` and `stc` (R214). -/
  widthB (t : Nat) : Option Bool :=
    match t with
    | 2 => some false
    | 3 => some true
    | _ => none
  /-- `flush` and `inval` (R216): with `.all`, A, B, X and IMM32 are reserved. -/
  lineOp (mk : Guard → LineArg → Instr) : Except Reject Instr :=
    let all := r.fn.getLsbD 3
    r.entry (r.short && !r.g) .qg (if all then { fn := 0xF } else r.addrUse { fn := 0xF }) (do
      let sp ← (space (r.fn.extractLsb' 0 3).toNat).filter (· == .p)
      if all then some (mk r.guard (.all r.is96))
      else do
        let addr ← r.addr sp
        some (mk r.guard (.at addr)))

/-- Opcodes 0x1A0 to 0x1A6 (R225). -/
def Raw.matrix (r : Raw) : Except Reject Instr :=
  let mask : BitVec 4 := r.fn.extractLsb' 0 4
  match r.opc.toNat with
  | 0x1A0 => r.entry (r.is64 && r.g) .plain { fn := 0xF }
      (if mask = 0 then none else some (.mres r.guard mask))
  | 0x1A1 => r.entry (r.is64 && r.g) .plain { fn := 0xF }
      (if mask = 0 then none else some (.mrel r.guard mask))
  | 0x1A2 => r.entry (r.is64 && r.g) .plain { d := 3 }
      (some (.mzero r.guard (Fin.ofNat 4 r.d.toNat)))
  | 0x1A3 => r.mma
  | 0x1A4 => r.entry (r.is64 && r.g) .plain { a := full, b := full, fn := 0xF } (do
      let a ← sReg 1 r.a
      let b ← sReg 1 r.b
      some (.mqinit { gd := r.guard, k := r.fn.getLsbD 3, q := predNo r.fn, a := a, b := b }))
  | 0x1A5 => r.entry (r.is64 && r.g) .plain
      { a := full, b := full, c := 3, fn := 0x7F, x := 7 } (do
      let fmt ← (nfmt (r.fn.extractLsb' 0 6).toNat).filter (·.real)
      let sp ← (space (r.x.extractLsb' 0 3).toNat).filter (· != .p)
      let a ← sReg (if sp = .g then 2 else 1) r.a
      let b ← sReg 1 r.b
      let add := r.fn.getLsbD 6
      if add && (sp == .g || sp == .x) then none
      else some (.mdrain { gd := r.guard, fmt := fmt, add := add, space := sp, a := a, b := b,
                           c := Fin.ofNat 4 r.c.toNat }))
  | 0x1A6 => r.entry (r.is64 && r.g) .plain
      { d := 3, a := full, b := full, fn := 0x3F, x := 7 } (do
      let fmt ← (nfmt (r.fn.extractLsb' 0 6).toNat).filter (·.loadable)
      let sp ← (space (r.x.extractLsb' 0 3).toNat).filter (· != .p)
      let a ← sReg (if sp = .g then 2 else 1) r.a
      let b ← sReg 1 r.b
      some (.mload { gd := r.guard, fmt := fmt, space := sp, d := Fin.ofNat 4 r.d.toNat, a := a,
                     b := b }))
  | _ => .error .illegalOpcode

/-- Opcodes 0x1D0 to 0x1DB (R358, R319, R335, R343). -/
def Raw.shared (r : Raw) : Except Reject Instr :=
  let no := Fin.ofNat 16 r.fn.toNat
  match r.opc.toNat with
  | 0x1D0 => r.entry (r.short && r.g) .plain
      { d := full, b := if r.is96 then 0 else full, fn := 0xF, lo := if r.is96 then 0xFF else 0 }
      (do
      let d ← sReg 1 r.d
      if r.is96 then some (.tallocImm r.guard no d (r.lo.extractLsb' 0 8))
      else do
        let b ← sReg 1 r.b
        some (.talloc r.guard no d b))
  | 0x1D1 => r.entry (r.is64 && r.g) .plain { d := full, a := full } (do
      let d ← sReg 1 r.d
      let a ← sReg 1 r.a
      some (.tinfo r.guard d a))
  | 0x1D2 => r.entry (r.is64 && r.g) .plain { d := full, b := full, fn := 0xF } (do
      let d ← sReg 1 r.d
      let b ← sReg 1 r.b
      some (.tpart r.guard no d b))
  | 0x1D3 => r.entry (r.is64 && r.g) .plain { a := full, fn := 0xF } (do
      let a ← sReg 1 r.a
      some (.qpush r.guard no a))
  | 0x1D4 => r.entry (r.is64 && r.g) .plain { d := full, fn := 0xF } (do
      let d ← sReg 1 r.d
      some (.qpop r.guard no d))
  | 0x1D5 => r.entry (r.is64 && r.g) .plain { d := full, c := 7, fn := 0xF } (do
      let d ← sReg 1 r.d
      some (.qtry r.guard no d (predNo r.c)))
  | 0x1D6 => r.entry (r.is64 && r.g) .plain { a := full, b := full } (do
      let a ← sReg 1 r.a
      let b ← sReg 1 r.b
      some (.qmc r.guard a b))
  | 0x1D7 => r.entry (r.is96 && !r.g) .none { a := full, fn := 3, lo := fullW } (do
      let a ← srcN false 1 r.a
      some (.reorder { a := a, merge := r.fn.getLsbD 0, stream := r.fn.getLsbD 1,
                       vmask := r.lo.extractLsb' 0 24, smask := r.lo.extractLsb' 24 8 }))
  | 0x1D8 => r.entry r.is64 .qg { d := full, fn := 0xF } (do
      let sel ← rsel r.fn.toNat
      let d ← destN r.g 1 r.d
      if r.g && sel.laneScope then none
      else some (.rinfo { g := r.g, gd := r.guard, sel := sel, d := d }))
  | 0x1D9 =>
      let rem := r.fn.getLsbD 6
      let cnt := r.fn.getLsbD 5 && !rem
      r.entry (r.is64 && !r.g) .qg { r.barUse cnt rem with fn := if rem then 0x5F else 0x7F } (do
      let crew := r.fn.getLsbD 4
      if rem then do
        let a ← bReg 1 r.a
        let b ← bReg 1 r.b
        let c ← if crew then some none else (bReg 1 r.c).map some
        some (.barArriveRem { gd := r.guard, b := no, crewReg := a, cnt := b, team := c })
      else do
        let n ← if cnt then (bReg 1 r.b).map some else some none
        some (.barArrive { gd := r.guard, b := no, crew := crew, cnt := n }))
  | 0x1DA => r.entry (r.is64 && !r.g) .qg { fn := 0x1F }
      (some (.barWait { gd := r.guard, b := no, crew := r.fn.getLsbD 4 }))
  | 0x1DB =>
      let cnt := r.fn.getLsbD 5
      r.entry (r.is64 && !r.g) .qg { r.barUse cnt false with fn := 0x3F } (do
      let n ← if cnt then (bReg 1 r.b).map some else some none
      some (.barSync { gd := r.guard, b := no, crew := r.fn.getLsbD 4, cnt := n }))
  | _ => .error .illegalOpcode

/-- Opcodes 0x1F0 to 0x1FC (R277, R294, R383, R399, R426). -/
def Raw.system (r : Raw) : Except Reject Instr :=
  let tag : BitVec 16 := r.lo.extractLsb' 0 16
  match r.opc.toNat with
  | 0x1F0 =>
      let ctx := r.fn.getLsbD 1
      r.entry (r.is64 && r.g) .plain
        { a := full, b := full, c := if ctx then full else 0, fn := 3 } (do
      let a ← sReg 1 r.a
      let b ← sReg 2 r.b
      let c ← if ctx then (sReg 1 r.c).map some else some none
      some (.launch { gd := r.guard, sys := r.fn.getLsbD 0, a := a, b := b, c := c }))
  | 0x1F1 => r.entry (r.is64 && r.g) .plain { a := full, b := full, fn := 3 } (do
      let a ← sReg 2 r.a
      let b ← sReg 2 r.b
      some (.tlsig { gd := r.guard, sys := r.fn.getLsbD 0, set := r.fn.getLsbD 1, a := a, b := b }))
  | 0x1F2 => r.entry (r.short && r.g) .plain
      { d := 7, a := full, b := full, fn := 3, lo := if r.is96 then fullW else 0 } (do
      let a ← sReg 2 r.a
      let b ← sReg 2 r.b
      let ext := r.fn.getLsbD 1
      if r.is96 then
        if ext && r.lo != 0 then
          some (.tlwaitExt { gd := r.guard, sys := r.fn.getLsbD 0, d := predNo r.d, a := a, b := b,
                             us := r.lo })
        else none
      else some (.tlwait { gd := r.guard, sys := r.fn.getLsbD 0, ext := ext, d := predNo r.d,
                           a := a, b := b }))
  | 0x1F3 => r.entry (r.is96 && r.g) .plain
      { a := full, b := full, c := full, fn := 0xD, lo := 0xFFFF } (do
      let a ← sReg 1 r.a
      let b ← sReg 1 r.b
      let c ← sReg 1 r.c
      let rt ← route (r.fn.extractLsb' 2 2).toNat
      some (.msend { gd := r.guard, k := r.fn.getLsbD 0, route := rt, a := a, b := b, c := c,
                     tag := tag }))
  | 0x1F4 => r.entry (r.is96 && r.g) .plain
      { d := full, a := full, b := full, c := full, fn := 1, lo := 0xFFFF } (do
      let d ← sReg 1 r.d
      let a ← sReg 1 r.a
      let b ← sReg 1 r.b
      let c ← sReg 1 r.c
      some (.mrecv { gd := r.guard, k := r.fn.getLsbD 0, d := d, a := a, b := b, c := c,
                     tag := tag }))
  | 0x1F5 => r.entry (r.is96 && r.g) .plain { d := full, a := full, lo := 0xFFFF } (do
      let d ← sReg 1 r.d
      let a ← sReg 1 r.a
      some (.mprobe { gd := r.guard, d := d, a := a, tag := tag }))
  | 0x1F6 => r.entry (r.short && r.g) .plain
      { d := full, a := full, fn := 1, lo := if r.is96 then fullW else 0 } (do
      let d ← sReg 1 r.d
      let a ← sReg 1 r.a
      let ext := r.fn.getLsbD 0
      if r.is96 then (if ext && r.lo != 0 then some (.mwaitrExt r.guard d a r.lo) else none)
      else some (.mwaitr r.guard ext d a))
  | 0x1F7 => r.entry (!r.is96 && r.g) .plain
      { a := if r.is64 then full else 0, lo := if r.is64 then 0 else fullW,
        hi := if r.is64 then 0 else fullW } (do
      if r.is64 then do
        let a ← sReg 2 r.a
        some (.trace r.guard a)
      else some (.traceImm r.guard (r.hi ++ r.lo)))
  | 0x1F8 => r.entry (r.is96 && r.g) .plain { lo := 0xFFFFF }
      (some (.mark r.guard (r.lo.extractLsb' 0 20)))
  | 0x1F9 => r.entry (r.is96 && r.g) .plain { a := full, lo := 0xFFFF } (do
      let a ← sReg 1 r.a
      some (.evt r.guard tag a))
  | 0x1FA => r.entry (r.is64 && r.g) .plain { a := full, b := full, c := full, fn := full } (do
      let a ← sReg 2 r.a
      let b ← sReg 2 r.b
      let c ← sReg 1 r.c
      let e ← esize (r.fn.extractLsb' 6 2).toNat
      some (.bindw { gd := r.guard, slot := Fin.ofNat 64 r.fn.toNat, e := e, a := a, b := b,
                     c := c }))
  | 0x1FB => r.entry (r.is64 && r.g) .plain { fn := 0x3F }
      (some (.unbindw r.guard (Fin.ofNat 64 r.fn.toNat)))
  | 0x1FC => r.ratom
  | _ => .error .illegalOpcode

/-- Steps 3 to 5 of R144, by the opcode map of R142. -/
def decodeRaw (r : Raw) : Except Reject Instr :=
  let o := r.opc.toNat
  if o < 0x040 then r.control
  else if o < 0x140 then r.vector
  else if o < 0x1A0 then r.memory
  else if o < 0x1D0 then r.matrix
  else if o < 0x1F0 then r.shared
  else r.system

/-- Steps 1 and 3 to 5 of R144 on the words at a fetch address: a word with LEN = 0b11 stands alone
(R125) (log 49, DEDUCED). -/
def decodeWords (ws : List Word) : Except Reject Instr :=
  match ws with
  | [] => .error .truncated
  | w0 :: rest =>
    match (w0.extractLsb' 0 2).toNat, rest with
    | 3, _ => .ok (.padWord w0)
    | 0, w1 :: _ => decodeRaw (Raw.ofCommon .l64 (w1 ++ w0) 0 0)
    | 1, w1 :: w2 :: _ => decodeRaw (Raw.ofCommon .l96 (w1 ++ w0) w2 0)
    | 2, w1 :: w2 :: w3 :: _ => decodeRaw (Raw.ofCommon .l128 (w1 ++ w0) w2 w3)
    | _, _ => .error .truncated

/-- The word at the lowest address holds its bytes little-endian (R3). -/
def wordOfBytes (b0 b1 b2 b3 : Byte) : Word := b3 ++ b2 ++ b1 ++ b0

/-- The words of a byte string; an incomplete last word is dropped. -/
def wordsOfBytes : List Byte → List Word
  | b0 :: b1 :: b2 :: b3 :: rest => wordOfBytes b0 b1 b2 b3 :: wordsOfBytes rest
  | _ => []

/-- The decoder on any bytes. -/
def decode (bs : List Byte) : Except Reject Instr := decodeWords (wordsOfBytes bs)

/-- The sixteen bytes whose little-endian value is `w` (R3). -/
def bytesOfNat16 (w : Nat) : List Byte :=
  (List.range 16).map (fun k => BitVec.ofNat 8 (w >>> (8 * k)))

/-- What the decoder reads from an instruction whose bits are `w`, numbered from bit 0 of the first
word, every bit from `nbits` up being zero. -/
def decodeTableWord (nbits w : Nat) : Option Instr :=
  (decode (bytesOfNat16 (w % 2 ^ nbits))).toOption

/-! ### The encoder -/

/-- The field of a register: broadcast numbering for a group-wide register under G=0 (R130). -/
def Reg.field (g : Bool) : Reg → BitVec 8
  | .v n => BitVec.ofNat 8 n.val
  | .s n => BitVec.ofNat 8 (if g then n.val else 192 + n.val)

def sField (n : Fin 64) : BitVec 8 := BitVec.ofNat 8 n.val
def bField (n : Fin 64) : BitVec 8 := BitVec.ofNat 8 (192 + n.val)
def gField (g : Bool) (n : Fin 64) : BitVec 8 := if g then sField n else bField n
def vField (n : Fin 192) : BitVec 8 := BitVec.ofNat 8 n.val
def pField (n : Fin 8) : BitVec 8 := BitVec.ofNat 8 n.val
def bit (b : Bool) (n : Nat) : Nat := if b then 2 ^ n else 0

/-- PRD of a guard (R132). -/
def Guard.prd (gd : Guard) : BitVec 4 := BitVec.ofNat 4 (bit gd.neg 3 + gd.idx.val)

/-- A word with the given opcode, G and guard; QG is X[3] of a G=0 word (R132). -/
def base (opc : Nat) (g : Bool) (gd : Guard) : Raw where
  len := .l64
  g := g
  opc := BitVec.ofNat 9 opc
  la := 0
  prd := gd.prd
  d := 0
  a := 0
  b := 0
  c := 0
  fn := 0
  x := BitVec.ofNat 4 (bit (!g && gd.grp) 3)
  lo := 0
  hi := 0

/-- The unguarded G=1 form. -/
def Guard.always : Guard := { grp := true, neg := false, idx := 7 }

/-- The unguarded G=0 form. -/
def Guard.alwaysP : Guard := { grp := false, neg := false, idx := 7 }

/-- Put a last source into field B, or its immediate into IMM32. -/
def Raw.withB (r : Raw) : Src → Raw
  | .reg x => { r with b := x.field r.g }
  | .imm w => { r with len := .l96, lo := w }

def Raw.withC (r : Raw) : Src → Raw
  | .reg x => { r with c := x.field r.g }
  | .imm w => { r with len := .l96, lo := w }

def Raw.withDisp (r : Raw) : Option Word → Raw
  | none => r
  | some w => { r with len := .l96, lo := w }

/-- Put a memory operand into A, B, X and IMM32 (R196). -/
def Raw.withAddr (r : Raw) (a : Addr) : Raw :=
  ({ r with
     a := (match a.base with
     | some x => x.field r.g | none => 0)
     b := (match a.index with | some x => x.field r.g | none => 0)
     x := r.x ||| BitVec.ofNat 4 (bit a.index.isNone 0 + bit a.base.isNone 1) }).withDisp a.disp

def rawAlu (opc : Nat) (f : AluForm) : Raw :=
  ({ base opc f.g f.gd with
     d := f.d.field f.g, a := f.a.field f.g,
     fn := BitVec.ofNat 8 (f.ty.code + bit f.sat 4) }).withB f.b

def rawMad (opc : Nat) (f : MadForm) : Raw :=
  ({ base opc f.g f.gd with
     d := f.d.field f.g, a := f.a.field f.g, b := f.b.field f.g,
     fn := BitVec.ofNat 8 (f.ty.code + bit f.sat 4) }).withC f.c

def rawUn (opc : Nat) (f : UnForm) : Raw :=
  { base opc f.g f.gd with
    d := f.d.field f.g, a := f.a.field f.g,
    fn := BitVec.ofNat 8 (f.ty.code + bit f.sat 4) }

def rawCarry (opc : Nat) (f : CarryForm) : Raw :=
  { base opc f.g f.gd with
    d := f.d.field f.g, a := f.a.field f.g, b := f.b.field f.g,
    c := pField f.c, fn := BitVec.ofNat 8 f.ty.code }

def rawDiv (opc : Nat) (f : DivForm) : Raw :=
  ({ base opc false f.gd with
     la := BitVec.ofNat 4 f.la.val, d := f.d.field false,
     a := f.a.field false, fn := BitVec.ofNat 8 f.ty.code }).withB f.b

def rawFAlu (opc : Nat) (f : FAluForm) : Raw :=
  ({ base opc false f.gd with
     d := f.d.field false, a := f.a.field false,
     fn := f.fmt.code }).withB f.b

def rawFUn (opc : Nat) (f : FUnForm) : Raw :=
  { base opc false f.gd with d := f.d.field false, a := f.a.field false, fn := f.fmt.code }

def rawFLong (opc : Nat) (f : FLongForm) : Raw :=
  { base opc false f.gd with
    la := BitVec.ofNat 4 f.la.val, d := f.d.field false,
    a := f.a.field false, fn := f.fmt.code }

def rawRed (opc : Nat) (f : RedForm) : Raw :=
  { base opc false f.gd with
    la := BitVec.ofNat 4 f.la.val, d := f.d.field false,
    a := f.a.field false, fn := f.ty.code,
    x := BitVec.ofNat 4 (f.op.code + bit f.excl 2) }

def fnMem (top ty sp : Nat) : BitVec 8 := BitVec.ofNat 8 (128 * top + 8 * ty + sp)

def rawLine (opc : Nat) (gd : Guard) : LineArg → Raw
  | .all wide => { base opc false gd with len := if wide then .l96 else .l64, fn := 9 }
  | .at a => ({ base opc false gd with fn := 1 }).withAddr a

def gxCode (x : Bool) : Nat := if x then 4 else 0
def cellCode (k : Bool) : Nat := if k then 3 else 2
def wCode (w64 : Bool) : Nat := if w64 then 3 else 2

def optS : Option (Fin 64) → BitVec 8
  | some n => sField n
  | none => 0

def optB : Option (Fin 64) → BitVec 8
  | some n => bField n
  | none => 0

/-- The fields of an instruction; `none` for a pad word and for the event rows. -/
def encodeRaw : Instr → Option Raw
  | .br gd w => some { base 0x001 true gd with len := .l96, lo := w }
  | .rcv k => some { base 0x002 true .always with fn := BitVec.ofNat 8 k.val }
  | .jmpi gd a => some { base 0x003 true gd with a := sField a }
  | .call gd w => some { base 0x004 true gd with len := .l96, lo := w }
  | .callReg gd a => some { base 0x004 true gd with a := sField a }
  | .ret gd => some (base 0x005 true gd)
  | .safept => some (base 0x006 true .always)
  | .safeptMask m => some { base 0x006 true .always with len := .l96, lo := m }
  | .brd gd k w => some { base 0x007 false gd with len := .l96, fn := BitVec.ofNat 8 k.val, lo := w }
  | .exit gd => some (base 0x008 false gd)
  | .trap gd c => some { base 0x009 false gd with len := .l96, lo := c.zeroExtend 32 }
  | .trapBreak gd c => some { base 0x009 false gd with len := .l96, fn := 1, lo := c.zeroExtend 32 }
  | .tret => some (base 0x00A true .always)
  | .halt gd => some (base 0x00B true gd)
  | .yield gd => some (base 0x00C true gd)
  | .getsr f => some { base 0x00D f.g f.gd with d := f.d.field f.g, fn := BitVec.ofNat 8 f.sel.code }
  | .mov f => some { base 0x00E f.g f.gd with
                     d := f.d.field f.g, a := f.a.field f.g,
                     fn := BitVec.ofNat 8 (wCode f.w64) }
  | .movi32 f => some { base 0x00F f.g f.gd with
                        len := .l96, d := f.d.field f.g, fn := 2,
                        lo := f.imm }
  | .movi64 f => some { base 0x00F f.g f.gd with
                        len := .l128, d := f.d.field f.g, fn := 3,
                        lo := f.imm.extractLsb' 0 32, hi := f.imm.extractLsb' 32 32 }
  | .sel f => some { base 0x010 f.g f.gd with
                     d := f.d.field f.g, a := f.a.field f.g,
                     b := f.b.field f.g, c := pField f.c, fn := BitVec.ofNat 8 (wCode f.w64) }
  | .setsr gd a => some { base 0x011 true gd with a := sField a, fn := 0x20 }
  | .setq gd d a => some { base 0x012 true gd with d := pField d, a := sField a }
  | .qand gd d a b => some { base 0x013 true gd with d := pField d, a := pField a, b := pField b }
  | .qor gd d a b => some { base 0x014 true gd with d := pField d, a := pField a, b := pField b }
  | .qnot gd d a => some { base 0x015 true gd with d := pField d, a := pField a }
  | .vote gd v => some (match v with
      | .ballot d b => { base 0x016 true gd with d := sField d, b := pField b }
      | .any d b => { base 0x016 true gd with d := pField d, b := pField b, fn := 1 }
      | .all d b => { base 0x016 true gd with d := pField d, b := pField b, fn := 2 }
      | .eq d a => { base 0x016 true gd with d := pField d, a := vField a, fn := 3 })
  | .bcast gd w64 d a l => some { base 0x017 true gd with
      d := sField d, a := vField a, b := optS l,
      fn := BitVec.ofNat 8 (wCode w64 + bit l.isNone 4) }
  | .bcastImm gd w64 d a l => some { base 0x017 true gd with
      len := .l96, d := sField d,
      a := vField a, fn := BitVec.ofNat 8 (wCode w64), lo := BitVec.ofNat 32 l.val }
  | .actm gd d => some { base 0x018 true gd with d := sField d }
  | .popc gd d a => some { base 0x019 true gd with d := sField d, a := sField a }
  | .ffs gd d a => some { base 0x01A true gd with d := sField d, a := sField a }
  | .add f => some (rawAlu 0x040 f)
  | .sub f => some (rawAlu 0x041 f)
  | .mul f => some (rawAlu 0x042 f)
  | .mulhi f => some (rawAlu 0x043 f)
  | .mad f => some (rawMad 0x044 f)
  | .min f => some (rawAlu 0x045 f)
  | .max f => some (rawAlu 0x046 f)
  | .abs f => some (rawUn 0x047 f)
  | .neg f => some (rawUn 0x048 f)
  | .and f => some (rawAlu 0x049 f)
  | .or f => some (rawAlu 0x04A f)
  | .xor f => some (rawAlu 0x04B f)
  | .not f => some (rawUn 0x04C f)
  | .andn f => some (rawAlu 0x04D f)
  | .shl f => some (rawAlu 0x04E f)
  | .shr f => some (rawAlu 0x04F f)
  | .sar f => some (rawAlu 0x050 f)
  | .rot f => some (rawAlu 0x051 f)
  | .bfe f => some (rawAlu 0x052 f)
  | .bfi f => some (rawMad 0x053 f)
  | .bcnt f => some (rawUn 0x054 f)
  | .clz f => some (rawUn 0x055 f)
  | .brev f => some (rawUn 0x056 f)
  | .cmp f =>
      let r := ({ base 0x057 f.g f.gd with
                  d := pField f.d, a := f.a.field f.g,
                  fn := BitVec.ofNat 8 f.ty.code }).withB f.b
      some { r with x := r.x ||| BitVec.ofNat 4 f.cond.code }
  | .addc f => some (rawCarry 0x058 f)
  | .subc f => some (rawCarry 0x059 f)
  | .div f => some (rawDiv 0x05A f)
  | .rem f => some (rawDiv 0x05B f)
  | .fadd f => some (rawFAlu 0x0C0 f)
  | .fsub f => some (rawFAlu 0x0C1 f)
  | .fmul f => some (rawFAlu 0x0C2 f)
  | .fma f => some (({ base 0x0C3 false f.gd with
                       d := f.d.field false, a := f.a.field false,
                       b := f.b.field false, fn := f.fmt.code }).withC f.c)
  | .fmin f => some (rawFAlu 0x0C4 f)
  | .fmax f => some (rawFAlu 0x0C5 f)
  | .fabs f => some (rawFUn 0x0C6 f)
  | .fneg f => some (rawFUn 0x0C7 f)
  | .fcmp f =>
      let r := ({ base 0x0C8 false f.gd with
                  d := pField f.d, a := f.a.field false,
                  fn := f.fmt.code }).withB f.b
      some { r with x := r.x ||| BitVec.ofNat 4 f.cond.code }
  | .fclass f => some (rawFUn 0x0C9 f)
  | .rcp f => some (rawFLong 0x0CA f)
  | .rsqrt f => some (rawFLong 0x0CB f)
  | .sqrt f => some (rawFLong 0x0CC f)
  | .exp2 f => some (rawFLong 0x0CD f)
  | .log2 f => some (rawFLong 0x0CE f)
  | .sinpi f => some (rawFLong 0x0CF f)
  | .tanh f => some (rawFLong 0x0D0 f)
  | .dot2 f => some { base 0x0D1 false f.gd with
                      d := f.d.field false, a := f.a.field false,
                      b := f.b.field false, c := f.c.field false, fn := f.fmt.code }
  | .cvt f =>
      let r := base 0x0E0 false f.gd
      some { r with
                    d := f.d.field false, a := f.a.field false, c := f.src.code, fn := f.dst.code,
                    x := r.x ||| BitVec.ofNat 4 (bit f.sat 0 + bit f.trunc 1) }
  | .prmb f => some (({ base 0x100 false f.gd with
      d := f.d.field false, a := f.a.field false,
      b := (match f.b with | some x => x.field false | none => 0),
      fn := BitVec.ofNat 8 (2 + bit f.b.isNone 4) }).withC f.c)
  | .shfl f => some (({ base 0x101 false f.gd with
      d := f.d.field false, a := f.a.field false,
      fn := BitVec.ofNat 8 (wCode f.w64 + 16 * f.mode.code) }).withB f.b)
  | .lred f => some (rawRed 0x102 f)
  | .lscan f => some (rawRed 0x103 f)
  | .topk f => some { base 0x104 false f.gd with
      len := .l96, la := BitVec.ofNat 4 f.la.val,
      d := f.d.field false, a := f.a.field false, fn := f.ty.code,
      x := BitVec.ofNat 4 (bit f.min 0 + bit f.rank 1), lo := BitVec.ofNat 32 f.k.val }
  | .padWord _ => none
  | .ld f => some (({ base 0x140 f.g f.gd with
      la := BitVec.ofNat 4 f.la.val, d := f.d.field f.g,
      fn := fnMem (bit f.cm 0) f.ty.code f.space.code }).withAddr f.addr)
  | .st f => some (({ base 0x141 f.g f.gd with
      c := f.data.field f.g,
      fn := fnMem 0 f.ty.code f.space.code }).withAddr f.addr)
  | .ldv f => some (({ base 0x142 false f.gd with
      la := BitVec.ofNat 4 f.la.val,
      d := f.d.field false, fn := fnMem (bit f.cm 0) f.size.code f.space.code }).withAddr f.addr)
  | .stv f => some (({ base 0x143 false f.gd with
      c := f.data.field false,
      fn := fnMem 0 f.size.code f.space.code }).withAddr f.addr)
  | .cpa f =>
      let r := base 0x144 false f.gd
      some { r with
                    a := f.a.field false, b := f.b.field false, c := bField f.c,
                    fn := BitVec.ofNat 8 (64 * f.size.code + 8 * f.sspace.code + f.dspace.code),
                    x := r.x ||| BitVec.ofNat 4 (bit f.ck 0) }
  | .cellInit f => some { base 0x145 true f.gd with
      a := sField f.a, b := sField f.b,
      c := sField f.c, fn := BitVec.ofNat 8 (cellCode f.k) }
  | .cellArrive f => some { base 0x146 true f.gd with
      d := sField f.d, a := sField f.a,
      b := sField f.b, fn := BitVec.ofNat 8 (cellCode f.k) }
  | .cellWait f => some { base 0x147 true f.gd with
      a := sField f.a, b := optS f.b,
      fn := BitVec.ofNat 8 (cellCode f.k + bit f.b.isSome 3),
      x := BitVec.ofNat 4 (bit f.phase 0 + bit f.ext 1) }
  | .cellTest f => some { base 0x148 true f.gd with
      d := pField f.d, a := sField f.a, b := optS f.b,
      fn := BitVec.ofNat 8 (cellCode f.k + bit f.b.isSome 3), x := BitVec.ofNat 4 (bit f.phase 0) }
  | .cellArm f => some { base 0x149 true f.gd with
      a := sField f.a,
      fn := BitVec.ofNat 8 (cellCode f.k), x := BitVec.ofNat 4 (bit f.phase 0) }
  | .waitc gd p t => some (match t with
      | .reg b => { base 0x14A true gd with b := sField b, fn := pField p }
      | .imm n => { base 0x14A true gd with
                    len := .l96, fn := pField p,
                    lo := BitVec.ofNat 32 n.val })
  | .fenceRel gd s => some { base 0x14B false gd with fn := BitVec.ofNat 8 s.code }
  | .fenceAcq gd s => some { base 0x14C false gd with fn := BitVec.ofNat 8 s.code }
  | .fenceSc gd s => some { base 0x14D false gd with fn := BitVec.ofNat 8 s.code }
  | .atom f =>
      let r := base 0x14E f.g f.gd
      some (({ r with
               la := BitVec.ofNat 4 f.la.val, d := f.d.field f.g, a := f.base.field f.g,
               b := f.b.field f.g, c := (match f.c with | some x => x.field f.g | none => 0),
               fn := BitVec.ofNat 8 (8 * f.op.code + gxCode f.x),
               x := r.x ||| BitVec.ofNat 4 (bit f.w64 0) }).withDisp f.disp)
  | .red f =>
      let r := base 0x14F f.g f.gd
      some (({ r with
               a := f.base.field f.g, b := f.b.field f.g,
               fn := BitVec.ofNat 8 (8 * f.op.code + gxCode f.x),
               x := r.x ||| BitVec.ofNat 4 (bit f.w64 0) }).withDisp f.disp)
  | .ldr f => some (({ base 0x150 f.g f.gd with
      la := BitVec.ofNat 4 f.la.val, d := f.d.field f.g,
      a := f.base.field f.g, fn := fnMem 0 (wCode f.w64) (gxCode f.x) }).withDisp f.disp)
  | .stc f => some (({ base 0x151 f.g f.gd with
      la := BitVec.ofNat 4 f.la.val, d := f.d.field f.g,
      a := f.base.field f.g, b := f.b.field f.g,
      fn := fnMem 0 (wCode f.w64) (gxCode f.x) }).withDisp f.disp)
  | .prefetch gd a => some ((base 0x152 false gd).withAddr a)
  | .flush gd a => some (rawLine 0x153 gd a)
  | .inval gd a => some (rawLine 0x154 gd a)
  | .bcomp f =>
      let r := base 0x155 false f.gd
      some { r with
                    len := .l96, a := bField f.a, b := bField f.b, c := bField f.c,
                    fn := BitVec.ofNat 8 (8 * f.sspace.code + f.dspace.code),
                    x := r.x ||| BitVec.ofNat 4 (bit f.ck 0),
                    lo := BitVec.ofNat 32 (f.n.val + bit f.big 4 + bit f.two 5 + 64 * f.q.val) }
  | .mres gd m => some { base 0x1A0 true gd with fn := m.zeroExtend 8 }
  | .mrel gd m => some { base 0x1A1 true gd with fn := m.zeroExtend 8 }
  | .mzero gd d => some { base 0x1A2 true gd with d := BitVec.ofNat 8 d.val }
  | .mma f => some
      { base 0x1A3 true f.gd with
        len := .l128, d := BitVec.ofNat 8 f.d.val, a := sField f.a, b := sField f.b,
        c := sField f.c,
        fn := BitVec.ofNat 8 ((match f.var with
        | .dense _ => 0 | .gather _ _ => 1 | .sparse _ => 2)
          + 4 * f.aspace.code + 16 * f.bspace.code + bit f.z 6)
        x := BitVec.ofNat 4 (bit f.ca 0 + bit f.cb 1)
        lo := BitVec.ofNat 32 (f.kq.val + (match f.var with
          | .dense _ => 0 | .gather _ i => 64 * i.val | .sparse q => 2 ^ 14 * q.val))
        hi := f.bstr ++ (match f.var with | .dense s => s | .gather s _ => s | .sparse _ => 0) }
  | .mqinit f => some { base 0x1A4 true f.gd with
      a := sField f.a, b := sField f.b,
      fn := BitVec.ofNat 8 (f.q.val + bit f.k 3) }
  | .mdrain f => some { base 0x1A5 true f.gd with
      a := sField f.a, b := sField f.b,
      c := BitVec.ofNat 8 f.c.val, fn := BitVec.ofNat 8 (f.fmt.code + bit f.add 6),
      x := BitVec.ofNat 4 f.space.code }
  | .mload f => some { base 0x1A6 true f.gd with
      d := BitVec.ofNat 8 f.d.val, a := sField f.a,
      b := sField f.b, fn := BitVec.ofNat 8 f.fmt.code, x := BitVec.ofNat 4 f.space.code }
  | .talloc gd p d b => some { base 0x1D0 true gd with
      d := sField d, b := sField b,
      fn := BitVec.ofNat 8 p.val }
  | .tallocImm gd p d n => some { base 0x1D0 true gd with
      len := .l96, d := sField d,
      fn := BitVec.ofNat 8 p.val, lo := n.zeroExtend 32 }
  | .tinfo gd d a => some { base 0x1D1 true gd with d := sField d, a := sField a }
  | .tpart gd p d b => some { base 0x1D2 true gd with
      d := sField d, b := sField b,
      fn := BitVec.ofNat 8 p.val }
  | .qpush gd h a => some { base 0x1D3 true gd with a := sField a, fn := BitVec.ofNat 8 h.val }
  | .qpop gd h d => some { base 0x1D4 true gd with d := sField d, fn := BitVec.ofNat 8 h.val }
  | .qtry gd h d c => some { base 0x1D5 true gd with
      d := sField d, c := pField c,
      fn := BitVec.ofNat 8 h.val }
  | .qmc gd a b => some { base 0x1D6 true gd with a := sField a, b := sField b }
  | .reorder f => some { base 0x1D7 false .alwaysP with
      len := .l96, a := f.a.field false,
      fn := BitVec.ofNat 8 (bit f.merge 0 + bit f.stream 1), lo := f.smask ++ f.vmask }
  | .rinfo f => some { base 0x1D8 f.g f.gd with d := f.d.field f.g, fn := BitVec.ofNat 8 f.sel.code }
  | .barArrive f => some { base 0x1D9 false f.gd with
      b := optB f.cnt,
      fn := BitVec.ofNat 8 (f.b.val + bit f.crew 4 + bit f.cnt.isSome 5) }
  | .barArriveRem f => some { base 0x1D9 false f.gd with
      a := bField f.crewReg, b := bField f.cnt,
      c := optB f.team, fn := BitVec.ofNat 8 (f.b.val + bit f.team.isNone 4 + 64) }
  | .barWait f => some { base 0x1DA false f.gd with fn := BitVec.ofNat 8 (f.b.val + bit f.crew 4) }
  | .barSync f => some { base 0x1DB false f.gd with
      b := optB f.cnt,
      fn := BitVec.ofNat 8 (f.b.val + bit f.crew 4 + bit f.cnt.isSome 5) }
  | .launch f => some { base 0x1F0 true f.gd with
      a := sField f.a, b := sField f.b, c := optS f.c,
      fn := BitVec.ofNat 8 (bit f.sys 0 + bit f.c.isSome 1) }
  | .tlsig f => some { base 0x1F1 true f.gd with
      a := sField f.a, b := sField f.b,
      fn := BitVec.ofNat 8 (bit f.sys 0 + bit f.set 1) }
  | .tlwait f => some { base 0x1F2 true f.gd with
      d := pField f.d, a := sField f.a, b := sField f.b,
      fn := BitVec.ofNat 8 (bit f.sys 0 + bit f.ext 1) }
  | .tlwaitExt f => some { base 0x1F2 true f.gd with
      len := .l96, d := pField f.d, a := sField f.a,
      b := sField f.b, fn := BitVec.ofNat 8 (bit f.sys 0 + 2), lo := f.us }
  | .msend f => some { base 0x1F3 true f.gd with
      len := .l96, a := sField f.a, b := sField f.b,
      c := sField f.c, fn := BitVec.ofNat 8 (bit f.k 0 + 4 * f.route.code),
      lo := f.tag.zeroExtend 32 }
  | .mrecv f => some { base 0x1F4 true f.gd with
      len := .l96, d := sField f.d, a := sField f.a,
      b := sField f.b, c := sField f.c, fn := BitVec.ofNat 8 (bit f.k 0), lo := f.tag.zeroExtend 32 }
  | .mprobe f => some { base 0x1F5 true f.gd with
      len := .l96, d := sField f.d, a := sField f.a,
      lo := f.tag.zeroExtend 32 }
  | .mwaitr gd ext d a => some { base 0x1F6 true gd with
      d := sField d, a := sField a,
      fn := BitVec.ofNat 8 (bit ext 0) }
  | .mwaitrExt gd d a us => some { base 0x1F6 true gd with
      len := .l96, d := sField d,
      a := sField a, fn := 1, lo := us }
  | .ratom f =>
      let r := base 0x1FC f.g f.gd
      some { r with
                    la := BitVec.ofNat 4 f.la.val,
                    d := (match f.d with | some x => x.field f.g | none => 0),
                    a := gField f.g f.a, b := f.b.field f.g, c := gField f.g f.c,
                    fn := BitVec.ofNat 8 (8 * f.op.code),
                    x := r.x ||| BitVec.ofNat 4 (bit f.w64 0 + bit f.d.isNone 1) }
  | .ratomCas f =>
      let r := base 0x1FC f.g f.gd
      some { r with
                    len := .l128, la := BitVec.ofNat 4 f.la.val,
                    d := (match f.d with | some x => x.field f.g | none => 0),
                    a := gField f.g f.a, b := f.b.field f.g, c := gField f.g f.c,
                    fn := BitVec.ofNat 8 (8 * 9),
                    x := r.x ||| BitVec.ofNat 4 (bit f.w64 0 + bit f.d.isNone 1),
                    lo := (gField f.g f.e).zeroExtend 32 }
  | .trace gd a => some { base 0x1F7 true gd with a := sField a }
  | .traceImm gd w => some { base 0x1F7 true gd with
      len := .l128, lo := w.extractLsb' 0 32,
      hi := w.extractLsb' 32 32 }
  | .mark gd n => some { base 0x1F8 true gd with len := .l96, lo := n.zeroExtend 32 }
  | .evt gd c a => some { base 0x1F9 true gd with len := .l96, a := sField a, lo := c.zeroExtend 32 }
  | .bindw f => some { base 0x1FA true f.gd with
      a := sField f.a, b := sField f.b, c := sField f.c,
      fn := BitVec.ofNat 8 (f.slot.val + 64 * f.e.code) }
  | .unbindw gd s => some { base 0x1FB true gd with fn := BitVec.ofNat 8 s.val }
  | _ => none

/-- The words of an instruction, lowest address first. -/
def encode (i : Instr) : List Word :=
  match i with
  | .padWord w => [w]
  | i => match encodeRaw i with
    | some r => r.words
    | none => []

/-- The bytes of a word, lowest address first (R3). -/
def bytesOfWord (w : Word) : List Byte :=
  [w.extractLsb' 0 8, w.extractLsb' 8 8, w.extractLsb' 16 8, w.extractLsb' 24 8]

/-- The bytes of an instruction in memory. -/
def encodeBytes (i : Instr) : List Byte := (encode i).flatMap bytesOfWord

/-- Length in bytes of an instruction's encoding: 8, 12 or 16 (R123), 4 for a pad word. -/
def Instr.bytes (i : Instr) : Nat := 4 * (encode i).length

end Sys2Proof
end

