-- ==== Sys2Proof/Config.lean ====
section
/-! DEFINITION. What an implementation fixes and the manual leaves open: free values, and the
functions, keys and fuses that stand outside the manual. None has a body a proof could see. -/

namespace Sys2Proof

/-- The byte that the n-th reading of an undefined byte gives (log 2): the destination of a faulted
`bcomp` (R218). -/
opaque Config.freeByte : Nat → Byte

/-- Entries that the order log of a context holds between two checkpoints (R429). -/
opaque Config.orderLog : Nat

/-- SHA3-256 of a byte string, as 32 bytes (R420, R432): the function stands outside the manual. -/
opaque Config.sha3 : List Byte → List Byte

/-- ML-DSA-44 verification of a byte string under the firmware key (R432). -/
opaque Config.verifies : List Byte → List Byte → Bool

/-- ML-DSA-44 signature under the device identity key (R420, R433). -/
opaque Config.sign : List Byte → List Byte

/-- The fused minimum security version number (R432). -/
opaque Config.minSvn : Nat

/-- The device serial number in attestation reports (R433). -/
opaque Config.serial : Nat

/-- The identity public key: 1,312 bytes (R433). -/
opaque Config.publicKey : List Byte

/-- Cores repaired at manufacture: for each cluster the logical core that the spare replaces, if any
(R434). -/
opaque Config.fusedRepair : Nat → Option Nat

end Sys2Proof
end

