-- ==== Sys2Proof/Machine/Num.lean ====
section
/-! DEFINITION. Number formats, exact values and both rounding paths (R27 to R44), and the
correctly rounded functions of R188. Every value is an exact dyadic number, an infinity or NaN. -/

namespace Sys2Proof

/-- An exact value: `fin neg m e` is (−1)^neg × m × 2^e, with a signed zero when m = 0. -/
inductive FVal where
  | nan
  | inf (neg : Bool)
  | fin (neg : Bool) (m : Nat) (e : Int)
deriving DecidableEq, Repr

/-- A floating format (R27 to R33): storage width, precision P, bias, and its special codes. -/
structure Fmt where
  size : Nat
  p : Nat
  bias : Nat
  uns : Bool
  /-- IEEE layout (f32, bf16, f16); otherwise binary8. -/
  ieee : Bool
  hasInf : Bool
  nanCode : Nat
  /-- Code of the largest finite value, sign clear. -/
  maxCode : Nat
deriving DecidableEq, Repr

def fmtF32 : Fmt := ⟨32, 24, 127, false, true, true, 0x7FC00000, 0x7F7FFFFF⟩
def fmtBf16 : Fmt := ⟨16, 8, 127, false, true, true, 0x7FC0, 0x7F7F⟩
def fmtF16 : Fmt := ⟨16, 11, 15, false, true, true, 0x7E00, 0x7BFF⟩

/-- A binary8 format of precision `p` (R29 to R31). -/
def fmtB8 (uns inf : Bool) (p : Nat) : Fmt where
  size := 8
  p := p
  bias := 2 ^ ((if uns then 9 else 8) - p - 1)
  uns := uns
  ieee := false
  hasInf := inf
  nanCode := if uns then 0xFF else 0x80
  maxCode := (if uns then 0xFE else 0x7F) - (if inf then 1 else 0)

def FFmt.fmt : FFmt → Fmt
  | .f32 => fmtF32
  | .bf16 | .bf16x2 => fmtBf16
  | .f16 | .f16x2 => fmtF16

/-! ### Decoding -/

/-- Magnitude of exponent field `ex` and significand field `f` (R29, R33). -/
def Fmt.magnitude (t : Fmt) (code : Nat) : Nat × Int :=
  let f := code % 2 ^ (t.p - 1)
  let ex := code / 2 ^ (t.p - 1)
  if ex = 0 then (f, 2 - (t.bias : Int) - t.p)
  else (2 ^ (t.p - 1) + f, (ex : Int) - t.bias - t.p + 1)

/-- The value of a code (R29 to R33). -/
def Fmt.decode (t : Fmt) (code : Nat) : FVal :=
  let c := code % 2 ^ t.size
  let neg := !t.uns && c / 2 ^ (t.size - 1) == 1
  let mag := if t.uns then c else c % 2 ^ (t.size - 1)
  if t.ieee then
    if mag > t.maxCode then (if mag = t.maxCode + 1 then .inf neg else .nan)
    else .fin neg (t.magnitude mag).1 (t.magnitude mag).2
  else if c = t.nanCode then .nan
  else if t.hasInf ∧ mag = t.maxCode + 1 then .inf neg
  else .fin neg (t.magnitude mag).1 (t.magnitude mag).2

/-! ### Exact arithmetic -/

/-- Number of bits of `m`: 0 for 0. -/
def bitLen (m : Nat) : Nat := if m = 0 then 0 else m.log2 + 1

/-- Bring two finite magnitudes to one exponent. -/
def align (m1 : Nat) (e1 : Int) (m2 : Nat) (e2 : Int) : Nat × Nat × Int :=
  if e1 ≤ e2 then (m1, m2 * 2 ^ (e2 - e1).toNat, e1) else (m1 * 2 ^ (e1 - e2).toNat, m2, e2)

/-- Order of two magnitudes; zeros compare equal whatever their exponents. -/
def magCmp (m1 : Nat) (e1 : Int) (m2 : Nat) (e2 : Int) : Ordering :=
  if m1 = 0 ∧ m2 = 0 then .eq
  else
    let (a, b, _) := align m1 e1 m2 e2
    compare a b

def FVal.isNan : FVal → Bool
  | .nan => true
  | _ => false

def FVal.isZero : FVal → Bool
  | .fin _ 0 _ => true
  | _ => false

def FVal.isInf : FVal → Bool
  | .inf _ => true
  | _ => false

def FVal.neg? : FVal → Bool
  | .nan => false
  | .inf n => n
  | .fin n _ _ => n

def FVal.negate : FVal → FVal
  | .nan => .nan
  | .inf n => .inf (!n)
  | .fin n m e => .fin (!n) m e

/-- +0 -/
def FVal.zero : FVal := .fin false 0 0

/-- An exact integer. -/
def FVal.ofInt (z : Int) : FVal := .fin (z < 0) z.natAbs 0

/-- The exact sum with the special cases of R182. -/
def FVal.add : FVal → FVal → FVal
  | .nan, _ => .nan
  | _, .nan => .nan
  | .inf a, .inf b => if a == b then .inf a else .nan
  | .inf a, _ => .inf a
  | _, .inf b => .inf b
  | .fin n1 m1 e1, .fin n2 m2 e2 =>
    let (a, b, e) := align m1 e1 m2 e2
    if n1 == n2 then .fin n1 (a + b) e
    else if a = b then .fin false 0 e
    else if a > b then .fin n1 (a - b) e
    else .fin n2 (b - a) e

/-- The exact product with the special cases of R182. -/
def FVal.mul : FVal → FVal → FVal
  | .nan, _ => .nan
  | _, .nan => .nan
  | .inf a, .inf b => .inf (a != b)
  | .inf a, .fin n m _ => if m = 0 then .nan else .inf (a != n)
  | .fin n m _, .inf b => if m = 0 then .nan else .inf (n != b)
  | .fin n1 m1 e1, .fin n2 m2 e2 => .fin (n1 != n2) (m1 * m2) (e1 + e2)

/-- IEEE order; −0 equals +0; `none` when an operand is NaN (R185). -/
def FVal.cmp : FVal → FVal → Option Ordering
  | .nan, _ => none
  | _, .nan => none
  | .inf a, .inf b => some (if a == b then .eq else if a then .lt else .gt)
  | .inf a, _ => some (if a then .lt else .gt)
  | _, .inf b => some (if b then .gt else .lt)
  | .fin n1 m1 e1, .fin n2 m2 e2 =>
    if m1 = 0 ∧ m2 = 0 then some .eq
    else if m1 = 0 then some (if n2 then .gt else .lt)
    else if m2 = 0 then some (if n1 then .lt else .gt)
    else if n1 != n2 then some (if n1 then .lt else .gt)
    else some (if n1 then (magCmp m1 e1 m2 e2).swap else magCmp m1 e1 m2 e2)

/-- Order of `fmin`, `fmax` and the reductions: −0 is less than +0 (R183, R193). -/
def FVal.lessTotal (x y : FVal) : Bool :=
  match x.cmp y with
  | some .lt => true
  | some .eq => x.isZero && y.isZero && x.neg? && !y.neg?
  | _ => false

/-! ### Rounding -/

/-- Exponent of the grid step at a magnitude (R39). -/
def Fmt.quantum (t : Fmt) (m : Nat) (e : Int) : Int :=
  let top := e + bitLen m - 1
  let emin : Int := 1 - (t.bias : Int)
  (if top < emin then emin else top) - t.p + 1

/-- The grid value nearest to a magnitude, ties to the even code (R40), as a multiple of 2^q. -/
def Fmt.gridRne (t : Fmt) (m : Nat) (e : Int) : Nat × Int :=
  let q := t.quantum m e
  if q ≤ e then (m * 2 ^ (e - q).toNat, q)
  else
    let r := (q - e).toNat
    let k := m / 2 ^ r
    let rem := m % 2 ^ r
    let odd := if t.p = 1 ∧ k = 1 then (q + t.bias) % 2 != 0 else k % 2 == 1
    if 2 * rem > 2 ^ r ∨ (2 * rem = 2 ^ r ∧ odd) then (k + 1, q) else (k, q)

/-- The grid value of greatest magnitude not above a magnitude (R43). -/
def Fmt.gridRtz (t : Fmt) (m : Nat) (e : Int) : Nat × Int :=
  let q := t.quantum m e
  if q ≤ e then (m * 2 ^ (e - q).toNat, q) else (m / 2 ^ (q - e).toNat, q)

/-- Whether a grid value lies above the largest finite value. -/
def Fmt.overflows (t : Fmt) (k : Nat) (q : Int) : Bool :=
  let (m, e) := t.magnitude t.maxCode
  magCmp k q m e == .gt

/-- The code of a sign and a magnitude code. -/
def Fmt.signed (t : Fmt) (neg : Bool) (mag : Nat) : Nat :=
  if neg && !t.uns then 2 ^ (t.size - 1) + mag else mag

/-- The code of a grid magnitude k × 2^q at or below the largest finite value. -/
def Fmt.gridCode (t : Fmt) (k : Nat) (q : Int) : Nat :=
  if k = 0 then 0
  else
    let (k, q) := if k = 2 ^ t.p then (2 ^ (t.p - 1), q + 1) else (k, q)
    if k < 2 ^ (t.p - 1) then k
    else (q + t.p - 1 + t.bias).toNat * 2 ^ (t.p - 1) + (k - 2 ^ (t.p - 1))

/-- A zero result keeps its sign in the IEEE formats only (R42, R43). -/
def Fmt.zeroCode (t : Fmt) (neg : Bool) : Nat := t.signed (neg && t.ieee) 0

/-- The code of an infinity (R31, R33). -/
def Fmt.infCode (t : Fmt) (neg : Bool) : Nat := t.signed neg (t.maxCode + 1)

/-- round_rne with the finish of R42. -/
def Fmt.rne (t : Fmt) (sat : Bool) : FVal → Nat
  | .nan => t.nanCode
  | .inf neg =>
    if sat then (if neg && t.uns then 0 else t.signed neg t.maxCode)
    else if t.hasInf && !(neg && t.uns) then t.infCode neg else t.nanCode
  | .fin neg m e =>
    let (k, q) := t.gridRne m e
    if k = 0 then t.zeroCode neg
    else if neg && t.uns then (if sat then 0 else t.nanCode)
    else if t.overflows k q then
      (if sat then t.signed neg t.maxCode
       else if t.hasInf then t.infCode neg else t.nanCode)
    else t.signed neg (t.gridCode k q)

/-- round_rtz with the finish of R43. -/
def Fmt.rtz (t : Fmt) : FVal → Nat
  | .nan => t.nanCode
  | .inf neg =>
    if neg && t.uns then 0
    else if t.hasInf then t.infCode neg else t.signed neg t.maxCode
  | .fin neg m e =>
    let (k, q) := t.gridRtz m e
    if k = 0 then t.zeroCode neg
    else if neg && t.uns then 0
    else if t.overflows k q then t.signed neg t.maxCode
    else t.signed neg (t.gridCode k q)

/-! ### Integers -/

/-- Least and greatest value of an integer type. -/
def IType.least (t : IType) : Int := if t.signed then -(2 ^ (t.width - 1) : Int) else 0

def IType.greatest (t : IType) : Int :=
  if t.signed then 2 ^ (t.width - 1) - 1 else 2 ^ t.width - 1

/-- Limit to the type's range (R41, R174). -/
def IType.clamp (t : IType) (z : Int) : Int :=
  if z < t.least then t.least else if z > t.greatest then t.greatest else z

/-- A magnitude rounded to an integer: nearest even, or toward zero. -/
def intMag (trunc : Bool) (m : Nat) (e : Int) : Nat :=
  if 0 ≤ e then m * 2 ^ e.toNat
  else
    let r := (-e).toNat
    let k := m / 2 ^ r
    let rem := m % 2 ^ r
    if trunc then k
    else if 2 * rem > 2 ^ r ∨ (2 * rem = 2 ^ r ∧ k % 2 = 1) then k + 1 else k

/-- Float to integer (R44, R190): NaN gives 0, an infinity the bound on its side. -/
def IType.ofFVal (t : IType) (trunc : Bool) : FVal → Int
  | .nan => 0
  | .inf neg => if neg then t.least else t.greatest
  | .fin neg m e => t.clamp (if neg then -(intMag trunc m e : Int) else intMag trunc m e)

/-! ### The functions of R188

Each returns an exact value that rounds as the true value does: rational results are exact, and
others carry a sticky bit below every rounding position. -/

/-- ⌊√n⌋ by `fuel` binary digits. -/
def isqrtAux (n : Nat) : Nat → Nat → Nat
  | 0, r => r
  | b + 1, r =>
    let c := r + 2 ^ b
    isqrtAux n b (if c * c ≤ n then c else r)

def isqrt (n : Nat) : Nat := isqrtAux n (bitLen n / 2 + 1) 0

/-- A floor with a sticky bit one place below it. -/
def sticky (neg : Bool) (k : Nat) (exact : Bool) (e : Int) : FVal :=
  .fin neg (2 * k + (if exact then 0 else 1)) (e - 1)

def FVal.rcp : FVal → FVal
  | .nan => .nan
  | .inf n => .fin n 0 0
  | .fin n m e =>
    if m = 0 then .inf n
    else
      let k := bitLen m + 40
      sticky n (2 ^ k / m) (2 ^ k % m == 0) (-e - k)

def FVal.sqrt : FVal → FVal
  | .nan => .nan
  | .inf n => if n then .nan else .inf false
  | .fin n m e =>
    if m = 0 then .fin n 0 0
    else if n then .nan
    else
      let s := 64 + (e % 2).toNat
      let r := isqrt (m * 2 ^ s)
      sticky false r (r * r == m * 2 ^ s) ((e - s) / 2)

def FVal.rsqrt : FVal → FVal
  | .nan => .nan
  | .inf n => if n then .nan else .fin false 0 0
  | .fin n m e =>
    if m = 0 then .inf n
    else if n then .nan
    else
      let k0 := bitLen m + 80
      let k := k0 + ((e + k0) % 2).toNat
      let r := isqrt (2 ^ k / m)
      sticky false r (r * r * m == 2 ^ k) ((-e - k) / 2)

/-- Fraction bits of the fixed-point functions (log 14, DESIGN CHOICE). -/
def fixBits : Nat := 320

def fixOne : Nat := 2 ^ fixBits

/-- Σ ± t^(2k+1)/(2k+1) by `n` terms, for t = 1/d: `alt` alternates the signs (arctan), else
artanh. -/
def invSeries (d : Nat) (alt : Bool) : Nat → Nat → Nat → Int → Int
  | 0, _, _, acc => acc
  | n + 1, k, pow, acc =>
    let term : Int := pow / (2 * k + 1)
    invSeries d alt n (k + 1) (pow / (d * d)) (if alt && k % 2 == 1 then acc - term else acc + term)

/-- π in fixed point (Machin). -/
def fixPi : Nat :=
  (16 * invSeries 5 true 72 0 (fixOne / 5) 0 - 4 * invSeries 239 true 24 0 (fixOne / 239) 0).toNat

/-- ln 2 in fixed point: 2 artanh(1/3). -/
def fixLn2 : Nat := (2 * invSeries 3 false 104 0 (fixOne / 3) 0).toNat

/-- Σ x^k/k! in fixed point for 0 ≤ x < 1. -/
def expSeries (x : Nat) : Nat → Nat → Nat → Nat → Nat
  | 0, _, _, acc => acc
  | n + 1, k, term, acc =>
    expSeries x n (k + 1) (term * x / fixOne / (k + 1)) (acc + term)

/-- e^x in fixed point for 0 ≤ x < 1. -/
def fixExp (x : Nat) : Nat := expSeries x 72 0 fixOne 0

/-- Σ (−1)^k x^(2k+1)/(2k+1)! in fixed point for 0 ≤ x < 2. -/
def sinSeries (x : Nat) : Nat → Nat → Nat → Int → Int
  | 0, _, _, acc => acc
  | n + 1, k, term, acc =>
    sinSeries x n (k + 1) (term * x / fixOne * x / fixOne / ((2 * k + 2) * (2 * k + 3)))
      (if k % 2 = 1 then acc - (term : Int) else acc + term)

/-- artanh(z) in fixed point for 0 ≤ z ≤ 1/3. -/
def artanhSeries (z2 : Nat) : Nat → Nat → Nat → Nat → Nat
  | 0, _, _, acc => acc
  | n + 1, k, pow, acc =>
    artanhSeries z2 n (k + 1) (pow * z2 / fixOne) (acc + pow / (2 * k + 1))

/-- An irrational result from its fixed-point value. -/
def fixVal (neg : Bool) (k : Nat) (e : Int) : FVal := sticky neg (k / 2 ^ 16) false (e - fixBits + 16)

def FVal.exp2 : FVal → FVal
  | .nan => .nan
  | .inf n => if n then .fin false 0 0 else .inf false
  | .fin n m e =>
    if m = 0 then .fin false 1 0
    else if e + bitLen m > 13 then .fin false 1 (if n then -8192 else 8192)
    else
      -- x = i + f with 0 ≤ f < 1, in fixed point
      let mag : Int := if 0 ≤ e then m * 2 ^ (e.toNat + fixBits)
        else m * 2 ^ (fixBits - (-e).toNat)
      let x : Int := if n then -mag else mag
      let i := x / fixOne
      let f := (x % fixOne).toNat
      if f = 0 then .fin false 1 i
      else fixVal false (fixExp (f * fixLn2 / fixOne)) i

def FVal.log2 : FVal → FVal
  | .nan => .nan
  | .inf n => if n then .nan else .inf false
  | .fin n m e =>
    if m = 0 then .inf true
    else if n then .nan
    else
      let l := bitLen m
      let i : Int := e + l - 1
      if m = 2 ^ (l - 1) then .ofInt i
      else
        -- y = m / 2^(l-1) in (1, 2); ln y = 2 artanh((y-1)/(y+1))
        let z := (m - 2 ^ (l - 1)) * fixOne / (m + 2 ^ (l - 1))
        let ln := 2 * artanhSeries (z * z / fixOne) 108 0 z 0
        let v : Int := i * fixOne + (ln * fixOne / fixLn2 : Nat)
        fixVal (v < 0) v.natAbs 0

def FVal.sinpi : FVal → FVal
  | .nan => .nan
  | .inf _ => .nan
  | .fin n m e =>
    if m = 0 ∨ 0 ≤ e then .fin n 0 0
    else
      let one := 2 ^ (-e).toNat
      let r := m % (2 * one)
      -- sin π(1 + f) = −sin πf; sin π(1 − f) = sin πf
      let neg := if r ≥ one then !n else n
      let f := if r ≥ one then r - one else r
      let f := if 2 * f > one then one - f else f
      if f = 0 then .fin n 0 0
      else if 2 * f = one then .fin neg 1 0
      else
        let x := f * fixPi / one
        fixVal neg (sinSeries x 56 0 x 0).toNat 0

def FVal.tanh : FVal → FVal
  | .nan => .nan
  | .inf n => .fin n 1 0
  | .fin n m e =>
    if m = 0 then .fin n 0 0
    else if e + bitLen m > 6 then .fin n (2 ^ 100 - 1) (-100)
    else if e + bitLen m < -40 then .fin n (m * 2 ^ 60 - 1) (e - 60)
    else
      -- u = 2x = k ln 2 + r; t = e^(−u) = 2^(−k) / e^r; tanh x = (1 − t) / (1 + t)
      let u : Nat := if 0 ≤ e then 2 * m * 2 ^ (e.toNat + fixBits)
        else 2 * m * 2 ^ fixBits / 2 ^ (-e).toNat
      let k := u / fixLn2
      let t := fixOne * fixOne / fixExp (u % fixLn2) / 2 ^ k
      fixVal n ((fixOne - t) * fixOne / (fixOne + t)) 0

end Sys2Proof
end

