-- ==== Sys2Proof/Machine/Operands.lean ====
section
/-! DEFINITION. What one lane computes: operand values and result extension (R169, R170), integer
arithmetic and logic (R173 to R181), floating arithmetic (R182 to R188), conversion and byte permute
(R189 to R191), reduction and selection over lanes (R193, R194), and atomic new values (R212). Each
value travels as 64 bits; a 32-bit register uses the low half. -/

namespace Sys2Proof

/-! ### Integer values -/

/-- val(x) of R169. -/
def IType.val (t : IType) (x : DWord) : Int :=
  let m := x.toNat % 2 ^ t.width
  if t.signed ∧ m ≥ 2 ^ (t.width - 1) then (m : Int) - 2 ^ t.width else m

/-- A result written under R169: the low w bits, extended to 32 when w < 32. -/
def IType.fit (t : IType) (r : Int) : DWord :=
  let m := (r % 2 ^ t.width).toNat
  if t.signed ∧ t.width < 32 ∧ m ≥ 2 ^ (t.width - 1) then BitVec.ofNat 64 (m + 2 ^ 32 - 2 ^ t.width)
  else BitVec.ofNat 64 m

/-- A result with the .sat variant of R174. -/
def IType.fitSat (t : IType) (sat : Bool) (r : Int) : DWord := t.fit (if sat then t.clamp r else r)

/-- The value of IMM32 (R170). -/
def IType.imm (t : IType) (w : Word) : DWord :=
  if t.width = 64 ∧ t.signed then w.signExtend 64 else w.zeroExtend 64

/-- Low w bits as an unsigned number. -/
def IType.bits (t : IType) (x : DWord) : Nat := x.toNat % 2 ^ t.width

/-! ### Integer operations (R173 to R181) -/

def laneAdd (t : IType) (sat : Bool) (a b : DWord) : DWord := t.fitSat sat (t.val a + t.val b)
def laneSub (t : IType) (sat : Bool) (a b : DWord) : DWord := t.fitSat sat (t.val a - t.val b)
def laneMul (t : IType) (a b : DWord) : DWord := t.fit (t.val a * t.val b)
def laneMulhi (t : IType) (a b : DWord) : DWord := t.fit (t.val a * t.val b / 2 ^ t.width)
def laneMad (t : IType) (sat : Bool) (a b c : DWord) : DWord :=
  t.fitSat sat (t.val a * t.val b + t.val c)
def laneMin (t : IType) (a b : DWord) : DWord :=
  t.fit (if t.val a ≤ t.val b then t.val a else t.val b)
def laneMax (t : IType) (a b : DWord) : DWord :=
  t.fit (if t.val a ≤ t.val b then t.val b else t.val a)
def laneAbs (t : IType) (sat : Bool) (a : DWord) : DWord := t.fitSat sat (t.val a).natAbs
def laneNeg (t : IType) (sat : Bool) (a : DWord) : DWord := t.fitSat sat (-t.val a)

def laneAnd (t : IType) (a b : DWord) : DWord := t.fit (a &&& b).toNat
def laneOr (t : IType) (a b : DWord) : DWord := t.fit (a ||| b).toNat
def laneXor (t : IType) (a b : DWord) : DWord := t.fit (a ^^^ b).toNat
def laneNot (t : IType) (a : DWord) : DWord := t.fit (~~~a).toNat
def laneAndn (t : IType) (a b : DWord) : DWord := t.fit (a &&& ~~~b).toNat

/-- The shift amount of R179. -/
def shiftAmt (b : DWord) : Nat := b.toNat % 256

def laneShl (t : IType) (a b : DWord) : DWord :=
  let s := shiftAmt b
  if s ≥ t.width then 0 else t.fit (t.bits a * 2 ^ s : Nat)
def laneShr (t : IType) (a b : DWord) : DWord :=
  let s := shiftAmt b
  if s ≥ t.width then 0 else t.fit (t.bits a / 2 ^ s : Nat)
def laneSar (t : IType) (a b : DWord) : DWord :=
  let s := shiftAmt b
  t.fit (t.val a / 2 ^ (if s ≥ t.width then t.width else s))
def laneRot (t : IType) (a b : DWord) : DWord :=
  let s := shiftAmt b % t.width
  t.fit (t.bits a * 2 ^ s + t.bits a / 2 ^ (t.width - s) : Nat)

/-- pos and n of a control word (R180). -/
def ctrlField (t : IType) (ctrl : DWord) : Nat × Nat :=
  let pos := ctrl.toNat % 256
  let len := ctrl.toNat / 256 % 256
  (pos, if pos < t.width then Nat.min len (t.width - pos) else 0)

def laneBfe (t : IType) (a ctrl : DWord) : DWord :=
  let (pos, n) := ctrlField t ctrl
  if n = 0 then 0
  else
    let f := t.bits a / 2 ^ pos % 2 ^ n
    t.fit (if t.signed ∧ f ≥ 2 ^ (n - 1) then (f : Int) - 2 ^ n else f)
def laneBfi (t : IType) (a b ctrl : DWord) : DWord :=
  let (pos, n) := ctrlField t ctrl
  let m := (2 ^ n - 1) * 2 ^ pos
  t.fit ((a &&& ~~~(BitVec.ofNat 64 m)) ||| BitVec.ofNat 64 (b.toNat % 2 ^ n * 2 ^ pos)).toNat

/-- Number of set bits below bit `w`. -/
def popCount (x : Nat) : Nat → Nat
  | 0 => 0
  | w + 1 => popCount x w + x / 2 ^ w % 2

def laneBcnt (t : IType) (a : DWord) : DWord := BitVec.ofNat 64 (popCount (t.bits a) t.width)
def laneClz (t : IType) (a : DWord) : DWord := BitVec.ofNat 64 (t.width - bitLen (t.bits a))

/-- Bits 0 to w−1 in reverse order. -/
def revBits (x : Nat) : Nat → Nat
  | 0 => 0
  | w + 1 => 2 * revBits x w + x / 2 ^ w % 2

def laneBrev (t : IType) (a : DWord) : DWord :=
  t.fit (revBits (t.bits a) t.width : Nat)

/-- R175. -/
def laneDiv (t : IType) (a b : DWord) : DWord :=
  if t.val b = 0 then t.fit (-1) else t.fit ((t.val a).tdiv (t.val b))
def laneRem (t : IType) (a b : DWord) : DWord :=
  if t.val b = 0 then t.fit (t.val a) else t.fit ((t.val a).tmod (t.val b))

/-! ### Floating operations -/

def FFmt.packed : FFmt → Bool
  | .bf16x2 | .f16x2 => true
  | _ => false

/-- The codes of an operand's elements (R169, R37). -/
def FFmt.elems (f : FFmt) (x : DWord) : List Nat :=
  if f.packed then [x.toNat % 2 ^ 16, x.toNat / 2 ^ 16 % 2 ^ 16]
  else [x.toNat % 2 ^ f.fmt.size]

/-- A register from its elements' codes. -/
def FFmt.join : List Nat → DWord
  | [a] => BitVec.ofNat 64 a
  | [a, b] => BitVec.ofNat 64 (a + b * 2 ^ 16)
  | _ => 0

def FFmt.map1 (f : FFmt) (op : Nat → Nat) (a : DWord) : DWord := FFmt.join ((f.elems a).map op)
def FFmt.map2 (f : FFmt) (op : Nat → Nat → Nat) (a b : DWord) : DWord :=
  FFmt.join (List.zipWith op (f.elems a) (f.elems b))
def FFmt.map3 (f : FFmt) (op : Nat → Nat → Nat → Nat) (a b c : DWord) : DWord :=
  FFmt.join (List.zipWith (fun g z => g z) (List.zipWith op (f.elems a) (f.elems b)) (f.elems c))

def Fmt.addCodes (t : Fmt) (a b : Nat) : Nat := t.rne false ((t.decode a).add (t.decode b))
def Fmt.subCodes (t : Fmt) (a b : Nat) : Nat := t.rne false ((t.decode a).add (t.decode b).negate)
def Fmt.mulCodes (t : Fmt) (a b : Nat) : Nat := t.rne false ((t.decode a).mul (t.decode b))
def Fmt.fmaCodes (t : Fmt) (a b c : Nat) : Nat :=
  t.rne false (((t.decode a).mul (t.decode b)).add (t.decode c))

/-- R183: the lesser operand; the other one when exactly one is NaN. -/
def Fmt.minCodes (t : Fmt) (a b : Nat) : Nat :=
  match (t.decode a).isNan, (t.decode b).isNan with
  | true, true => t.nanCode
  | true, false => b
  | false, true => a
  | false, false => if (t.decode b).lessTotal (t.decode a) then b else a
def Fmt.maxCodes (t : Fmt) (a b : Nat) : Nat :=
  match (t.decode a).isNan, (t.decode b).isNan with
  | true, true => t.nanCode
  | true, false => b
  | false, true => a
  | false, false => if (t.decode a).lessTotal (t.decode b) then b else a

def laneFadd (f : FFmt) (a b : DWord) : DWord := f.map2 f.fmt.addCodes a b
def laneFsub (f : FFmt) (a b : DWord) : DWord := f.map2 f.fmt.subCodes a b
def laneFmul (f : FFmt) (a b : DWord) : DWord := f.map2 f.fmt.mulCodes a b
def laneFma (f : FFmt) (a b c : DWord) : DWord := f.map3 f.fmt.fmaCodes a b c
def laneFmin (f : FFmt) (a b : DWord) : DWord := f.map2 f.fmt.minCodes a b
def laneFmax (f : FFmt) (a b : DWord) : DWord := f.map2 f.fmt.maxCodes a b

/-- R184: bit operations on the sign. -/
def laneFabs (f : FFmt) (a : DWord) : DWord := f.map1 (· % 2 ^ (f.fmt.size - 1)) a
def laneFneg (f : FFmt) (a : DWord) : DWord := f.map1 (· ^^^ 2 ^ (f.fmt.size - 1)) a

/-- The class mask of R186. -/
def Fmt.classMask (t : Fmt) (code : Nat) : Nat :=
  match t.decode code with
  | .nan => 1
  | .inf neg => if neg then 2 else 256
  | .fin neg m _ =>
    if m = 0 then (if neg then 16 else 32)
    else if m < 2 ^ (t.p - 1) then (if neg then 8 else 64)
    else (if neg then 4 else 128)

def laneFclass (f : FFmt) (a : DWord) : DWord := f.map1 f.fmt.classMask a

/-- A function of R188 on each element. -/
def laneFunc (fn : FVal → FVal) (f : FFmt) (a : DWord) : DWord :=
  f.map1 (fun c => f.fmt.rne false (fn (f.fmt.decode c))) a

/-- R187. -/
def laneDot2 (f : FFmt) (a b c : DWord) : DWord :=
  let ps := List.zipWith (fun x y => (f.fmt.decode x).mul (f.fmt.decode y)) (f.elems a) (f.elems b)
  match ps with
  | [p, q] => BitVec.ofNat 64 (fmtF32.rne false ((p.add q).add (fmtF32.decode (c.toNat % 2 ^ 32))))
  | _ => 0

/-! ### Conversion (R189, R190) -/

/-- The floating format of a code that is not an integer one. -/
def NFmt.fmt : NFmt → Fmt
  | .bf16 => fmtBf16
  | .f16 => fmtF16
  | .b8 uns inf p => fmtB8 uns inf (p.val + 1)
  | _ => fmtF32

/-- s8 and n8 act exactly as .s8 and .n8 (R189). -/
def CvtType.norm : CvtType → CvtType
  | .flt .s8 => .int .s8
  | .flt .n8 => .int .n8
  | t => t

def laneCvt (dst src : CvtType) (sat trunc : Bool) (a : DWord) : DWord :=
  match dst.norm, src.norm with
  | .flt d, .flt s => BitVec.ofNat 64 (d.fmt.rne sat (s.fmt.decode a.toNat))
  | .int t, .flt s => t.fit (t.ofFVal trunc (s.fmt.decode a.toNat))
  | .flt d, .int t => BitVec.ofNat 64 (d.fmt.rne sat (FVal.ofInt (t.val a)))
  | .int t, .int u => t.fitSat sat (u.val a)

/-! ### Byte permute (R191) -/

def prmbByte (nib : Bool) (a b : Nat) (s : Nat) : Nat :=
  if nib then
    let n := a / 16 ^ (s % 8) % 16
    if s ≥ 8 ∧ n ≥ 8 then n + 240 else n
  else
    let k := s % 8
    let x := (if k < 4 then a / 256 ^ k else b / 256 ^ (k - 4)) % 256
    if s ≥ 8 then (if x ≥ 128 then 255 else 0) else x

def lanePrmb (nib : Bool) (a b c : DWord) : DWord :=
  BitVec.ofNat 64 ((List.range 4).foldr
    (fun k acc => prmbByte nib (a.toNat % 2 ^ 32) (b.toNat % 2 ^ 32) (c.toNat / 16 ^ k % 16)
      + 256 * acc) 0)

/-! ### Lane exchange and reduction -/

/-- The source lane of R192. -/
def shflLane (mode : ShflMode) (l t : Nat) : Nat :=
  match mode with
  | .idx => t
  | .up => if t ≤ l then l - t else l
  | .down => if l + t ≤ 31 then l + t else l
  | .xor => l ^^^ t

/-- The integer or floating format of a reduction type. -/
def RedType.kind : RedType → IType ⊕ Fmt
  | .s32 => .inl .s32
  | .n32 => .inl .n32
  | .s64 => .inl .s64
  | .n64 => .inl .n64
  | .f32 => .inr fmtF32
  | .bf16 => .inr fmtBf16
  | .f16 => .inr fmtF16

/-- Least (`max` false) or greatest element by R183's order, NaN passed over (R193). -/
def Fmt.extreme (t : Fmt) (max : Bool) (xs : List Nat) : Nat :=
  match xs.filter (fun c => !(t.decode c).isNan) with
  | [] => t.nanCode
  | c :: cs => cs.foldl (if max then t.maxCodes else t.minCodes) c

/-- The combination of R193 over the elements in ascending lane order. -/
def redCombine (ty : RedType) (op : RedOp) (xs : List DWord) : DWord :=
  match ty.kind, op with
  | .inl t, .add => t.fit ((xs.map t.val).foldl (· + ·) 0)
  | .inl t, .min => t.fit ((xs.map t.val).foldl (fun a b => if b < a then b else a) t.greatest)
  | .inl t, .max => t.fit ((xs.map t.val).foldl (fun a b => if a < b then b else a) t.least)
  | .inr t, .add =>
    (match xs.map (fun x => t.decode x.toNat) with
     | [] => 0
     | v :: vs => BitVec.ofNat 64 (t.rne false (vs.foldl FVal.add v)))
  | .inr t, .min =>
    if xs.isEmpty then BitVec.ofNat 64 (t.infCode false)
    else BitVec.ofNat 64 (t.extreme false (xs.map (fun x => x.toNat % 2 ^ t.size)))
  | .inr t, .max =>
    if xs.isEmpty then BitVec.ofNat 64 (t.infCode true)
    else BitVec.ofNat 64 (t.extreme true (xs.map (fun x => x.toNat % 2 ^ t.size)))

/-- Strictly earlier in the order of R194: largest first, or smallest first under `.min`; NaN keys
last in either direction. -/
def topkBefore (ty : RedType) (min : Bool) (x y : DWord) : Bool :=
  match ty.kind with
  | .inl t => if min then t.val x < t.val y else t.val y < t.val x
  | .inr t =>
    match (t.decode x.toNat).cmp (t.decode y.toNat) with
    | some .lt => min
    | some .gt => !min
    | some .eq => false
    | none => !(t.decode x.toNat).isNan && (t.decode y.toNat).isNan

/-- Position of lane `l` among the active lanes (R194). Two NaN keys stand by ascending lane (log 76, DESIGN CHOICE). -/
def topkRank (ty : RedType) (min : Bool) (act : List Nat) (key : Nat → DWord) (l : Nat) : Nat :=
  (act.filter (fun m => topkBefore ty min (key m) (key l) ||
    (!topkBefore ty min (key l) (key m) && m < l))).length

/-- The value lane `l` receives from `topk` (R194). -/
def topkLane (ty : RedType) (min rank : Bool) (k : Nat) (act : List Nat) (key : Nat → DWord)
    (l : Nat) : DWord :=
  if rank then
    let r := topkRank ty min act key l
    if r < k then BitVec.ofNat 64 r else 0xFFFFFFFF
  else
    let j := (act.filter (· < l)).length
    match act.find? (fun m => topkRank ty min act key m == j) with
    | some m => if j < k then BitVec.ofNat 64 m else 0xFFFFFFFF
    | none => 0xFFFFFFFF

/-! ### Atomics (R212) -/

/-- The new value of an atomic on a 32- or 64-bit word; `c` is the new value of `.cas`. -/
def AtomOp.apply (op : AtomOp) (w64 : Bool) (old b c : Nat) : Nat :=
  let sv (x : Nat) : Int := (if w64 then IType.s64 else .s32).val (BitVec.ofNat 64 x)
  let size := if w64 then 64 else 32
  match op with
  | .add => (old + b) % 2 ^ size
  | .minS => if sv b < sv old then b else old
  | .minN => if b < old then b else old
  | .maxS => if sv old < sv b then b else old
  | .maxN => if old < b then b else old
  | .and => old &&& b
  | .or => old ||| b
  | .xor => old ^^^ b
  | .exch => b
  | .cas => if old = b then c else old
  | .inc => if old ≥ b then 0 else old + 1
  | .addF32 => (laneFadd .f32 (BitVec.ofNat 64 old) (BitVec.ofNat 64 b)).toNat
  | .addBf16x2 => (laneFadd .bf16x2 (BitVec.ofNat 64 old) (BitVec.ofNat 64 b)).toNat
  | .addF16x2 => (laneFadd .f16x2 (BitVec.ofNat 64 old) (BitVec.ofNat 64 b)).toNat

end Sys2Proof
end

