-- ==== Sys2Proof/Machine/Flags.lean ====
section
/-! DEFINITION. The predicate results of the UH-576: comparisons (R177, R185), carry and borrow
(R176), and the votes over a path's lanes (R163). The device keeps no other arithmetic flag (R35,
R171). -/

namespace Sys2Proof

/-- `cmp` (R177): `.b` types compare as unsigned values. -/
def ICond.test (c : ICond) (t : IType) (a b : DWord) : Bool :=
  let x := t.val a
  let y := t.val b
  match c with
  | .eq => x == y
  | .ne => x != y
  | .lt => x < y
  | .le => x ≤ y
  | .gt => x > y
  | .ge => x ≥ y

/-- `fcmp` (R185). -/
def FCond.test (c : FCond) (f : FFmt) (a b : DWord) : Bool :=
  match (f.fmt.decode a.toNat).cmp (f.fmt.decode b.toNat), c with
  | none, .ne => true
  | none, .un => true
  | none, _ => false
  | some o, .eq => o == .eq
  | some o, .ne => o != .eq
  | some o, .lt => o == .lt
  | some o, .le => o != .gt
  | some o, .gt => o == .gt
  | some o, .ge => o != .lt
  | some _, .un => false
  | some _, .ord => true

/-- `addc` (R176): the sum and the carry out. -/
def laneAddc (t : IType) (a b : DWord) (c : Bool) : DWord × Bool :=
  let s : Int := t.val a + t.val b + (if c then 1 else 0)
  (t.fit s, s ≥ 2 ^ t.width)

/-- `subc` (R176): the difference and the borrow. -/
def laneSubc (t : IType) (a b : DWord) (c : Bool) : DWord × Bool :=
  let s : Int := t.val a - t.val b - (if c then 1 else 0)
  (t.fit s, s < 0)

/-- `vote.ballot`: the lanes of the path whose predicate is true (R163). -/
def voteBallot (m p : Mask) : Word := m &&& p

/-- `vote.any` (R163). -/
def voteAny (m p : Mask) : Bool := m &&& p != 0

/-- `vote.all` (R163). -/
def voteAll (m p : Mask) : Bool := m &&& ~~~p == 0

/-- `vote.eq` over the lanes' values (R163). -/
def voteEq (xs : List Word) : Bool :=
  match xs with
  | [] => true
  | x :: xs => xs.all (· == x)

end Sys2Proof
end

