-- ==== Sys2Proof/Machine/SMap.lean ====
section
/-! DEFINITION. Operations on canonical sparse maps: keys strictly rising, and no entry equal to
what an unlisted key reads as. -/

namespace Sys2Proof

/-- The entry of a key, if listed. -/
def SMap.find? {α : Type} : SMap α → Nat → Option α
  | [], _ => none
  | (k, v) :: m, x => if x = k then some v else SMap.find? m x

/-- The value of a key; `d` for an unlisted one. -/
def SMap.get {α : Type} (d : α) (m : SMap α) (x : Nat) : α := (m.find? x).getD d

/-- Remove a key. -/
def SMap.del {α : Type} (m : SMap α) (x : Nat) : SMap α := m.filter (fun e => e.1 != x)

/-- Insert an entry before the first greater key. -/
def SMap.ins {α : Type} : SMap α → Nat → α → SMap α
  | [], x, w => [(x, w)]
  | (k, v) :: m, x, w => if x < k then (x, w) :: (k, v) :: m else (k, v) :: SMap.ins m x w

/-- Enter a key. -/
def SMap.put {α : Type} (m : SMap α) (x : Nat) (w : α) : SMap α := (m.del x).ins x w

/-- Set a key: writing the default removes the entry. -/
def SMap.set {α : Type} [DecidableEq α] (d : α) (m : SMap α) (x : Nat) (w : α) : SMap α :=
  if w = d then m.del x else m.put x w

/-- Keys strictly rising above a bound. -/
def SMap.risingFrom {α : Type} : Nat → SMap α → Bool
  | _, [] => true
  | b, (k, _) :: m => b < k && SMap.risingFrom k m

def SMap.rising {α : Type} : SMap α → Bool
  | [] => true
  | (k, _) :: m => SMap.risingFrom k m

/-- The canonical form for default `d`. -/
def SMap.wf {α : Type} [DecidableEq α] (d : α) (m : SMap α) : Bool :=
  m.rising && m.all (fun e => e.2 != d)

/-- Drop every key from `lo` to `lo + n - 1`. -/
def SMap.clear {α : Type} (m : SMap α) (lo n : Nat) : SMap α :=
  m.filter (fun e => e.1 < lo || lo + n ≤ e.1)

end Sys2Proof
end

