-- ==== Sys2Proof/Machine/State.lean ====
section
/-! DEFINITION. The state of the UH-576 as plain data: time and the schedule, storage, contexts,
queues, launches, crews, groups, accesses in flight, and the device's own units. -/

namespace Sys2Proof.Machine

/-! ### Names -/

/-- Trap, fault and status codes (R265). -/
inductive Code where
  | illegalOpcode | reservedNonzero | illegalOperand | lookaheadConflict | misalignedTarget
  | illegalConvergence | privileged | padNonzero | userTrap | brk
  | pageFault | privateLimit | misaligned | misalignedAtomic | spaceBounds | windowFault
  | protection
  | tileOverread | tileStale | tileAbandoned | poolPartition | cellOverflow | barrierCount
  | reorderNonuniform | reorderKeyRange | watchdog | queueHandle
  | matrixMetaPoison | matrixFormat | matrixReservation
  | linkOverflow | linkDown | tagRange
  | queueTorn | deadlineMissed | dependenceOverflow
  | containmentKill | softErrorUncorrected
  /-- A number that R265 does not list, which an ordinary store has put into a cell's FAULT (R204, R208). -/
  | unlisted (n : BitVec 8)
deriving DecidableEq, Repr

/-- Context states, in the order of R251. -/
inductive CtxState where
  | free | idle | resident | saving | saved | killing | killed
deriving DecidableEq, Repr

/-- Queue states, in the order of R268. -/
inductive QState where
  | disabled | idle | reading | stopped | held
deriving DecidableEq, Repr

/-! ### Accesses in flight -/

/-- Where an access is performed: in the L1 at issue, at a scratch SRAM bank, at a home slice (by a
request), at a peer's ingress port, in the Waent adapter, or in device-register space. -/
inductive Via where
  | l1
  | bank
  | slice (n : Nat)
  | peer (dev : Nat)
  | host
  | reg
deriving DecidableEq, Repr

/-- Who accesses or holds a reservation: a thread, or a group for G=1 (R214). -/
inductive Owner where
  | thread (ctx : Nat) (wid : Nat)
  | group (ctx : Nat) (gval : Nat)
deriving DecidableEq, Repr

/-- One access of at most 16 bytes of one lane (R52). `key` is its storage key (`Ops`). -/
structure Part where
  lane : Nat
  /-- The thread, or the group for G=1, that accesses (R214). -/
  who : Owner
  /-- Position of the part in its instruction's register run or element list. -/
  idx : Nat
  /-- Counter path on which the access lies (R69, R70). -/
  path : Nat
  key : Nat
  size : Nat
  via : Via
  /-- Store data, or the operand of an atomic. -/
  b : Nat
  /-- New value of `.cas`. -/
  c : Nat
  /-- Bytes read, once known. -/
  got : Option Nat
  /-- Bytes of `got` that come from the store buffer (R82): byte mask and bytes. -/
  fwdMask : Nat
  fwd : Nat
  /-- Performed, and for a store acknowledged. -/
  done : Bool
  /-- Write completion time returned (R80). -/
  tw : Nat
  /-- Complete at system scope (R83); true at once for local storage. -/
  sysDone : Bool
  /-- Order number of its service at the home (model's own). -/
  stamp : Nat
deriving DecidableEq, Repr

/-- Destination registers of an operation: `regs` registers per lane from register code `reg`, and
how a value is extended (R169). -/
structure Dest where
  g : Bool
  reg : Nat
  regs : Nat
  /-- Access width in bytes and sign extension to 32 bits. -/
  width : Nat
  sext : Bool
  lanes : Mask
deriving DecidableEq, Repr

/-- A completion cell, by the storage key of its first byte (R204), with its cluster, core and space. -/
structure CellRef where
  key : Nat
  cluster : Nat
  core : Nat
  /-- The cell lies in .k. -/
  k : Bool
  /-- The offset that the program named. -/
  off : Nat
deriving DecidableEq, Repr

/-- A tile of a crew's partition (R352). -/
structure TileRef where
  kid : Nat
  crew : Nat
  pool : Nat
  index : Nat
  gen : Nat
deriving DecidableEq, Repr

/-- One lane's copy in a `cpa`: source and destination keys of one image each, and transfer number.
`dst` lists every image (R203). -/
structure Copy where
  lane : Nat
  xfer : Nat
  src : Nat
  dst : List Nat
  size : Nat
  /-- Offset by which the chunk is found: address bits [31:0], or the offset in .h (R205). -/
  chunkAddr : Nat
  chunkOff : Bool
  /-- Source bytes, once read (R53). -/
  got : Option Nat
  tileSrc : Option TileRef
  tileDst : Option TileRef
deriving DecidableEq, Repr

/-- A region that an engine operation addresses as it runs: space, first address or offset, and the
team whose .c window it uses. -/
structure Region where
  space : Space
  base : Nat
  team : Nat
deriving DecidableEq, Repr

/-- What an operation does; the engine kinds are forked threads (R90). -/
inductive OpKind where
  | load (dest : Dest) (consume : List TileRef)
  | store
  | atom (op : AtomOp) (w64 : Bool) (dest : Option Dest)
  | ldr (dest : Dest) (g : Bool)
  | stc (dest : Dest) (g : Bool)
  | writeback
  | kick (ctx q : Nat) (v : Nat)
  | tlsig (set : Bool) (v : Nat)
  /-- Transfers not performed, and those performed whose T_w is awaited, with it (R92). -/
  | cpa (cell : CellRef) (copies : List Copy) (left : List Nat) (wrote : List (Nat × Nat))
  /-- `entries` are metadata entries to push once `written`. -/
  | bcomp (cell : CellRef) (src dst : Region) (steps : Nat) (big two : Bool) (q : Nat)
      (written : Bool) (entries : List Nat) (packed : Nat) (code : Option Code)
  /-- Lanes whose translation is still awaited, with their addresses (R215, R377). -/
  | prefetch (todo : List (Nat × Nat))
  | mqinit (q : Nat) (key : List Nat) (next : Nat)
  /-- Elements once read, storage keys of the parts of each image, and parts (or images) not yet
  written. -/
  | mdrain (z : Nat) (fmt : NFmt) (add : Bool) (data : Option (List Nat)) (images : List (List Nat))
      (left : List Nat) (tile : Option TileRef)
  | mload (z : Nat) (fmt : NFmt) (keys : List Nat) (tile : Option TileRef)
  /-- Buffer and length of the payload, and where its packet is: none while it is here, the port by which it
  left, 10 beyond the next device, 11 when the destination has answered. -/
  | msend (buf : Region) (len : Nat) (gone : Option Nat)
  | mrecv (rid : Nat)
  | ratom (op : AtomOp) (w64 : Bool) (dest : Option Dest)
  | barRemote (crew : Nat) (team : Option Nat) (b count lanes : Nat)
deriving DecidableEq, Repr

/-- An instruction's accesses in flight, or a forked engine operation. -/
structure Op where
  id : Nat
  ctx : Nat
  gid : GroupId
  /-- GROUP value of the issuing group: the slot may be reused while an engine operation runs. -/
  gval : Word
  kid : Nat
  crew : Nat
  wid : Nat
  pc : DWord
  kind : OpKind
  parts : List Part
  /-- Counter paths on which it counts (R69, R70). -/
  paths : List Nat
  /-- Tiles whose ADM it raised (R354). -/
  admitted : List TileRef
  /-- Stores of the group issued before it, which must be acknowledged first (R90). -/
  after : Nat
  /-- Largest T_w of its own writes (R92). -/
  tw : Nat
  /-- Lowest WID that the group held when it issued (R460). -/
  low : Nat := 0
deriving DecidableEq, Repr

/-- A request of one cluster to one slice (R19): the parts of one operation in one line. -/
structure Req where
  id : Nat
  cluster : Nat
  core : Nat
  slice : Nat
  op : Nat
  line : Nat
  parts : List Nat
  sent : Bool
  mark : Bool
  /-- Lease class of the page (R67). -/
  lease : Nat
  /-- The link by which a request to a peer (96) or to the host (97) left: a stitch port, 8 and 9 for the
  Waent links, 10 beyond the next device (R389). -/
  link : Option Nat
  /-- The request of an engine transfer waits in the coalescer (R311). -/
  waiting : Bool
  /-- The peer's reply packet has come (R391). -/
  back : Bool
  /-- Class in which its packet left (R393, R395). -/
  cls : Nat := 0
deriving DecidableEq, Repr

/-- How an L1 line is held (R62, R67, R79). -/
inductive LineKind where
  | leased (expiry grant : Nat)
  | class6 (grant : Nat)
  | priv (ctx : Nat)
deriving DecidableEq, Repr

/-- One line of one core's L1: bytes by offset, with masks of the bytes held and dirty. -/
structure L1Line where
  cluster : Nat
  core : Nat
  line : Nat
  kind : LineKind
  /-- Context that fetched it, and order number of its service (model's own). -/
  ctx : Nat
  stamp : Nat
  bytes : SMap Byte
  valid : Nat
  dirty : Nat
  /-- Order number of the own access whose bytes stand at an offset, where it is later than the grant (model's
  own) (R77). -/
  stamps : SMap Nat := []
  /-- Kernel whose private words it holds (R62). -/
  kid : Nat := 0
deriving DecidableEq, Repr

structure Reservation where
  owner : Owner
  key : Nat
  w64 : Bool
  /-- Core clock of the `ldr`. -/
  clock : Nat
deriving DecidableEq, Repr

/-- An entry of a core's cell table (R205): byte counts per chunk. -/
structure CellEntry where
  kid : Nat
  cluster : Nat
  core : Nat
  key : Nat
  counts : SMap Nat
deriving DecidableEq, Repr

/-! ### Groups -/

/-- The thread of a lane (R284, R285): its WID, home slot, team, and what the team's placement gives
it; and its reorder record (R335). -/
structure Thread where
  wid : Nat
  home : Nat
  team : Nat
  /-- Home core of its team (R57). -/
  homeCore : Nat
  tkey : Word
  src : Word
  rank : Word
  /-- Arrivals at `reorder` made so far (R317). -/
  arrivals : Nat
deriving DecidableEq, Repr

/-- Where a path stands (R145): a program-counter slot, the fragment queue under a record number,
in the split table or spilled (R301, R305), or, detached by a `brd` on this clock, not yet in the queue
(R304). -/
inductive Place where
  | slot (n : Fin 2)
  | queued (record : Nat) (spilled : Bool)
  | detached
deriving DecidableEq, Repr

/-- A register window (R137): registers named, their values before the long-latency instruction, and
instructions left. `op` is the pending operation, or none when the result is already written. -/
structure Window where
  op : Option Nat
  left : Nat
  regs : List Nat
  old : SMap Word
deriving DecidableEq, Repr

/-- Wait in which a path stands; its instruction is evaluated again when the wait is over. Conditions
that only delay an issue (R138, R84, R70, R307, R308) are tested at issue and leave no wait here. -/
inductive Park where
  | rcv (tok : Fin 16)
  | safept (live : Word)
  | cell (c : CellRef) (phase : Bool) (mask : Option Nat) (ext : Bool)
  /-- Lanes whose pending arrivals are waited for (R345). -/
  | bar (b : Nat) (crew : Bool) (lanes : Mask)
  /-- Pool, reads, and the tile that has been granted (R359, R360). -/
  | talloc (pool n : Nat) (tile : Option Nat)
  | qpop (q : Nat)
  /-- Storage key of the word, none below 2^64 where it is to be translated again, its virtual address, and the
  threshold, 0 once released (R276, R279). -/
  | tlwait (key va thr : Nat) (ext sys : Bool) (deadline : Option Nat)
  | mwaitr (rid : Nat) (ext : Bool) (deadline : Option Nat)
  | mrecv
  | trace
  /-- In a `yield`, and the clock from which its path is eligible again (R158). -/
  | yield (till : Nat)
  /-- At `reorder`, before its arrival (R321). -/
  | reorder (f : ReorderForm)
  /-- Translation walks awaited: virtual page numbers (R377). -/
  | walk (pages : List Nat)
  /-- The walk for an instruction fetch (R126, R377). -/
  | fetch (page : Nat)
  /-- Fault records awaited from the host (R380): pages not yet recorded (page, level, kind of access), every page
  waited on, and TIME of the fault. -/
  | hostFault (todo : List (Nat × Nat × Nat)) (pages : List Nat) (time : Nat)
  | mres (mask : BitVec 4)
  /-- A full reservation table, or the ninth entry (R221). -/
  | table (ninth : Bool)
  /-- qpush, qmc: handle and reserved places (queue, slot number) (R365). -/
  | push (upTo : Nat) (handle : Word) (places : List (Nat × Nat))
  | barArrive (upTo : Nat) (b : Nat) (crew : Bool) (lanes : Mask) (cnt : Option Nat) (sync : Bool)
  | launch (upTo : Nat) (sys : Bool) (ctx q v : Nat)
  | tlsig (upTo : Nat) (sys set : Bool) (va key v : Nat)
  | bindw (upTo : Nat) (slot : Nat) (bind : Option (Nat × Nat × Nat × Nat))
deriving DecidableEq, Repr

/-- A live path (R145). -/
structure Path where
  id : Nat
  pc : DWord
  mask : Mask
  /-- Return addresses, top first (R147). -/
  stack : List DWord
  place : Place
  /-- Detach TIME (R301). -/
  dtime : Nat
  park : Option Park
  windows : List Window
  /-- Translations that failed for the stalled instruction: page, level, and whether the host has
  answered FAIL (R377, R380). -/
  failed : List (Nat × Nat × Bool)
  /-- The instruction's tlwait or mwaitr timeout has passed. -/
  timedOut : Bool
  /-- Record number that a fragment keeps while it stands in a slot (R305). -/
  kept : Option Nat := none
  /-- The end of its wait has been recorded (R415). -/
  woken : Bool := false
  /-- The instruction's own wait, to which it goes back when it waits for a translation meanwhile (R377). -/
  resume : Option Park := none
deriving DecidableEq, Repr

/-- The handler frame (R154, R155). -/
structure Frame where
  paths : List Path
  tokE : SMap Mask
  tokW : SMap Mask
deriving DecidableEq, Repr

/-- A fence that has issued and not completed (R84 to R88). -/
structure Fence where
  id : Nat
  rel : Bool
  acq : Bool
  sc : Bool
  scope : Scope
  /-- Operations of the group below this id precede it. -/
  upTo : Nat
deriving DecidableEq, Repr

/-- One issued instruction that counts on a path (R70). -/
structure Flight where
  path : Nat
  op : Nat
  done : Bool
deriving DecidableEq, Repr

/-- A trap or vectoring that a group is taking (R259): it waits for the group's accesses. -/
structure TrapReq where
  path : Option Nat
  code : Option Code
  lane : Nat
  kind : Nat
  detail : Nat
  space : Nat
  va : Nat
  pc : DWord
  /-- WID recorded, where the fault is not of a lane (R460). -/
  wid : Option Nat
  /-- Operation whose fault it is; none for the instruction at issue, which is the latest (R259). -/
  order : Option Nat
  /-- TIME and clock of the fault, where the trap has been waiting since (R260, R460). -/
  time : Option Nat := none
  clock : Option Nat := none
deriving DecidableEq, Repr

/-- Life of a group (R297); RUNNING, PARKED and HANDLER follow from its paths and frame. -/
inductive GPhase where
  | live | halted | dissolving | draining | saved
deriving DecidableEq, Repr

/-- Stop reasons of a debug stop (R427). -/
inductive StopReason where
  | halt | breakTrap | breakpoint | step | host
deriving DecidableEq, Repr

/-- A kernel's launch header and packet fields that groups read (R280, R281, R283). -/
structure PoolDecl where
  space : Nat
  tsize : Nat
  afault : Bool
  tiles : Nat
  mcast : Nat
deriving DecidableEq, Repr

structure Header where
  w : List Nat
  nv : Nat
  ns : Nat
  team : Nat
  crew : Nat
  privw : Nat
  cscr : Nat
  kshare : Nat
  tbar : Nat
  cbar : Nat
  keys : Nat
  octets : Nat
  merge : Bool
  stream : Bool
  text : Nat
  textlen : Nat
  data : Nat
  nargs : Nat
  pools : List PoolDecl
  hqs : List Nat
deriving DecidableEq, Repr

/-- A bound accumulator tile (R226, R240): elements by 64 × row + column. -/
structure AccTile where
  owner : GroupId
  z : Nat
  data : SMap Word
  /-- Fault mark: code, address of the instruction, and the lowest WID that the group held when it issued (R240,
  R460). -/
  mark : Option (Code × DWord × Nat)
  /-- `mrel` has named it (R227). -/
  releasing : Bool
deriving DecidableEq, Repr

structure Group where
  id : GroupId
  ctx : Nat
  kid : Nat
  crew : Nat
  hdr : Header
  /-- GROUP (R299). -/
  gval : Word
  /-- TIME of first RUNNING (R299). -/
  age : Nat
  phase : GPhase
  /-- Phase before HALTED or SAVED. -/
  before : GPhase
  stop : Option StopReason
  /-- Thread of each lane, by lane number. -/
  threads : List (Nat × Thread)
  /-- WIDLO of the exit record (R315). -/
  widLo : Nat
  /-- v registers: key 32 × register + lane; unlisted 0 (R101). -/
  v : SMap Word
  /-- s registers (R101). -/
  s : SMap Word
  /-- p0 to p6 (R101, R103). -/
  p : SMap Mask
  /-- q0 to q6 in bits 0 to 6 (R101, R103). -/
  q : BitVec 8
  paths : List Path
  nextPath : Nat
  /-- CS and n of R300. -/
  cs : Fin 2
  run : Nat
  tokE : SMap Mask
  tokW : SMap Mask
  handler : DWord
  trapinfo : DWord
  frame : Option Frame
  flights : List Flight
  fences : List Fence
  /-- Running maximum of returned T_w (R87). -/
  twMax : Nat
  /-- TIME and order number of the last completed `fence.sc` at team scope or above (R86). -/
  scTime : Option (Nat × Nat)
  /-- Completion interrupts requested (cells) and pending (TRAPINFO values, R209). -/
  intReq : List CellRef
  intPend : List DWord
  /-- Stall counters (R314). -/
  stall : SMap Word
  /-- Memory episodes, newest first, at most eight (R310). -/
  history : List Bool
  /-- Reason counted on the last clock of the open episode, and whether it is a memory one. -/
  episode : Option (Nat × Bool)
  issued : Nat
  maxFrag : Nat
  spills : Nat
  discarded : Nat
  rebuilt : Bool
  /-- rinfo key, count, seq (R335). -/
  rkey : Word
  rcount : Word
  rseq : Word
  /-- Progress mark (R312): WID that holds it, and TIME at which the group received it; clocks on which
  the slot of that thread was eligible and did not issue; and that TIME again once the group ranks first. -/
  mark : Option (Nat × Nat)
  markWait : Nat
  markFirst : Option Nat
  /-- Clock of the last issue. -/
  lastIssue : Option Nat
  /-- A trap being taken (R259). -/
  trapping : Option TrapReq
  /-- Attempts held back: clock, path, stall reason, and whether it is a memory one (R310). -/
  held : List (Nat × Nat × Nat × Bool)
  /-- Slots that stood free when this clock began and have not been filled on it (R302, R304). -/
  vacant : List (Fin 2)
  /-- The swap of R303 is due: the run that it waited for has ended. -/
  swapDue : Bool
  /-- Clock last counted in a stall counter. -/
  stalledAt : Option Nat
  /-- Bits of the live mask saved with the group (R117, R156). -/
  savedLive : Word
  /-- STEP: issues made when it came, after one more of which the group stops again; paths that pass a
  breakpoint they resumed at (R427). -/
  stepping : Option Nat
  passing : List Nat
  /-- A debug stop that waits for the pending results of open windows (R140). -/
  stopping : Option StopReason
  /-- A forced save that waits for them, or for the trap that the group is taking (R140, R256). -/
  saving : Bool := false
  /-- Some path of it has arrived at `reorder` (R314). -/
  arrived : Bool
  /-- Accumulator tiles that it rebinds after a save before it issues (R247). -/
  rebind : List AccTile
deriving DecidableEq, Repr

/-! ### Crews: barriers, pools, queues, reorder -/

/-- A barrier entry (R337). -/
structure BarEntry where
  phase : Bool
  expl : Bool
  gone : Nat
  target : Nat
  live : Nat
  arr : Nat
deriving DecidableEq, Repr

/-- STATE of a tile (R353). -/
inductive TileState where
  | free | held | returning
deriving DecidableEq, Repr

structure Tile where
  st : TileState
  gen : Nat
  count : Nat
  pend : Nat
  adm : Nat
deriving DecidableEq, Repr

/-- A crew's partition of a pool (R351, R353): unlisted tiles are FREE with every field 0. -/
structure Partition where
  lim : Nat
  heldn : Nat
  tiles : SMap Tile
  /-- Core-local base in scratch SRAM, or slice-local base in chip scratchpad. -/
  base : Nat
deriving DecidableEq, Repr

/-- A handle queue (R364): slots in order, visible once the push has been released. -/
structure HQueue where
  slots : List (Nat × Option Word)
  pushed : Nat
  base : Nat
deriving DecidableEq, Repr

/-- What the arrivals of an instance agree in (R321). -/
structure RRef where
  pc : DWord
  vmask : Nat
  smask : Nat
  merge : Bool
  stream : Bool
  field : Nat
  s : SMap Word
  handler : DWord
  stack : List DWord
deriving DecidableEq, Repr

/-- One arrival held by the Lasting unit (R327). -/
structure Record where
  thread : Thread
  key : Nat
  seq : Nat
  time : Nat
  v : SMap Word
  /-- p0 to p6 of the lane. -/
  p : Nat
  /-- Interrupts of the group, in the record of one thread (R219). -/
  intReq : List CellRef
  intPend : List DWord
  spilled : Bool
deriving DecidableEq, Repr

/-- An instance of a crew's reorder domain (R317, R318). -/
structure RInst where
  ref : Option RRef
  /-- Binned records that stand in no formed group, in binning order. -/
  recs : List Record
  /-- Sets of records that form the next rebuilt groups, in emission order. -/
  ready : List (List Record)
  nextSeq : Nat
  emitted : Nat
  spilled : Nat
  /-- Threads binned so far of each key. -/
  counts : SMap Nat
  flushed : Bool
  /-- RSPILL of the context when the instance began (R329). -/
  rspill : Nat
deriving DecidableEq, Repr

/-- A team's placement (R57, R60, R339). -/
structure Team where
  home : Nat
  /-- Core-local base of its window, and of its arrival words. -/
  cbase : Nat
  awbase : Nat
  privbase : Nat
deriving DecidableEq, Repr

structure Crew where
  kid : Nat
  crew : Nat
  cluster : Nat
  teams : List Team
  /-- Core-local base of the cluster-shared contribution (R58). -/
  kbase : Nat
  parts : List Partition
  hqs : List HQueue
  teamBars : List (List BarEntry)
  crewBars : List BarEntry
  /-- Instances held, completed count, spill count of the last completed one (R318, R335). -/
  insts : List RInst
  instDone : Nat
  lastSpill : Nat
  /-- Spill area number (R328). -/
  spillArea : Nat
  /-- Words of scratch SRAM taken on each core: (core, base, size, cluster-shared portion). -/
  taken : List (Nat × Nat × Nat × Bool)
  /-- Saved with its context: the key of the scratch SRAM image that holds its storage. -/
  image : Option Nat
  /-- Groups saved with it. -/
  stored : List Group
deriving DecidableEq, Repr

/-! ### Launches and queues -/

/-- Life of a packet that has been read (R272 to R275, R293). -/
inductive LState where
  | read | started | boundary | complete
deriving DecidableEq, Repr

structure RegionDecl where
  base : Nat
  len : Nat
  write : Bool
deriving DecidableEq, Repr

structure Launch where
  kid : Nat
  ctx : Nat
  q : Nat
  seq : Nat
  marker : Bool
  hdr : Header
  deadline : Nat
  args : Nat
  waiten : Bool
  waittl : Nat
  waitval : Nat
  sigen : Bool
  sigtl : Nat
  sigval : Nat
  sten : Bool
  status : Nat
  ext : List Nat
  clmask : Nat
  regions : List RegionDecl
  st : LState
  /-- WAITTL condition seen true (R272). -/
  ready : Bool
  /-- Named by DISPATCH in host-assisted mode, with the order of the command. -/
  dispatched : Option Nat
  nextCrew : Nat
  retired : Nat
  /-- Largest T_w of the kernel's global stores (R100). -/
  tw : Nat
  abandoned : Nat
  abandonFault : Bool
  hostChoice : Option Bool
  /-- Code the launch completes with, when a fault has ended it. -/
  code : Option Code
  /-- nano-joules attributed (R438). -/
  energy : Nat
  /-- Physical granules of its text with the byte range in each (R126). -/
  marks : List (Nat × Nat × Nat)
  /-- Argument word whose fault record the placement of the next crew waits on, by its address, with the level
  of its walk and TIME of the fault (R285, R380). -/
  argWait : Option (Nat × Nat × Nat)
deriving DecidableEq, Repr

structure Queue where
  st : QState
  before : QState
  logn : Nat
  base : Nat
  drop : Bool
  k : Nat
  qrd : Nat
  code : Nat
  misses : Nat
  /-- Re-reads made of packet QRD and the TIME at which the next starts (R271). -/
  reread : Option (Nat × Nat)
deriving DecidableEq, Repr

/-! ### Contexts -/

/-- A copied descriptor (R248). -/
structure Desc where
  slice : Nat
  spillva : Nat
  savebase : Nat
  savesize : Nat
  tenant : Nat
  place : Nat
  xshare : Nat
  modes : Nat
  root : Nat
  priv : Bool
  prio : Nat
  nq : Nat
deriving DecidableEq, Repr

/-- A bound shadow window (R73, R386). -/
structure WinBind where
  esize : Nat
  base : Nat
  index : Nat
  n : Nat
deriving DecidableEq, Repr

/-- A trace ring (R424) and replay registers (R428) of a context; TIME of its last checkpoint, whether
one is being taken, and its order log since (R429): source, and what was recorded. -/
structure CtxTrace where
  trcbase : Nat
  trchead : Nat
  rplctl : Nat
  rplbase : Nat
  lastCkpt : Nat
  ckpt : Bool
  log : List (Nat × List Nat)
deriving DecidableEq, Repr

structure Ctx where
  num : Nat
  st : CtxState
  err : Bool
  lastcode : Nat
  desc : Desc
  /-- Slice-local base of its chip-scratchpad share (R59). -/
  xbase : Nat
  wins : List (Nat × WinBind)
  queues : List (Nat × Queue)
  /-- Start of a pre-emption, and whether it is for time (R256). -/
  preempt : Option (Nat × Bool)
  saveTime : Nat
  sliceStart : Nat
  timeSaved : Bool
  /-- Containment: largest T_w of sent accesses, and the launch whose group faulted (R263). -/
  killTw : Nat
  faultKid : Option (Nat × Code)
  /-- TIME since which R262's conditions have held. -/
  watchStart : Option Nat
  fabjob : Nat
  rspill : Nat
  trace : CtxTrace
  debug : Bool
  /-- DBGBP (R427). -/
  bp : Nat
  /-- DISPATCH of packets not yet read: (queue, sequence low bits, order). -/
  dispatchWait : List (Nat × Nat × Nat)
  /-- Overflow images: messages with the cluster whose image holds them (R397). -/
  msgImage : List (Nat × PktHeader)
deriving DecidableEq, Repr

/-! ### Matrix engines -/

/-- An operand of a queued `mma`: where its rows begin in its region or tile, its formats, its scales
(R230, R231), and the tile that a handle names. -/
structure MatSrc where
  region : Region
  tile : Option TileRef
  /-- Offsets of the rows; of the stream in `.sparse`. -/
  rows : List Nat
  fmt : NFmt
  sfmt : NFmt
  /-- Scale block length L. -/
  len : Nat
  scale : Region
deriving DecidableEq, Repr

/-- A queued `mma` (R233 to R235). -/
structure Mma where
  /-- .z -/
  fresh : Bool
  k : Nat
  sparse : Option Nat
  gather : Bool
  a : MatSrc
  b : MatSrc
  /-- Operands whose tiles it consumes (.ca, .cb). -/
  ca : Bool
  cb : Bool
  /-- Next K step, and next output block of it. -/
  step : Nat
  block : Nat
  /-- Metadata entries popped (R235). -/
  popped : List Nat
  /-- Offset of the next block in A's stream. -/
  stream : Nat
  /-- Elements latched, by K index: code plus one, or 0 for an absent element of A. -/
  av : List (List Nat)
  bv : List (List Nat)
  /-- Scales latched, by 64 × run + row or column. -/
  sa : List Nat
  sb : List Nat
  /-- A's consuming decrement has been made. -/
  eaten : Bool
deriving DecidableEq, Repr

/-- A matrix instruction in a reservation table (R221). -/
inductive MatOp where
  | zero
  | mma (m : Mma)
  | load (op : Nat)
  | drain (op : Nat)
deriving DecidableEq, Repr

structure MatEntry where
  id : Nat
  gid : GroupId
  gval : Word
  kid : Nat
  crew : Nat
  ctx : Nat
  z : Nat
  pc : DWord
  /-- Lowest WID that the group held when it issued (R460). -/
  wid : Nat
  op : MatOp
  /-- Core clocks of its issue and of its last grant, and the clock after its last pass. -/
  clock : Nat
  since : Nat
  ends : Nat
  promoted : Bool
deriving DecidableEq, Repr

/-- A metadata queue (R237). -/
structure MetaQ where
  kid : Nat
  q : Nat
  entries : List Nat
  poisoned : Bool
deriving DecidableEq, Repr

structure Engine where
  entries : List MatEntry
  tiles : List AccTile
  metas : List MetaQ
  last : Nat
deriving DecidableEq, Repr

/-! ### The rest of the device -/

/-- One turn of the schedule: time and clocks pass, then one act happens. -/
inductive Act where
  | event (i : Instr)
  /-- A core issues the group that R306 ranks first; the listed slots have no instruction fetched. -/
  | issue (cluster core : Nat) (unfetched : List (Nat × Fin 2))
  | evict (cluster core line : Nat)
  | dropTlb (cluster ctx page : Nat)
  | dropWalker (ctx page : Nat)
  /-- The host or a peer changes its own memory. -/
  | outside (key : Nat) (bytes : List Byte)
  /-- A context of another device takes or gives up a share of chip scratchpad (R405). -/
  | outsideShare (dev job : Nat) (x : Option Nat)
  /-- The links of other devices that are not UP: a device and the role of the direction (R389). -/
  | outsideLinks (down : List (Nat × Nat))
  /-- A packet of one of our operations, or its answer, is lost on a link of another device that has left UP
  (R389). -/
  | lost (op : Nat)
  /-- The host takes the oldest MSI-X vector (R408). -/
  | vectorTaken
  /-- The host chooses the checkpoint, by its place among those that stand, from which a context in replay mode
  starts (R430). -/
  | choose (ctx n : Nat)
  /-- A core's copy of TIME stands still, as far as 4 ns allow, or follows TIME again (R20). -/
  | holdClock (cluster core : Nat)
  | freeClock (cluster core : Nat)
deriving DecidableEq, Repr

structure Turn where
  ns : Nat
  clocks : Nat
  act : Option Act
deriving DecidableEq, Repr

/-- A cached leaf (R377): page size bits and the entry. -/
structure TlbLeaf where
  cluster : Nat
  ctx : Nat
  page : Nat
  bits : Nat
  leaf : DWord
deriving DecidableEq, Repr

structure Walk where
  ctx : Nat
  page : Nat
  clusters : List Nat
  /-- Operation number at which it started (R379). -/
  since : Nat
deriving DecidableEq, Repr

/-- Page-fault ring (R380, R381). -/
structure FaultRec where
  seq : Nat
  ctx : Nat
  page : Nat
deriving DecidableEq, Repr

structure PageUnit where
  tlb : List TlbLeaf
  walks : List Walk
  /-- Upper-level entries cached by walkers: (ctx, level, prefix, entry). -/
  wcache : List (Nat × Nat × Nat × DWord)
  /-- TLBINV commands not complete, with the next operation number when their entries were dropped. -/
  inv : List (DWord × Option Nat)
  pfbase : Nat
  pfhead : Nat
  pftail : Nat
  recs : List FaultRec
deriving DecidableEq, Repr

/-- A packet held at this device (R391, R392): the port that it came in by, 8 for one sent here; the
context that sent it here; and whether its payload is still to be read (R401). -/
structure Held where
  port : Nat
  pkt : PktHeader
  ctx : Option Nat
  unread : Bool
deriving DecidableEq, Repr

structure Posted where
  cluster : Nat
  ctx : Nat
  kid : Nat
  crew : Nat
  entry : Nat
  gen : Nat
  sel : Nat
  tag : Nat
  key : List Nat
  len : Nat
  op : Nat
  /-- Status once complete (R403). -/
  status : Option Nat
  order : Nat
deriving DecidableEq, Repr

structure Overflow where
  cluster : Nat
  ctx : Nat
  pkt : PktHeader
deriving DecidableEq, Repr

/-- What the save area holds of a saved crew beside its scratch SRAM and its groups (R255): the cluster
that it left, the split there, metadata queues by quad, cell-table entries, posted receives. -/
structure Image where
  kid : Nat
  crew : Nat
  cluster : Nat
  split : Nat
  metas : List (Nat × MetaQ)
  cells : List CellEntry
  posted : List Posted
deriving DecidableEq, Repr

structure Links where
  stitchcfg : Nat
  role : List (Nat × Nat)
  /-- STITCHCFG in effect on the device and on each port, and ROLE in effect (R390). -/
  cfgLive : Nat
  portCfg : List (Nat × Nat)
  roleLive : List (Nat × Nat)
  /-- STATE of each port and its free counts (R389). -/
  pstate : List (Nat × Nat)
  free : List (Nat × Nat)
  /-- Packets that have left by a port, each with the class of its hop, until the next device reports again (R389,
  R393, R395), and by link the operation number at which it last left UP (R389). -/
  sent : List Held
  leftUp : List (Nat × Nat)
  /-- Flits sent by a port since the last report, for 0 the shared classes, 1 E0, 2 E1: 3 × port + class
  (R392). -/
  spent : List (Nat × Nat)
  waent : List (Nat × Nat)
  trainStart : List (Nat × Nat)
  stitchrt : List (Nat × Nat)
  held : List Held
  posted : List Posted
  rgen : List (Nat × Nat)
  overflow : List Overflow
  seqOut : List (Nat × Nat)
  seqIn : List (Nat × Nat)
  /-- Ingress write-back cache words: (port, key, value, use order). -/
  icache : List (Nat × Nat × Nat × Nat)
  intcause : Nat
  inten : Nat
  /-- MSI-X vectors sent that the host has not yet taken, oldest first (R408). -/
  msix : List Nat
  /-- Largest T_w of host writes per Waent link (R99). -/
  linkTw : List (Nat × Nat)
  /-- Kicks by doorbell held for R99. -/
  bells : List (Nat × Nat × Nat × Nat)
  /-- Data that the latest host read has returned (R65, R99). -/
  hostData : List Byte
  /-- Contexts of other devices, outside this one: 2^16 × device + JOB, and the share X in KiB (R405). -/
  peerX : List (Nat × Nat)
  /-- Links of other devices, outside this one, that are not UP: a device and a role (R389, R390). -/
  farDown : List (Nat × Nat)
deriving DecidableEq, Repr

/-- The recorder ring of a core: its records by index, each as 128 bits (R411, R413). -/
structure Ring where
  cluster : Nat
  core : Nat
  head : Nat
  recs : SMap Nat
  /-- Upper half of the last TIMEBASE, and records since it (R414). -/
  tb : Option Nat
  since : Nat
  /-- Clock of the latest group record, and how many records end the ring since the first of that clock (R414). -/
  clock : Nat
  tail : Nat
  frozen : Bool
  /-- TIME of its freeze (R419). -/
  ctime : Nat
deriving DecidableEq, Repr

/-- A sealed capsule in a retention slot, by its fields (R419). -/
structure Capsule where
  slot : Nat
  serial : Nat
  ftime : Nat
  dropped : Nat
  /-- Trap records with their contexts. -/
  faults : List (Nat × List Byte)
  /-- CREATEs: TIME, and context + 256 × tenant. -/
  history : List (Nat × Nat)
  /-- Tenant of each context that is not FREE. -/
  tenants : List (Nat × Nat)
  fwdig : List Byte
  rings : List Ring
  /-- Logical cores, as 24 × cluster + core, whose island is off, and those on the spare. -/
  absent : List Nat
  spare : List Nat
deriving DecidableEq, Repr

/-- The view in CAPWIN (R422): a capsule, and the tenant of a tenant view. -/
structure View where
  capsule : Capsule
  tenant : Option Nat
deriving DecidableEq, Repr

/-- A checkpoint of a recorded context (R429): what its save left, the storage that was copied, by range and bytes
that are not zero, and the order log from it to the next one. -/
structure Checkpoint where
  ctx : Nat
  time : Nat
  xbase : Nat
  queues : List (Nat × Queue)
  wins : List (Nat × WinBind)
  msgImage : List (Nat × PktHeader)
  dispatchWait : List (Nat × Nat × Nat)
  launches : List Launch
  crews : List Crew
  images : List Image
  ranges : List (Nat × Nat)
  bytes : SMap Byte
  log : List (Nat × List Nat)
deriving DecidableEq, Repr

structure Recorder where
  rings : List Ring
  /-- Broadcasts of a freeze in progress, in order: TIME and code of the fault of each core that has frozen at its
  own (R417); and the trap records with their contexts (R418). -/
  freezing : List (Nat × Nat)
  faults : List (Nat × List Byte)
  capsules : List Capsule
  dropped : Nat
  serial : Nat
  history : List (Nat × Nat)
  caprdy : Nat
  cappush : Nat
  capview : Option View
  capreq : Option Nat
  /-- Trace FIFOs: (cluster, core, entries), each entry with its context and words. -/
  fifos : List (Nat × List (Nat × List Nat))
  lost : List (Nat × Nat)
  /-- Checkpoints in the replay areas, oldest first (R429). -/
  ckpts : List Checkpoint
deriving DecidableEq, Repr

structure Boot where
  /-- The module has power (R431). -/
  powered : Bool
  state : Nat
  why : Nat
  fwsrc : Nat
  len : Nat
  /-- The image in load SRAM (R432). -/
  image : List Byte
  fwdig : List Byte
  attnonce : List Byte
  attest : List Byte
  attpending : Bool
deriving DecidableEq, Repr

structure Service where
  /-- Command in progress (R434): CMD, ISLAND, and the contexts of a drain or a module's address. -/
  busy : Option (Nat × Nat × Nat)
  err : Nat
  /-- Island states that differ from on (R434). -/
  clstate : List (Nat × Nat)
  islandOff : List Nat
  repaired : List (Nat × Nat)
  rehomed : List (Nat × Nat)
  /-- Digest of each cluster's control module. -/
  modules : List (Nat × List Byte)
deriving DecidableEq, Repr

structure Power where
  cap : Nat
  avg : Nat
  tcap : Nat
  /-- OVER, and the 10 µs intervals counted toward its next millisecond and toward a fall of t_cap. -/
  overMs : Nat
  overTicks : Nat
  lowTicks : Nat
  qfloor : List (Nat × Nat)
  rampcfg : Nat
  /-- Ramp of quads: (quad, stage, TIME at which the stage ends); stages 16 to 31 are those of
  ramp-down. -/
  ramp : List (Nat × Nat × Nat)
  carry : List (Nat × Nat)
  /-- Slots of the current interval, by 144 × kernel + quad island (R438). -/
  slots : SMap Nat
deriving DecidableEq, Repr

structure Congestion where
  markat : Nat
  mode : Nat
  rate : List (Nat × Nat)
  /-- Allowance in force per cluster, for the two modes of contexts. -/
  allow : List (Nat × Nat)
  allowHost : List (Nat × Nat)
  win : List (Nat × Nat)
  replies : List (Nat × Nat)
  /-- Replies in mark mode that have reached their core, 24 × cluster + core, with the mark of the request,
  oldest first. -/
  echo : List (Nat × Bool)
deriving DecidableEq, Repr

/-- The machine. -/
structure State where
  /-- TIME in nanoseconds (R20), which is the copy of every slice, link controller and Roluone island too (log 15,
  DESIGN CHOICE). -/
  time : Nat
  /-- Copies of TIME at cores, 24 × cluster + core, that stand still: the value at which they do (R20) (log 15,
  DESIGN CHOICE). -/
  clocks : List (Nat × Nat)
  /-- Core clocks (R14, R20). -/
  clock : Nat
  /-- Issues of this clock: the core of each, as 24 × cluster + core, and for a memory-bound group whether its
  context is in host-assisted congestion mode (R306, R308, R309). -/
  issues : List (Nat × Option Bool)
  agenda : List Turn
  /-- The path that issues (model's own). -/
  issuer : Option (GroupId × Nat)
  /-- Next operation, request or entry number (model's own). -/
  nextId : Nat
  /-- Counter of free values (model's own). -/
  freeCtr : Nat
  /-- All byte storage, by storage key; unlisted bytes read 0. -/
  mem : SMap Byte
  ctxtab : Nat
  ctxs : List Ctx
  launches : List Launch
  crews : List Crew
  images : List Image
  groups : List Group
  ops : List Op
  reqs : List Req
  l1 : List L1Line
  /-- Expiry records by line, and E_drop per slice (R80). -/
  expiry : SMap Nat
  eDrop : SMap Nat
  /-- Granules of local HBM4 that recorded contexts have written since their last checkpoints, as the home slices
  mark them: context and granule number (R429). -/
  dirty : List (Nat × Nat)
  /-- Cluster that holds each slice's optical token (R19). -/
  token : SMap Nat
  resv : List Reservation
  cells : List CellEntry
  /-- K portion of each cluster's cores (R54), in bytes. -/
  split : SMap Nat
  /-- Storage freed and not yet zeroed: key, size, and the context that held it (R263, R293). -/
  scraps : List (Nat × Nat × Nat)
  /-- Next creation count of each group slot (R299). -/
  gcount : SMap Nat
  engines : List (Nat × Engine)
  page : PageUnit
  links : Links
  recorder : Recorder
  boot : Boot
  svc : Service
  power : Power
  cong : Congestion
deriving DecidableEq, Repr

/-! ### Outcomes other than a next state -/

/-- Faults of the model. -/
inductive Fault where
  /-- Raised by an instruction's issue when `State.issuer` names a group or path that does not
  exist, or a group whose context is missing: no run from reset reaches such a state. Safe: nothing
  is claimed about it. -/
  | noIssuer
deriving DecidableEq, Repr

/-- Refusals of the model. -/
inductive Refusal where
  /-- Answered by the dispatcher for an instruction that has no meaning yet, by name. Safe: nothing
  is claimed about it. -/
  | notModelled (mnemonic : String)
deriving DecidableEq, Repr

/-! ### Reset -/

def Header.empty : Header where
  w := []
  nv := 0
  ns := 0
  team := 0
  crew := 0
  privw := 0
  cscr := 0
  kshare := 0
  tbar := 0
  cbar := 0
  keys := 0
  octets := 0
  merge := false
  stream := false
  text := 0
  textlen := 0
  data := 0
  nargs := 0
  pools := []
  hqs := []

def PageUnit.reset : PageUnit where
  tlb := []
  walks := []
  wcache := []
  inv := []
  pfbase := 0
  pfhead := 0
  pftail := 0
  recs := []

def Links.reset : Links where
  stitchcfg := 0
  role := []
  cfgLive := 0
  portCfg := []
  roleLive := []
  pstate := []
  free := []
  sent := []
  leftUp := []
  spent := []
  waent := []
  trainStart := []
  stitchrt := []
  held := []
  posted := []
  rgen := []
  overflow := []
  seqOut := []
  seqIn := []
  icache := []
  intcause := 0
  inten := 0
  msix := []
  linkTw := []
  bells := []
  hostData := []
  peerX := []
  farDown := []

def Recorder.reset : Recorder where
  rings := []
  freezing := []
  faults := []
  capsules := []
  dropped := 0
  serial := 0
  history := []
  caprdy := 0
  cappush := 0
  capview := none
  capreq := none
  fifos := []
  lost := []
  ckpts := []

def Boot.reset : Boot where
  powered := true
  state := 0
  why := 0
  fwsrc := 0
  len := 0
  image := []
  fwdig := []
  attnonce := []
  attest := []
  attpending := false

def Service.reset : Service where
  busy := none
  err := 0
  clstate := []
  islandOff := []
  repaired := []
  rehomed := []
  modules := []

def Power.reset : Power where
  cap := 8
  avg := 0
  tcap := 0
  overMs := 0
  overTicks := 0
  lowTicks := 0
  qfloor := []
  rampcfg := 2
  ramp := []
  carry := []
  slots := []

def Congestion.reset : Congestion where
  markat := 16
  mode := 0
  rate := []
  allow := []
  allowHost := []
  win := []
  replies := []
  echo := []

/-- The device after power-up (R8, R20, R249, R431) (log 5, DESIGN CHOICE). -/
def State.reset : State where
  time := 0
  clocks := []
  clock := 0
  issues := []
  agenda := []
  issuer := none
  nextId := 0
  freeCtr := 0
  mem := []
  ctxtab := 0
  ctxs := []
  launches := []
  crews := []
  images := []
  groups := []
  ops := []
  reqs := []
  l1 := []
  expiry := []
  eDrop := []
  dirty := []
  token := []
  resv := []
  cells := []
  split := []
  scraps := []
  gcount := []
  engines := []
  page := .reset
  links := .reset
  recorder := .reset
  boot := .reset
  svc := .reset
  power := .reset
  cong := .reset

end Sys2Proof.Machine
end

