-- ==== Sys2Proof/Machine/Base.lean ====
section
/-! DEFINITION. The named operations over the machine's tables, registers and storage: lookups and
updates, register and predicate access (R101 to R103), address arithmetic of the spaces (R54 to
R66), bytes of storage (R3), accesses in flight (R69 to R71, R77), and delivery of results. -/

namespace Sys2Proof

/-- Register code: vector n is n, group-wide n is 192 + n. -/
def Reg.code : Reg → Nat
  | .v n => n.val
  | .s n => 192 + n.val

/-- A key for a group's tables: cluster, core and slot as one number. -/
def GroupId.num (i : GroupId) : Nat := (i.cluster * 24 + i.core) * 64 + i.slot

end Sys2Proof

namespace Sys2Proof.Machine

/-! ### Constants -/

/-- All 32 lanes. -/
def allLanes : Mask := 0xFFFFFFFF

/-- Lanes of a mask in ascending order. -/
def lanesOf (m : Mask) : List Nat := (List.range 32).filter (fun l => m.getLsbD l)

/-- The mask of one lane. -/
def laneBit (l : Nat) : Mask := BitVec.ofNat 32 (2 ^ l)

/-- Lowest lane of a mask, 0 if empty. -/
def lowLane (m : Mask) : Nat := ((lanesOf m).head?).getD 0

def bit01 (b : Bool) : Nat := if b then 1 else 0

/-- Bits hi..lo of a number (R2). -/
def bits (x hi lo : Nat) : Nat := x / 2 ^ lo % 2 ^ (hi + 1 - lo)

/-- Update the first element that satisfies `p`, or leave the list. -/
def updFirst {α : Type} (p : α → Bool) (f : α → α) : List α → List α
  | [] => []
  | x :: xs => if p x then f x :: xs else x :: updFirst p f xs

/-- Replace or append by a key test. -/
def upsert {α : Type} (p : α → Bool) (x : α) (l : List α) : List α :=
  if l.any p then l.map (fun y => if p y then x else y) else l ++ [x]

/-- The value of a number in a list of pairs; `d` where it is not listed. -/
def pairGet (d : Nat) (l : List (Nat × Nat)) (k : Nat) : Nat :=
  match l.find? (fun x => x.1 == k) with
  | some x => x.2
  | none => d

def pairSet (l : List (Nat × Nat)) (k v : Nat) : List (Nat × Nat) := upsert (fun x => x.1 == k) (k, v) l

def sumNat (l : List Nat) : Nat := l.foldl (· + ·) 0

def maxNat (l : List Nat) : Nat := l.foldl Nat.max 0

/-- The element of least value under `f`, the first among equals. -/
def leastBy {α : Type} (f : α → Nat) : List α → Option α
  | [] => none
  | x :: xs => match leastBy f xs with
    | none => some x
    | some y => if f x ≤ f y then some x else some y

/-- Insert by order, after equals. -/
def insertBy {α : Type} (f : α → Nat) (x : α) : List α → List α
  | [] => [x]
  | y :: ys => if f y ≤ f x then y :: insertBy f x ys else x :: y :: ys

/-- Sort by order, keeping equals in place. -/
def sortBy {α : Type} (f : α → Nat) (l : List α) : List α := l.foldl (fun acc x => insertBy f x acc) []

/-! ### Codes (R265) -/

def Code.num : Code → Nat
  | .illegalOpcode => 0x01 | .reservedNonzero => 0x02 | .illegalOperand => 0x03
  | .lookaheadConflict => 0x04 | .misalignedTarget => 0x05 | .illegalConvergence => 0x06
  | .privileged => 0x07 | .padNonzero => 0x08 | .userTrap => 0x09 | .brk => 0x0A
  | .pageFault => 0x20 | .privateLimit => 0x21 | .misaligned => 0x22 | .misalignedAtomic => 0x23
  | .spaceBounds => 0x24 | .windowFault => 0x25 | .protection => 0x26
  | .tileOverread => 0x40 | .tileStale => 0x41 | .tileAbandoned => 0x42 | .poolPartition => 0x43
  | .cellOverflow => 0x44 | .barrierCount => 0x45 | .reorderNonuniform => 0x46
  | .reorderKeyRange => 0x47 | .watchdog => 0x48 | .queueHandle => 0x49
  | .matrixMetaPoison => 0x60 | .matrixFormat => 0x61 | .matrixReservation => 0x62
  | .linkOverflow => 0x70 | .linkDown => 0x71 | .tagRange => 0x72
  | .queueTorn => 0x80 | .deadlineMissed => 0x81 | .dependenceOverflow => 0x82
  | .containmentKill => 0xF0 | .softErrorUncorrected => 0xF1
  | .unlisted n => n.toNat

/-- Every code that R265 lists. -/
def Code.all : List Code :=
  [.illegalOpcode, .reservedNonzero, .illegalOperand, .lookaheadConflict, .misalignedTarget,
   .illegalConvergence, .privileged, .padNonzero, .userTrap, .brk, .pageFault, .privateLimit,
   .misaligned, .misalignedAtomic, .spaceBounds, .windowFault, .protection, .tileOverread,
   .tileStale, .tileAbandoned, .poolPartition, .cellOverflow, .barrierCount, .reorderNonuniform,
   .reorderKeyRange, .watchdog, .queueHandle, .matrixMetaPoison, .matrixFormat,
   .matrixReservation, .linkOverflow, .linkDown, .tagRange, .queueTorn, .deadlineMissed,
   .dependenceOverflow, .containmentKill, .softErrorUncorrected]

/-- The code of a number (a cell's FAULT field holds one, R204). -/
def Code.ofNum (n : Nat) : Code :=
  match Code.all.find? (fun c => c.num == n) with
  | some c => c
  | none => .unlisted (BitVec.ofNat 8 n)

/-! ### Tables -/

def State.group? (s : State) (i : GroupId) : Option Group := s.groups.find? (fun g => g.id == i)

/-- Replace a group. -/
def State.setGroup (s : State) (g : Group) : State :=
  { s with groups := s.groups.map (fun h => if h.id == g.id then g else h) }

def State.ctx? (s : State) (c : Nat) : Option Ctx := s.ctxs.find? (fun x => x.num == c)

def State.setCtx (s : State) (c : Ctx) : State :=
  { s with ctxs := upsert (fun x => x.num == c.num) c s.ctxs }

/-- Change a context that exists. -/
def State.modCtx (s : State) (c : Nat) (f : Ctx → Ctx) : State :=
  match s.ctx? c with
  | some x => s.setCtx (f x)
  | none => s

def State.modGroup (s : State) (i : GroupId) (f : Group → Group) : State :=
  match s.group? i with
  | some g => s.setGroup (f g)
  | none => s

def State.launch? (s : State) (k : Nat) : Option Launch := s.launches.find? (fun x => x.kid == k)

def State.modLaunch (s : State) (k : Nat) (f : Launch → Launch) : State :=
  { s with launches := s.launches.map (fun x => if x.kid == k then f x else x) }

def State.crew? (s : State) (k c : Nat) : Option Crew :=
  s.crews.find? (fun x => x.kid == k && x.crew == c)

def State.modCrew (s : State) (k c : Nat) (f : Crew → Crew) : State :=
  { s with crews := s.crews.map (fun x => if x.kid == k && x.crew == c then f x else x) }

def State.op? (s : State) (i : Nat) : Option Op := s.ops.find? (fun x => x.id == i)

def State.modOp (s : State) (i : Nat) (f : Op → Op) : State :=
  { s with ops := s.ops.map (fun x => if x.id == i then f x else x) }

def State.delOp (s : State) (i : Nat) : State :=
  { s with ops := s.ops.filter (fun x => x.id != i) }

/-- TIME as a core sees it: a copy that stands still never falls more than 4 ns behind, and none decreases
(R20) (log 15, DESIGN CHOICE). -/
def State.coreTime (s : State) (cluster core : Nat) : Nat :=
  match s.clocks.find? (fun c => c.1 == 24 * cluster + core) with
  | some c => Nat.max c.2 (s.time - 4)
  | none => s.time

def State.req? (s : State) (i : Nat) : Option Req := s.reqs.find? (fun x => x.id == i)

/-- The context's descriptor, or an empty one. -/
def Desc.none : Desc where
  slice := 0
  spillva := 0
  savebase := 0
  savesize := 0
  tenant := 0
  place := 0
  xshare := 0
  modes := 0
  root := 0
  priv := false
  prio := 0
  nq := 0

def State.desc (s : State) (c : Nat) : Desc :=
  match s.ctx? c with
  | some x => x.desc
  | none => .none

/-- Privileged contexts (R248). -/
def State.priv (s : State) (c : Nat) : Bool := (s.desc c).priv

/-- A MODES bit, by its number from 64 (R250). -/
def Desc.mode (d : Desc) (n : Nat) : Bool := d.modes.testBit (n - 64)

/-- Storage freed by a context: a range already listed inside it is forgotten. -/
def State.scrap (s : State) (key size ctx : Nat) : State :=
  if size = 0 then s
  else { s with scraps := s.scraps.filter (fun x => !(decide (key ≤ x.1) && decide (x.1 + x.2.1 ≤ key + size))) ++
      [(key, size, ctx)] }

/-- Crews of a group. -/
def State.groupCrew (s : State) (g : Group) : Option Crew := s.crew? g.kid g.crew

/-! ### Registers and predicates -/

/-- The register word of a code as it stands; the lane matters for a vector register only. -/
def Group.reg (g : Group) (code lane : Nat) : Word :=
  if code < 192 then SMap.get 0 g.v (32 * code + lane) else SMap.get 0 g.s (code - 192)

/-- Write a register word. -/
def Group.setReg (g : Group) (code lane : Nat) (w : Word) : Group :=
  if code < 192 then { g with v := SMap.set 0 g.v (32 * code + lane) w }
  else { g with s := SMap.set 0 g.s (code - 192) w }

/-- A lane predicate: p7 reads true in every lane (R103). -/
def Group.pred (g : Group) (k : Nat) : Mask := if k = 7 then allLanes else SMap.get 0 g.p k

/-- Write the lanes `m` of a lane predicate; a write to p7 is discarded (R103). -/
def Group.setPred (g : Group) (k : Nat) (m val : Mask) : Group :=
  if k = 7 then g else { g with p := SMap.set 0 g.p k ((g.pred k &&& ~~~m) ||| (val &&& m)) }

/-- A group predicate: q7 reads true (R103). -/
def Group.qpred (g : Group) (k : Nat) : Bool := k == 7 || g.q.getLsbD k

/-- Write a group predicate; a write to q7 is discarded (R103). -/
def Group.setQ (g : Group) (k : Nat) (b : Bool) : Group :=
  if k = 7 then g
  else { g with q := if b then g.q ||| BitVec.ofNat 8 (2 ^ k) else g.q &&& ~~~(BitVec.ofNat 8 (2 ^ k)) }

/-- The value a window holds for a register it names (R138). -/
def Path.old? (p : Path) (code lane : Nat) : Option Word :=
  match p.windows.find? (fun w => w.regs.contains code) with
  | some w => some (SMap.get 0 w.old (32 * code + if code < 192 then lane else 0))
  | none => none

/-- What the path reads in a register: the value before the long-latency instruction inside its
window, else the register (R138). -/
def Group.rd (g : Group) (p : Path) (code lane : Nat) : Word :=
  match p.old? code lane with
  | some w => w
  | none => g.reg code lane

/-- A 64-bit value of an even and odd register (R102). -/
def Group.rd64 (g : Group) (p : Path) (code lane : Nat) : DWord :=
  g.rd p (code + 1) lane ++ g.rd p code lane

/-- A source of one register or a pair, as 64 bits. -/
def Group.rdN (g : Group) (p : Path) (n : Nat) (r : Reg) (lane : Nat) : DWord :=
  if n = 2 then g.rd64 p r.code lane else (g.rd p r.code lane).zeroExtend 64

/-- Write one register or a pair. -/
def Group.wrN (g : Group) (n : Nat) (r : Reg) (lane : Nat) (x : DWord) : Group :=
  let g := g.setReg r.code lane (x.extractLsb' 0 32)
  if n = 2 then g.setReg (r.code + 1) lane (x.extractLsb' 32 32) else g

/-- active(l) over the path's lanes, for a G=0 instruction (R10, R132). -/
def Group.active (g : Group) (p : Path) (gd : Guard) : Mask :=
  if gd.grp then (if g.qpred gd.idx.val != gd.neg then p.mask else 0)
  else p.mask &&& (if gd.neg then ~~~(g.pred gd.idx.val) else g.pred gd.idx.val)

/-- The guard of a G=1 instruction (R132). -/
def Group.guard (g : Group) (gd : Guard) : Bool := g.qpred gd.idx.val != gd.neg

/-! ### Storage -/

/-- Scratch SRAM of a core begins at this key. -/
def scratchKey (cluster core off : Nat) : Nat := 2 ^ 52 + (cluster * 24 + core) * 2 ^ 20 + off

/-- Chip scratchpad beside a slice begins at this key. -/
def chipKey (slice off : Nat) : Nat := 2 ^ 53 + slice * 2 ^ 20 + off

/-- What an unlisted byte of storage reads as (log 4). -/
def Memory.unlisted : Byte := 0

/-- The canonical form of storage: keys strictly rising, and no byte listed that reads as an unlisted
one does. -/
def Memory.wf (m : List Host.Cell) : Bool := SMap.wf Memory.unlisted m

def State.byte (s : State) (key : Nat) : Byte := SMap.get Memory.unlisted s.mem key

def State.setByte (s : State) (key : Nat) (b : Byte) : State :=
  { s with mem := SMap.set Memory.unlisted s.mem key b }

/-- n bytes as a little-endian number (R3). -/
def State.read (s : State) (key : Nat) : Nat → Nat
  | 0 => 0
  | n + 1 => (s.byte key).toNat + 256 * State.read s (key + 1) n

/-- Write n bytes little-endian (R3). -/
def State.write (s : State) (key : Nat) : Nat → Nat → State
  | 0, _ => s
  | n + 1, v => State.write (s.setByte key (BitVec.ofNat 8 v)) (key + 1) n (v / 256)

/-- Write the bytes of `v` whose bit is set in `mask`. -/
def State.writeMasked (s : State) (key mask : Nat) : Nat → Nat → State
  | 0, _ => s
  | n + 1, v =>
    State.writeMasked (if mask % 2 = 1 then s.setByte key (BitVec.ofNat 8 v) else s) (key + 1)
      (mask / 2) n (v / 256)

/-- Zero a range of storage. -/
def State.zero (s : State) (key n : Nat) : State := { s with mem := s.mem.clear key n }

/-- Bytes of a range in order. -/
def State.bytes (s : State) (key n : Nat) : List Byte := (List.range n).map (fun k => s.byte (key + k))

/-- Write a byte string. -/
def State.writeBytes (s : State) (key : Nat) : List Byte → State
  | [] => s
  | b :: bs => State.writeBytes (s.setByte key b) (key + 1) bs

/-- Home slice of a local physical address (R66); a rehomed slice's lines go where `svc.rehomed`
says (R434). -/
def rawSlice (pa : Nat) : Nat :=
  let gr := pa / 4096
  let q := gr / 12
  let r := gr % 12
  let m := (r + (bits q 3 0 ^^^ bits q 7 4 ^^^ bits q 11 8)) % 12
  let j := bits q 2 0 ^^^ bits q 5 3 ^^^ bits q 8 6 ^^^ bits q 11 9
  8 * m + j

def State.slice (s : State) (pa : Nat) : Nat :=
  let h := rawSlice pa
  match s.svc.rehomed.find? (fun e => e.1 == h) with
  | some e => e.2
  | none => h

/-- The slice beside which a chip-scratchpad key lies. -/
def chipSlice (key : Nat) : Nat := (key - 2 ^ 53) / 2 ^ 20

/-- .k: core and core-local offset of offset `a` over a crew's contributions (R58). -/
def kCore (a : Nat) : Nat := a / 256 % 24
def kLocal (a : Nat) : Nat := a / 6144 * 256 + a % 256

/-- .x: slice and slice-local offset of offset `a` (R59). -/
def xSlice (a : Nat) : Nat := a / 1024 % 96
def xLocal (a : Nat) : Nat := a / 98304 * 1024 + a % 1024

/-- MODE in effect (R428): 3, and 1 with T outside 1 to 100, act as 0. -/
def Ctx.replayMode (c : Ctx) : Nat :=
  let m := c.trace.rplctl % 4
  let t := c.trace.rplctl / 4 % 128
  if m = 1 ∧ 1 ≤ t ∧ t ≤ 100 then 1 else if m = 2 then 2 else 0

/-! ### In-flight accesses -/

/-- Counter of a path (R70). -/
def Group.count (g : Group) (k : Nat) : Nat := (g.flights.filter (fun f => f.path == k)).length

/-- PATHCNT (R71). -/
def Group.pathcnt (g : Group) : DWord :=
  BitVec.ofNat 64 (sumNat ((List.range 8).map (fun k => g.count k * 2 ^ (6 * k))))

/-- Drop the completed instructions at the head of each path's order (R70). -/
def dropDone : List Flight → List Nat → List Flight
  | [], _ => []
  | f :: fs, busy =>
    if f.done && !busy.contains f.path then dropDone fs busy
    else f :: dropDone fs (f.path :: busy)

/-- An instruction completes on a path. -/
def Group.complete (g : Group) (op path : Nat) : Group :=
  { g with flights := dropDone (g.flights.map (fun f =>
      if f.op == op && f.path == path then { f with done := true } else f)) [] }

/-- An instruction completes on every path it counts on. -/
def Group.completeAll (g : Group) (op : Nat) (paths : List Nat) : Group :=
  paths.foldl (fun g k => g.complete op k) g

/-- The group an operation belongs to, while it is the same group. -/
def State.opGroup (s : State) (o : Op) : Option Group :=
  (s.group? o.gid).filter (fun g => g.gval == o.gval && g.kid == o.kid)

/-- The 128-byte line of a storage key. -/
def lineOf (key : Nat) : Nat := key / 128 * 128

/-- The requests that carry an engine operation's transfer of some storage have been sent (R19). -/
def State.carried (s : State) (op : Nat) (keys : List Nat) : Bool :=
  s.reqs.all (fun r => r.op != op || r.sent || !keys.any (fun k => lineOf k == r.line))

/-- Bytes of two ranges in common. -/
def overlap (k1 n1 k2 n2 : Nat) : Bool := k1 < k2 + n2 && k2 < k1 + n1

/-- Ordinary accesses: neither engine operations nor sends (R90). -/
def OpKind.ordinary : OpKind → Bool
  | .load _ _ | .store | .atom _ _ _ | .ldr _ _ | .stc _ _ | .writeback | .tlsig _ _
  | .ratom _ _ _ => true
  | _ => false

/-- Operations that write memory and count as stores (R87, R98, R405). -/
def OpKind.isStore : OpKind → Bool
  | .store | .atom _ _ _ | .writeback | .tlsig _ _ | .stc _ _ | .ratom _ _ _ | .kick _ _ _ => true
  | _ => false

/-- Operations that deliver a value and count as loads (R70, R98). -/
def OpKind.isLoad : OpKind → Bool
  | .load _ _ | .ldr _ _ | .stc _ _ => true
  | .atom _ _ d => d.isSome
  | .ratom _ _ d => d.isSome
  | _ => false

/-- The register destination of an operation. -/
def OpKind.dest : OpKind → Option Dest
  | .load d _ | .ldr d _ | .stc d _ => some d
  | .atom _ _ d => d
  | .ratom _ _ d => d
  | _ => none

/-- Register codes of a destination. -/
def Dest.codes (d : Dest) : List Nat := (List.range d.regs).map (d.reg + ·)

/-- Operations of a group. -/
def State.opsOf (s : State) (g : Group) : List Op :=
  s.ops.filter (fun o => o.gid == g.id && o.gval == g.gval && o.kid == g.kid)

/-- The group's accesses below `upTo` meet R87's table for a scope: every load delivered, and every
store acknowledged, its T_w passed from team scope up, and complete at system scope for system. -/
def State.released (s : State) (g : Group) (scope : Scope) (upTo : Nat) : Bool :=
  (s.opsOf g).all (fun o => o.id ≥ upTo || !(o.kind.isLoad || o.kind.isStore) ||
      (o.parts.all (fun p => p.done) && !o.kind.isLoad && (scope != .system || o.parts.all (·.sysDone)))) &&
  (scope == .group || g.twMax ≤ s.time)

/-- Every load of the group below `upTo` has been delivered (R85). -/
def State.loadsDone (s : State) (g : Group) (upTo : Nat) : Bool :=
  (s.opsOf g).all (fun o => o.id ≥ upTo || !o.kind.isLoad)

/-- Every store of the group below `upTo` has been acknowledged (R90). -/
def State.storesAcked (s : State) (g : Group) (upTo : Nat) : Bool :=
  (s.opsOf g).all (fun o => o.id ≥ upTo || !o.kind.isStore || o.parts.all (·.done))

/-- `ldr` and `stc` (R214). -/
def OpKind.reserves : OpKind → Bool
  | .ldr _ _ | .stc _ _ => true
  | _ => false

/-- A part of an operation may be performed: no earlier access of its group to the location is
unperformed (R77) (log 11, DEDUCED), nor an earlier `ldr` or `stc` of its owner, where it is of one (R214)
(log 53, DEDUCED). -/
def State.partFree (s : State) (o : Op) (p : Part) : Bool :=
  s.ops.all (fun x => !(x.gid == o.gid && x.gval == o.gval && x.id < o.id) || !x.kind.ordinary ||
    x.parts.all (fun y => y.done || y.got.isSome || !(overlap p.key p.size y.key y.size ||
      (o.kind.reserves && x.kind.reserves && y.who == p.who))))

/-- The bytes that a later load takes from the group's store buffer, newest store last (R82). Bytes that
a later pending access of another kind writes at their home are not taken (R77). -/
def State.forward (s : State) (g : Group) (key size : Nat) : Nat × Nat :=
  ((s.opsOf g).filter (fun o => o.kind.ordinary && o.kind.isStore)).foldl (fun acc o =>
    o.parts.foldl (fun (acc : Nat × Nat) p =>
      if p.done || p.via == .reg || !overlap key size p.key p.size then acc
      else
        (List.range size).foldl (fun (acc : Nat × Nat) k =>
          if p.key ≤ key + k ∧ key + k < p.key + p.size then
            let byte := p.b / 256 ^ (key + k - p.key) % 256
            if o.kind == .store then
              (acc.1 ||| 2 ^ k, acc.2 - (acc.2 / 256 ^ k % 256) * 256 ^ k + byte * 256 ^ k)
            else (if acc.1.testBit k then acc.1 - 2 ^ k else acc.1, acc.2)
          else acc) acc) acc) (0, 0)

/-- Take the bytes of `fwd` where `mask` is set, of `v` elsewhere. -/
def overlay (size mask fwd v : Nat) : Nat :=
  sumNat ((List.range size).map (fun k =>
    (if mask.testBit k then fwd / 256 ^ k % 256 else v / 256 ^ k % 256) * 256 ^ k))

/-! ### Delivery -/

/-- Write a lane's loaded value to a destination (R169, R201). -/
def Dest.write (d : Dest) (g : Group) (lane v : Nat) : Group :=
  if d.regs = 1 ∧ d.width < 4 then
    let m := v % 256 ^ d.width
    g.setReg d.reg lane (BitVec.ofNat 32
      (if d.sext ∧ m ≥ 256 ^ d.width / 2 then m + 2 ^ 32 - 256 ^ d.width else m))
  else
    (List.range d.regs).foldl (fun g i => g.setReg (d.reg + i) lane (BitVec.ofNat 32 (v / 2 ^ (32 * i)))) g

/-- A lane's value: its parts by byte offset. -/
def laneValue (ps : List Part) (lane : Nat) : Nat :=
  sumNat ((ps.filter (fun p => p.lane == lane)).map (fun p => p.got.getD 0 * 256 ^ p.idx))

/-- Lanes of a destination: lane 0 stands for a G=1 one. -/
def Dest.laneList (d : Dest) : List Nat := if d.g then [0] else lanesOf d.lanes

/-- Every lane's value into the registers. -/
def Dest.writeAll (d : Dest) (g : Group) (ps : List Part) : Group :=
  d.laneList.foldl (fun g l => d.write g l (laneValue ps l)) g

/-- A result has been written: windows that await it hold no pending operation. -/
def Path.settle (p : Path) (op : Nat) : Path :=
  { p with windows := p.windows.map (fun w => if w.op == some op then { w with op := none } else w) }

def Group.settle (g : Group) (op : Nat) : Group :=
  { g with paths := g.paths.map (fun p => p.settle op) }

/-! ### Paths -/

def Group.path? (g : Group) (i : Nat) : Option Path := g.paths.find? (fun p => p.id == i)

def Group.setPath (g : Group) (p : Path) : Group :=
  { g with paths := updFirst (fun (x : Path) => x.id == p.id) (fun _ => p) g.paths }

def Group.dropPath (g : Group) (i : Nat) : Group :=
  { g with paths := g.paths.filter (fun p => p.id != i) }

/-- A number that no path of the group has (model's own). -/
def Group.freshPath (g : Group) : Nat := Nat.max g.nextPath (maxNat (g.paths.map (fun (p : Path) => p.id + 1)))

/-- Live lanes of the group. -/
def Group.live (g : Group) : Mask := g.paths.foldl (fun m p => m ||| p.mask) 0

def Group.slotPath? (g : Group) (n : Fin 2) : Option Path :=
  g.paths.find? (fun p => p.place == .slot n)

/-- The group's other slot. -/
def otherSlot (n : Fin 2) : Fin 2 := if n = 0 then 1 else 0

/-- The WID of a lane. -/
def Group.widOf (g : Group) (lane : Nat) : Nat :=
  match g.threads.find? (fun t => t.1 == lane) with
  | some t => t.2.wid
  | none => 0

def Group.thread? (g : Group) (lane : Nat) : Option Thread :=
  (g.threads.find? (fun t => t.1 == lane)).map (·.2)

/-- Lowest WID of a set of lanes. -/
def Group.lowWid (g : Group) (m : Mask) : Nat :=
  match leastBy (fun x => x) ((lanesOf m).map g.widOf) with
  | some w => w
  | none => 0

/-- States of R297. -/
inductive GState where
  | running | parked | handler | halted | dissolving | draining | saved
deriving DecidableEq, Repr

/-- Waits in which a path counts as parked (R156, R297). -/
def Park.parked : Park → Bool
  | .rcv _ | .safept _ | .bar _ _ _ | .talloc _ _ _ | .qpop _ | .tlwait _ _ _ _ _ _ | .mwaitr _ _ _
  | .mrecv | .reorder _ => true
  | _ => false

/-- A wait for a translation, which comes between an instruction and its own wait (R377, R380). -/
def Park.translates : Park → Bool
  | .walk _ | .fetch _ | .hostFault .. => true
  | _ => false

/-- The wait of a path's instruction itself. -/
def Path.wait? (p : Path) : Option Park :=
  match p.park with
  | some k => if k.translates then p.resume else some k
  | none => none

/-- Change that wait. -/
def Path.mapWait (p : Path) (f : Park → Park) : Path :=
  { p with park := p.park.map f, resume := p.resume.map f }

/-- Put a path into a wait. -/
def Path.waitAt (p : Path) (k : Park) : Path :=
  { p with park := some k, resume := if k.translates then p.wait? else none, woken := false }

/-- No storage key. -/
def noKey : Nat := 2 ^ 64

/-- A `tlwait` is to translate its address again. -/
def Park.retranslate : Park → Park
  | .tlwait _ va thr e y d => .tlwait noKey va thr e y d
  | k => k

/-- Fragments of the group in the queue (R301). -/
def Group.fragments (g : Group) : List Path :=
  g.paths.filter (fun p => match p.place with | .queued _ _ => true | _ => false)

/-- Every path of the group, those of a handler frame included (R316). -/
def Group.allPaths (g : Group) : List Path :=
  g.paths ++ (match g.frame with | some f => f.paths | none => [])

/-- Replace a path among those of the group, a handler frame's included. -/
def Group.setAnyPath (g : Group) (p : Path) : Group :=
  let put := updFirst (fun (x : Path) => x.id == p.id) (fun _ => p)
  { g with paths := put g.paths, frame := g.frame.map (fun f => { f with paths := put f.paths }) }

/-- A path among those of the group, a handler frame's included. -/
def Group.anyPath? (g : Group) (i : Nat) : Option Path := g.allPaths.find? (fun p => p.id == i)

/-- A path that is stalled after the issue of its instruction, with its group, which is not saved (R256). -/
def State.stalledIn (s : State) (i : GroupId) (path : Nat) : Option (Group × Path × Park) :=
  match (s.group? i).filter (fun g => g.phase != .saved) with
  | none => none
  | some g => match g.anyPath? path with
    | none => none
    | some p => p.park.map (fun k => (g, p, k))

/-- The record number of a fragment, which it keeps in a slot too (R305). -/
def Path.record? (p : Path) : Option Nat :=
  match p.place with
  | .queued r _ => some r
  | .slot _ => p.kept
  | .detached => none

/-- Fragment records in use (R305, R316). -/
def Group.recordsUsed (g : Group) : List Nat := g.allPaths.filterMap Path.record?

/-- Lowest free record number: 0 to 29, and 30 or 31 only where those are taken (R305) (log 52, DEDUCED). -/
def Group.freeRecord (g : Group) : Nat :=
  ((List.range 32).find? (fun r => !g.recordsUsed.contains r)).getD 31

/-- Groups that hold slots of a core. -/
def State.coreGroups (s : State) (cluster core : Nat) : List Group :=
  s.groups.filter (fun g => g.id.cluster == cluster && g.id.core == core)

/-- The path is a spilled fragment. -/
def Path.spilledFrag (p : Path) : Bool :=
  match p.place with
  | .queued _ spilled => spilled
  | _ => false

/-- A queued fragment whose record is in the split table. -/
def Path.inTable (p : Path) : Bool :=
  match p.place with
  | .queued _ spilled => !spilled
  | _ => false

/-- Split-table entries in use on a core (R301). -/
def State.splitUsed (s : State) (cluster core : Nat) : Nat :=
  sumNat ((s.coreGroups cluster core).map (fun g => (g.allPaths.filter Path.inTable).length))

/-- Spilled fragments of a core, by group (R301). -/
def State.spilledOn (s : State) (cluster core : Nat) : List (Group × Path) :=
  (s.coreGroups cluster core).flatMap (fun g => (g.allPaths.filter Path.spilledFrag).map (fun p => (g, p)))

/-- A split-table entry is free for a new fragment: an entry that has freed goes to the core's oldest spilled
fragment first (R301). -/
def State.tableFree (s : State) (cluster core : Nat) : Bool :=
  decide (s.splitUsed cluster core + (s.spilledOn cluster core).length < 64)

/-- Put a path into the fragment queue at a TIME (R301, R302): in the split table if an entry is free, else
spilled, and the detach counts as a spill. A fragment keeps its record number (R305). -/
def State.enqueueAt (s : State) (time : Nat) (g : Group) (p : Path) : Group × Path :=
  let spilled := !s.tableFree g.id.cluster g.id.core
  let p := { p with place := .queued (p.record?.getD g.freeRecord) spilled, dtime := time, kept := none }
  let g := if spilled then { g with spills := Nat.min 0xFFFF (g.spills + 1) } else g
  (g, p)

def State.enqueue (s : State) (g : Group) (p : Path) : Group × Path := s.enqueueAt s.time g p

/-- A completion interrupt is due: the group vectors at its next instruction boundary (R209). -/
def Group.vectorDue (g : Group) : Bool := !g.intPend.isEmpty && g.handler != 0 && g.frame.isNone

/-- The last eight episodes of the group are memory episodes (R310). -/
def Group.memoryBound (g : Group) : Bool := g.history.length == 8 && g.history.all (fun m => m)

/-- MAXFRAG follows the queue (R315). -/
def Group.noteFrag (g : Group) : Group :=
  { g with maxFrag := Nat.min 30 (Nat.max g.maxFrag g.fragments.length) }

end Sys2Proof.Machine
end

