-- ==== Sys2Proof/Machine/Info.lean ====
section
/-! DEFINITION. What the issue stage reads from a decoded instruction: the registers it names
(R104, R138), its lookahead count (R137), whether it ends windows (R139), its fence classes (R470),
and the header limits of decode step 5 (R144). -/

namespace Sys2Proof

/-- What issue needs to know of an instruction. -/
structure Info where
  /-- Register codes read in the path's own lanes, or group-wide. -/
  src : List Nat := []
  /-- Register codes written. -/
  dst : List Nat := []
  /-- Vector sources are read in other lanes too (R138). -/
  cross : Bool := false
  la : Nat := 0
  /-- Ends every open window (R139). -/
  ends : Bool := false
  /-- Fence classes (R470). -/
  load : Bool := false
  store : Bool := false
  release : Bool := false
  /-- Raises PRIVILEGED in a context without privilege (R144 step 6). -/
  priv : Bool := false

/-- `n` registers from `r`. -/
def Reg.run (r : Reg) (n : Nat) : List Nat := (List.range n).map (r.code + ·)

def Src.run (x : Src) (n : Nat) : List Nat :=
  match x with
  | .reg r => r.run n
  | .imm _ => []

/-- Group-wide registers from s_a. -/
def sRun (a : Fin 64) (n : Nat) : List Nat := (List.range n).map (192 + a.val + ·)

def optRun (a : Option (Fin 64)) (n : Nat) : List Nat :=
  match a with
  | some a => sRun a n
  | none => []

def optReg (r : Option Reg) (n : Nat) : List Nat :=
  match r with
  | some r => r.run n
  | none => []

/-- Registers of an address: the base is a pair in .g (R196). -/
def Addr.run (a : Addr) (sp : Space) : List Nat :=
  optReg a.base (if sp = .g then 2 else 1) ++ optReg a.index 1

/-- Registers of a copy address (R202). -/
def copyRun (r : Reg) (sp : Space) : List Nat := r.run (if sp = .g ∨ sp = .h then 2 else 1)

def AluForm.info (f : AluForm) (bn : Nat) : Info where
  src := f.a.run f.ty.regs ++ f.b.run bn
  dst := f.d.run f.ty.regs

def UnForm.info (f : UnForm) (dn : Nat) : Info where
  src := f.a.run f.ty.regs
  dst := f.d.run dn

def MadForm.info (f : MadForm) : Info where
  src := f.a.run f.ty.regs ++ f.b.run f.ty.regs ++ f.c.run f.ty.regs
  dst := f.d.run f.ty.regs

def MadForm.infoBfi (f : MadForm) : Info where
  src := f.a.run f.ty.regs ++ f.b.run f.ty.regs ++ f.c.run 1
  dst := f.d.run f.ty.regs

def CarryForm.info (f : CarryForm) : Info where
  src := f.a.run f.ty.regs ++ f.b.run f.ty.regs
  dst := f.d.run f.ty.regs

def DivForm.info (f : DivForm) : Info where
  src := f.a.run f.ty.regs ++ f.b.run f.ty.regs
  dst := f.d.run f.ty.regs
  la := f.la.val

def FAluForm.info (f : FAluForm) : Info where
  src := f.a.run 1 ++ f.b.run 1
  dst := f.d.run 1

def FUnForm.info (f : FUnForm) : Info where
  src := f.a.run 1
  dst := f.d.run 1

def FLongForm.info (f : FLongForm) : Info where
  src := f.a.run 1
  dst := f.d.run 1
  la := f.la.val

def RedForm.info (f : RedForm) : Info where
  src := f.a.run f.ty.regs
  dst := f.d.run f.ty.regs
  cross := true
  la := f.la.val

def MSpace.toSpace : MSpace → Space
  | .c => .c
  | .k => .k
  | .x => .x
  | .h => .h

/-- The instruction's own part of issue. Events have none. -/
def Instr.info : Instr → Info
  | .jmpi _ a => { src := sRun a 2 }
  | .callReg _ a => { src := sRun a 2 }
  | .brd .. | .rcv .. | .exit .. | .safept | .safeptMask .. | .trap .. | .trapBreak .. | .tret
  | .halt .. | .yield .. => { ends := true }
  | .getsr f => { dst := f.d.run f.sel.regs }
  | .mov f => { src := f.a.run (wregs f.w64), dst := f.d.run (wregs f.w64) }
  | .movi32 f => { dst := f.d.run 1 }
  | .movi64 f => { dst := f.d.run 2 }
  | .sel f => { src := f.a.run (wregs f.w64) ++ f.b.run (wregs f.w64), dst := f.d.run (wregs f.w64) }
  | .setsr _ a => { src := sRun a 2, ends := true }
  | .setq _ _ a => { src := sRun a 1 }
  | .vote _ v => match v with
    | .ballot d _ => { dst := sRun d 1 }
    | .eq _ a => { src := (Reg.v a).run 1, cross := true }
    | _ => {}
  | .bcast _ w64 d a l =>
    { src := (Reg.v a).run (wregs w64) ++ optRun l 1, dst := sRun d (wregs w64), cross := true }
  | .bcastImm _ w64 d a _ =>
    { src := (Reg.v a).run (wregs w64), dst := sRun d (wregs w64), cross := true }
  | .actm _ d => { dst := sRun d 1 }
  | .popc _ d a | .ffs _ d a => { src := sRun a 1, dst := sRun d 1 }
  | .add f | .sub f | .mul f | .mulhi f | .min f | .max f | .and f | .or f | .xor f | .andn f =>
    f.info f.ty.regs
  | .shl f | .shr f | .sar f | .rot f | .bfe f => f.info 1
  | .mad f => f.info
  | .bfi f => f.infoBfi
  | .abs f | .neg f | .not f | .brev f | .bcnt f | .clz f => f.info f.ty.regs
  | .cmp f => { src := f.a.run f.ty.regs ++ f.b.run f.ty.regs }
  | .addc f | .subc f => f.info
  | .div f | .rem f => f.info
  | .fadd f | .fsub f | .fmul f | .fmin f | .fmax f => f.info
  | .fma f => { src := f.a.run 1 ++ f.b.run 1 ++ f.c.run 1, dst := f.d.run 1 }
  | .fabs f | .fneg f | .fclass f => f.info
  | .fcmp f => { src := f.a.run 1 ++ f.b.run 1 }
  | .rcp f | .rsqrt f | .sqrt f | .exp2 f | .log2 f | .sinpi f | .tanh f => f.info
  | .dot2 f => { src := f.a.run 1 ++ f.b.run 1 ++ f.c.run 1, dst := f.d.run 1 }
  | .cvt f => { src := f.a.run f.src.regs, dst := f.d.run f.dst.regs }
  | .prmb f => { src := f.a.run 1 ++ optReg f.b 1 ++ f.c.run 1, dst := f.d.run 1 }
  | .shfl f =>
    { src := f.a.run (wregs f.w64) ++ f.b.run 1, dst := f.d.run (wregs f.w64), cross := true }
  | .lred f | .lscan f => f.info
  | .topk f =>
    { src := f.a.run f.ty.regs, dst := f.d.run (if f.rank then 1 else f.ty.regs), cross := true,
      la := f.la.val }
  | .ld f => { src := f.addr.run f.space, dst := f.d.run f.ty.regs, la := f.la.val, load := true }
  | .st f => { src := f.addr.run f.space ++ f.data.run f.ty.regs, store := true }
  | .ldv f => { src := f.addr.run f.space, dst := f.d.run f.size.regs, la := f.la.val, load := true }
  | .stv f => { src := f.addr.run f.space ++ f.data.run f.size.regs, store := true }
  | .cpa f =>
    { src := copyRun f.a f.dspace ++ copyRun f.b f.sspace ++ sRun f.c 1, load := true, store := true }
  | .cellInit f => { src := sRun f.a 1 ++ sRun f.b 1 ++ sRun f.c 1, store := true }
  | .cellArrive f => { src := sRun f.a 1 ++ sRun f.b 1, dst := sRun f.d 1, store := true }
  | .cellWait f => { src := sRun f.a 1 ++ optRun f.b 2, ends := true }
  | .cellTest f => { src := sRun f.a 1 ++ optRun f.b 2 }
  | .cellArm f => { src := sRun f.a 1, store := true }
  | .waitc _ _ t => match t with
    | .reg r => { src := sRun r 1, ends := true }
    | .imm _ => { ends := true }
  | .fenceRel .. | .fenceAcq .. | .fenceSc .. => { ends := true }
  | .atom f =>
    { src := f.base.run (if f.x then 1 else 2) ++ f.b.run (wregs f.w64) ++ optReg f.c (wregs f.w64),
      dst := f.d.run (wregs f.w64), la := f.la.val, load := true, store := true }
  | .red f => { src := f.base.run (if f.x then 1 else 2) ++ f.b.run (wregs f.w64), store := true }
  | .ldr f =>
    { src := f.base.run (if f.x then 1 else 2), dst := f.d.run (wregs f.w64), la := f.la.val,
      load := true }
  | .stc f =>
    { src := f.base.run (if f.x then 1 else 2) ++ f.b.run (wregs f.w64), dst := f.d.run 1,
      la := f.la.val, load := true, store := true }
  | .prefetch _ a => { src := a.run .g }
  | .flush _ a | .inval _ a => match a with
    | .all _ => { store := true }
    | .at a => { src := a.run .p, store := true }
  | .bcomp f =>
    { src := sRun f.a (if f.sspace = .g then 2 else 1) ++ sRun f.b (if f.dspace = .g then 2 else 1) ++
        sRun f.c 1, load := true, store := true }
  | .mma f =>
    { src := sRun f.a 1 ++ sRun f.b 1 ++ sRun f.c 4 ++ (match f.var with | .gather _ i => (Reg.v i).run 2 | _ => []),
      cross := true, load := true }
  | .mqinit f => { src := sRun f.a 1 ++ sRun f.b 1, load := true }
  | .mdrain f =>
    { src := sRun f.a (if f.space = .g then 2 else 1) ++ sRun f.b 1, load := f.add,
      store := true }
  | .mload f =>
    { src := sRun f.a (if f.space = .g then 2 else 1) ++ sRun f.b 1, load := true }
  | .talloc _ _ d b => { src := sRun b 1, dst := sRun d 1, ends := true }
  | .tallocImm _ _ d _ => { dst := sRun d 1, ends := true }
  | .tinfo _ d a => { src := sRun a 1, dst := sRun d 1 }
  | .tpart _ _ d b => { src := sRun b 1, dst := sRun d 1 }
  | .qpush _ _ a => { src := sRun a 1, release := true, store := true }
  | .qpop _ _ d => { dst := sRun d 1, ends := true }
  | .qtry _ _ d _ => { dst := sRun d 1 }
  | .qmc _ a b => { src := sRun a 1 ++ sRun b 1, release := true, store := true }
  | .reorder f => { src := f.a.run 1, ends := true }
  | .rinfo f => { dst := f.d.run 1 }
  | .barArrive f => { src := optRun f.cnt 1, release := true, store := true }
  | .barArriveRem f =>
    { src := sRun f.crewReg 1 ++ sRun f.cnt 1 ++ optRun f.team 1, release := true, store := true }
  | .barWait _ => { ends := true }
  | .barSync f => { src := optRun f.cnt 1, ends := true, release := true, store := true }
  | .launch f => { src := sRun f.a 1 ++ sRun f.b 2 ++ optRun f.c 1, release := true, store := true }
  | .tlsig f => { src := sRun f.a 2 ++ sRun f.b 2, release := true, store := true, priv := f.set }
  | .tlwait f => { src := sRun f.a 2 ++ sRun f.b 2, ends := true, load := true }
  | .tlwaitExt f => { src := sRun f.a 2 ++ sRun f.b 2, ends := true, load := true }
  | .msend f => { src := sRun f.a 1 ++ sRun f.b 1 ++ sRun f.c 1, load := true, store := true }
  | .mrecv f =>
    { src := sRun f.a 1 ++ sRun f.b 1 ++ sRun f.c 1, dst := sRun f.d 1, store := true }
  | .mprobe f => { src := sRun f.a 1, dst := sRun f.d 1 }
  | .mwaitr _ _ d a => { src := sRun a 1, dst := sRun d 1, ends := true }
  | .mwaitrExt _ d a _ => { src := sRun a 1, dst := sRun d 1, ends := true }
  | .ratom f =>
    { src := sRun f.a 1 ++ f.b.run 1 ++ sRun f.c (wregs f.w64), dst := optReg f.d (wregs f.w64),
      la := f.la.val, load := f.d.isSome, store := true }
  | .ratomCas f =>
    { src := sRun f.a 1 ++ f.b.run 1 ++ sRun f.c (wregs f.w64) ++ sRun f.e (wregs f.w64),
      dst := optReg f.d (wregs f.w64), la := f.la.val, load := f.d.isSome, store := true }
  | .trace _ a => { src := sRun a 2 }
  | .evt _ _ a => { src := sRun a 1 }
  | .bindw f => { src := sRun f.a 2 ++ sRun f.b 2 ++ sRun f.c 1, release := true, store := true }
  | .unbindw .. => { release := true, store := true }
  | _ => {}

/-- Opcode of an instruction (R127). -/
def Instr.opc (i : Instr) : Nat :=
  match encodeRaw i with
  | some r => r.opc.toNat
  | none => 0

/-- The instruction writes an ISSUE record whenever it issues (R414). -/
def Instr.recorded (i : Instr) : Bool :=
  match i with
  | .brd .. | .rcv .. | .exit .. | .trap .. | .trapBreak .. | .tret | .safept | .safeptMask ..
  | .halt .. => true
  | _ => let o := i.opc
    decide (0x140 ≤ o ∧ o ≤ 0x1F6) || o == 0x1FA || o == 0x1FB || o == 0x1FC

end Sys2Proof

namespace Sys2Proof.Machine

/-- Number of set bits. -/
def popNat (w : Nat) (n : Nat) : Nat := ((List.range n).filter (fun k => w.testBit k)).length

/-- Checks of decode step 5 that read the launch header (R144, R104, R320, R343, R358): true when the
instruction is accepted. -/
def Header.accepts (h : Header) (i : Instr) : Bool :=
  (i.info.src ++ i.info.dst).all
    (fun c => if c < 192 then decide (c < h.nv) else decide (c - 192 < h.ns)) &&
  match i with
  | .safeptMask m =>
    (List.range 32).all (fun k => !m.getLsbD k || decide (if k < 24 then 8 * k < h.nv else 8 * (k - 24) < h.ns))
  | .reorder f =>
    h.keys != 0 && (List.range 24).all (fun k => !f.vmask.getLsbD k || decide (8 * k < h.nv)) &&
      decide (popNat f.vmask.toNat 24 ≤ h.octets) && (!f.merge || h.merge) && (!f.stream || h.stream)
  | .barArrive f => decide (f.b.val < if f.crew then h.cbar else h.tbar)
  | .barSync f => decide (f.b.val < if f.crew then h.cbar else h.tbar)
  | .barWait f => decide (f.b.val < if f.crew then h.cbar else h.tbar)
  | .barArriveRem f => decide (f.b.val < if f.team.isNone then h.cbar else h.tbar)
  | .talloc _ p _ _ => decide (p.val < h.pools.length)
  | .tallocImm _ p _ _ => decide (p.val < h.pools.length)
  | .tpart _ p _ _ => decide (p.val < h.pools.length)
  | .qpush _ q _ => decide (q.val < h.hqs.length)
  | .qpop _ q _ => decide (q.val < h.hqs.length)
  | .qtry _ q _ _ => decide (q.val < h.hqs.length)
  | _ => true

end Sys2Proof.Machine
end

