-- ==== Sys2Proof/Machine/Wait.lean ====
section
/-! DEFINITION. When a wait is over: completion cells (R204, R208), tiles and handle queues (R353,
R359, R366), barriers (R345), timelines (R279), receives (R404), translations (R377, R380). -/

namespace Sys2Proof.Machine

/-! ### Completion cells (R204) -/

/-- The fields of a cell, read from its 32 bytes. -/
structure Cell where
  packed : Nat
  bitmap : Nat
  chunkBase : Nat
  armCore : Nat
  armSlot : Nat
  fault : Nat
  track : Bool
  arm : Bool
  phase : Bool
  arrived : Nat
  target : Nat
  /-- COUNT as stored, 32 bits. -/
  count : Nat
deriving DecidableEq, Repr

def Cell.ofNat (c : Nat) : Cell where
  packed := bits c 223 192
  bitmap := bits c 191 128
  chunkBase := bits c 127 96
  armCore := bits c 95 91
  armSlot := bits c 90 85
  fault := bits c 79 72
  track := c.testBit 66
  arm := c.testBit 65
  phase := c.testBit 64
  arrived := bits c 63 48
  target := bits c 47 32
  count := bits c 31 0

def Cell.toNat (c : Cell) : Nat :=
  c.count + c.target * 2 ^ 32 + c.arrived * 2 ^ 48 + bit01 c.phase * 2 ^ 64 + bit01 c.arm * 2 ^ 65 +
  bit01 c.track * 2 ^ 66 + c.fault * 2 ^ 72 + c.armSlot * 2 ^ 85 + c.armCore * 2 ^ 91 +
  c.chunkBase * 2 ^ 96 + c.bitmap * 2 ^ 128 + c.packed * 2 ^ 192

def State.cell (s : State) (r : CellRef) : Cell := .ofNat (s.read r.key 32)

def State.setCell (s : State) (r : CellRef) (c : Cell) : State := s.write r.key 32 c.toNat

/-- The condition of `cell.wait` and `cell.test` (R208). -/
def Cell.met (c : Cell) (phase : Bool) (mask : Option Nat) : Bool :=
  c.phase != phase || (match mask with
    | some m => c.bitmap &&& m == m
    | none => false)

/-- A pre-emption of the context is requested (R156). -/
def State.preempting (s : State) (c : Nat) : Bool :=
  match s.ctx? c with
  | some x => x.preempt.isSome
  | none => false

/-! ### Tiles (R353) -/

def Tile.free : Tile where
  st := .free
  gen := 0
  count := 0
  pend := 0
  adm := 0

def Partition.tile (p : Partition) (i : Nat) : Tile := SMap.get .free p.tiles i

def Partition.setTile (p : Partition) (i : Nat) (t : Tile) : Partition :=
  { p with tiles := SMap.set .free p.tiles i t }

/-- The FREE tiles of a partition of `n` tiles, ascending, without those granted already. -/
def Partition.freeTiles (p : Partition) (n : Nat) (granted : List Nat) : List Nat :=
  (List.range n).filter (fun i => (p.tile i).st == .free && !granted.contains i)

/-- The tile that a `talloc` takes when `granted` tiles are granted to waiting paths and `ahead` more go to
others (R359, R360). -/
def Partition.grant (p : Partition) (n : Nat) (granted : List Nat) (ahead : Nat) : Option Nat :=
  if p.heldn + granted.length + ahead < p.lim then (p.freeTiles n granted)[ahead]? else none

def Crew.part? (c : Crew) (p : Nat) : Option Partition := c.parts[p]?

def Crew.setPart (c : Crew) (p : Nat) (x : Partition) : Crew := { c with parts := c.parts.set p x }

def Header.tiles (h : Header) (p : Nat) : Nat :=
  match h.pools[p]? with
  | some d => d.tiles
  | none => 0

/-- Groups of a crew. -/
def State.crewGroups (s : State) (kid crew : Nat) : List Group :=
  s.groups.filter (fun g => g.kid == kid && g.crew == crew)

/-- Lowest WIDs of the other paths of the crew whose wait satisfies `f`. -/
def State.waiters (s : State) (g : Group) (p : Path) (f : Park → Bool) : List Nat :=
  (s.crewGroups g.kid g.crew).flatMap (fun h => h.paths.filterMap (fun q =>
    if h.id == g.id && q.id == p.id then none
    else match q.park with
      | some k => if f k then some (h.lowWid q.mask) else none
      | none => none))

/-- The tile of a pool granted to a wait in `talloc`. -/
def Park.grantOf (pool : Nat) : Park → Option Nat
  | .talloc q _ t => if q == pool then t else none
  | _ => none

/-- A wait in `talloc` on a pool with no tile granted. -/
def Park.wantsTile (pool : Nat) : Park → Bool
  | .talloc q _ t => q == pool && t.isNone
  | _ => false

/-- Take back a grant: the wait goes on without a tile (R256, R360). -/
def Park.ungrant : Park → Park
  | .talloc q n _ => .talloc q n none
  | k => k

/-- Tiles of a partition that are granted to waiting paths of a crew (R360). -/
def State.grants (s : State) (kid crew pool : Nat) : List Nat :=
  (s.crewGroups kid crew).flatMap (fun h => h.paths.filterMap (fun q => q.wait?.bind (Park.grantOf pool)))

def Park.isQpop (h : Nat) : Park → Bool
  | .qpop q => q == h
  | _ => false

/-- The tile that a `talloc` of a crew's group takes: FREE, granted to no waiting path, with `ahead` tiles left
for others (R359, R360). A tile goes to a waiting path as it becomes FREE, and that path takes it when it issues
(log 58, DEDUCED). -/
def State.tallocTile (s : State) (g : Group) (pool ahead : Nat) : Option Nat :=
  match (s.groupCrew g).bind (fun c => c.part? pool) with
  | some x => x.grant (g.hdr.tiles pool) (s.grants g.kid g.crew pool) ahead
  | none => none

/-- The waiting path of a crew without a tile whose lowest WID is lowest (R360). -/
def State.nextTaker (s : State) (kid crew pool : Nat) : Option (Group × Path) :=
  leastBy (fun (x : Group × Path) => x.1.lowWid x.2.mask)
    ((s.crewGroups kid crew).flatMap (fun h => if h.phase != .live then [] else
      (h.paths.filter (fun q => q.park.any (Park.wantsTile pool))).map (fun q => (h, q))))

/-- A FREE tile of a partition is granted to the waiting path whose turn it is, while there are both (R360); a
context that is being pre-empted takes none (R256). -/
def State.grantPool (s : State) (kid crew pool : Nat) : Nat → State
  | 0 => s
  | fuel + 1 => match s.nextTaker kid crew pool with
    | none => s
    | some (h, q) =>
      if s.preempting h.ctx then s
      else match s.tallocTile h pool 0, q.park with
        | some i, some (.talloc _ n _) =>
          State.grantPool (s.setGroup (h.setPath { q with park := some (.talloc pool n (some i)) })) kid crew pool fuel
        | _, _ => s

/-- Every partition on which a path waits. -/
def State.grantTiles (s : State) : State :=
  s.groups.foldl (fun (s : State) g => g.paths.foldl (fun (s : State) q => match q.park with
    | some (.talloc pool _ none) => s.grantPool g.kid g.crew pool 64
    | _ => s) s) s

/-! ### Handle queues (R364) -/

/-- The visible head slot of a queue. -/
def HQueue.head? (q : HQueue) : Option Word :=
  match q.slots with
  | (_, some h) :: _ => some h
  | _ => none

/-- The handle offered to this path by `qpop` (R366). -/
def State.qpopHead (s : State) (g : Group) (p : Path) (h : Nat) : Option Word :=
  match s.groupCrew g with
  | none => none
  | some c =>
    if (s.waiters g p (Park.isQpop h)).any (fun w => w < g.lowWid p.mask) then none
    else match c.hqs[h]? with
      | some q => q.head?
      | none => none

/-! ### Barriers (R337, R338) -/

def BarEntry.empty : BarEntry where
  phase := false
  expl := false
  gone := 0
  target := 0
  live := 0
  arr := 0

/-- Barrier b of a team, or of the crew. -/
def Crew.bar? (c : Crew) (team : Option Nat) (b : Nat) : Option BarEntry :=
  match team with
  | none => c.crewBars[b]?
  | some t => match c.teamBars[t]? with
    | some l => l[b]?
    | none => none

def Crew.setBar (c : Crew) (team : Option Nat) (b : Nat) (e : BarEntry) : Crew :=
  match team with
  | none => { c with crewBars := c.crewBars.set b e }
  | some t => { c with teamBars := c.teamBars.modify t (fun l => l.set b e) }

/-- Storage key of a byte of a crew's scratch SRAM, or of its saved image (R255). -/
def Crew.sramKey (c : Crew) (core off : Nat) : Nat :=
  match c.image with
  | none => scratchKey c.cluster core off
  | some b => b + core * 2 ^ 20 + off

/-- Storage key of the arrival word of a home slot of a team (R339). -/
def Crew.wordKey (c : Crew) (team home : Nat) : Nat :=
  match c.teams[team]? with
  | some x => c.sramKey x.home (x.awbase + 4 * home)
  | none => 0

/-- Storage key of a thread's arrival word (R339). -/
def Crew.arrivalKey (c : Crew) (t : Thread) : Nat := c.wordKey t.team t.home

/-- Bit of the arrival word for a barrier (R338). -/
def aphBit (crew : Bool) (b : Nat) : Nat := if crew then 16 + b else b

/-- A thread has an arrival pending at a barrier (R338). -/
def State.pending (s : State) (c : Crew) (t : Thread) (crewBar : Bool) (b : Nat) : Bool :=
  match c.bar? (if crewBar then none else some t.team) b with
  | some e => (s.read (c.arrivalKey t) 4).testBit (aphBit crewBar b) == e.phase
  | none => false

/-- Some lane of the mask has an arrival pending (R345). -/
def State.anyPending (s : State) (g : Group) (lanes : Mask) (crewBar : Bool) (b : Nat) : Bool :=
  match s.groupCrew g with
  | none => false
  | some c => (lanesOf lanes).any (fun l => match g.thread? l with
    | some t => s.pending c t crewBar b
    | none => false)

/-! ### The rest -/

/-- A cached leaf for a page of a context in a cluster (R377). -/
def State.tlb? (s : State) (cluster ctx va : Nat) : Option TlbLeaf :=
  s.page.tlb.find? (fun t => t.cluster == cluster && t.ctx == ctx && t.page == va / 2 ^ t.bits * 2 ^ t.bits)

/-- The receive of an id, on a cluster (R402). -/
def State.posted? (s : State) (cluster rid : Nat) : Option Posted :=
  s.links.posted.find? (fun p => p.cluster == cluster && p.entry == rid % 128 && p.gen == rid / 256 % 256)

/-- The trace FIFO of a core (R425). -/
def State.fifo (s : State) (cluster core : Nat) : List (Nat × List Nat) :=
  match s.recorder.fifos.find? (fun f => f.1 == cluster * 24 + core) with
  | some f => f.2
  | none => []

/-- Engine number of a quad, and the engine (R220). -/
def engineNum (cluster core : Nat) : Nat := cluster * 6 + core / 4

def Engine.start : Engine where
  entries := []
  tiles := []
  metas := []
  last := 0

def State.engine (s : State) (n : Nat) : Engine :=
  match s.engines.find? (fun e => e.1 == n) with
  | some e => e.2
  | none => .start

def State.setEngine (s : State) (n : Nat) (e : Engine) : State :=
  { s with engines := upsert (fun x => x.1 == n) (n, e) s.engines }

def Group.engineNum (g : Group) : Nat := Machine.engineNum g.id.cluster g.id.core

/-- The bound tile of a group by its number. -/
def Engine.tile? (e : Engine) (g : GroupId) (z : Nat) : Option AccTile :=
  e.tiles.find? (fun t => t.owner == g && t.z == z)

/-- Tile numbers of a mask. -/
def maskTiles (m : BitVec 4) : List Nat := (List.range 4).filter (fun k => m.getLsbD k)

/-- The engine has unbound tiles for the mask, and none of them is still to be unbound (R226). -/
def State.canBind (s : State) (g : Group) (mask : BitVec 4) : Bool :=
  let e := s.engine g.engineNum
  decide (e.tiles.length + (maskTiles mask).length ≤ 32) &&
    (maskTiles mask).all (fun z => (e.tile? g.id z).isNone)

/-- The conditions of an arrival at `reorder` on the group's accesses (R72, R94, R321). -/
def State.drained (s : State) (g : Group) : Bool :=
  g.flights.all (fun f => f.path == 5) && decide (g.twMax ≤ s.time)

/-- Why a matrix instruction waits for the reservation table: 8 for the ninth entry of its group, 7
for a full table (R221). -/
def State.tableHold (s : State) (g : Group) : Option Bool :=
  let e := s.engine g.engineNum
  if e.entries.length ≥ 32 then some false
  else if (e.entries.filter (fun x => x.gid == g.id)).length ≥ 8 then some true else none

/-- The condition of a `tlwait` is met: it has been released, which leaves threshold 0, or the word has reached
the threshold and the timeout has not passed (R276, R279). -/
def State.tlMet (s : State) (key thr : Nat) (deadline : Option Nat) : Bool :=
  decide (thr ≤ s.read key 8) && (decide (thr = 0) || (match deadline with
    | some d => decide (s.time ≤ d)
    | none => true))

/-- The wait of a path is over: its instruction may be evaluated again. Waits that end by an event of
their own answer false. -/
def State.waitOver (s : State) (g : Group) (p : Path) (k : Park) : Bool :=
  match k with
  | .rcv _ | .push .. | .barArrive .. | .launch .. | .tlsig .. | .bindw .. => false
  | .reorder _ => s.drained g
  | .mres mask => s.canBind g mask
  | .safept _ => !s.preempting g.ctx
  | .yield n => decide (s.clock ≥ n)
  | .cell c ph m _ => (s.cell c).met ph m
  | .bar b crew lanes => !s.anyPending g lanes crew b
  | .talloc _ _ tile => !s.preempting g.ctx && tile.isSome
  | .qpop h => (s.qpopHead g p h).isSome
  | .tlwait key _ thr _ _ dl => p.timedOut || decide (key = noKey) || s.tlMet key thr dl
  | .mwaitr rid _ _ => p.timedOut || (match s.posted? g.id.cluster rid with
    | some x => x.status.isSome
    | none => true)
  | .mrecv => decide ((s.links.posted.filter (fun x => x.cluster == g.id.cluster)).length < 128)
  | .trace => decide ((s.fifo g.id.cluster g.id.core).length < 256)
  | .walk pages => pages.all (fun v => (s.tlb? g.id.cluster g.ctx v).isSome ||
      p.failed.any (fun f => f.1 == v))
  | .fetch v => (s.tlb? g.id.cluster g.ctx v).isSome || p.failed.any (fun f => f.1 == v)
  | .hostFault todo pages _ => p.failed.any (fun f => f.2.2 && pages.contains f.1) || (todo.isEmpty &&
      pages.all (fun v => !s.page.recs.any (fun r => r.ctx == g.ctx && r.page == v)))
  | .table _ => (s.tableHold g).isNone

/-- A path stands in a wait that R156 counts as parked, and its condition is unmet (R297). -/
def State.parked (s : State) (g : Group) (p : Path) : Bool :=
  match p.park with
  | some k => k.parked && !s.waitOver g p k
  | none => false

/-- The state of a group (R297, R298). -/
def State.groupState (s : State) (g : Group) : GState :=
  match g.phase with
  | .halted => .halted
  | .dissolving => .dissolving
  | .draining => .draining
  | .saved => .saved
  | .live =>
    if g.frame.isSome then .handler
    else if g.paths.all (s.parked g) then .parked else .running

/-- A path that may not be evaluated yet. -/
def State.waits (s : State) (g : Group) (p : Path) : Bool :=
  match p.park with
  | some k => !s.waitOver g p k
  | none => false

end Sys2Proof.Machine
end

