-- ==== Sys2Proof/Machine/Ops.lean ====
section
/-! DEFINITION. The recorder ring (R411 to R417), exit records (R315), containment (R263), taking a
trap and returning from the handler (R153 to R155, R259, R260), and the issue stage that every
instruction passes (R136 to R141, R144, R470). -/

namespace Sys2Proof.Machine

/-! ### The recorder ring -/

/-- A ring as power-up leaves it (R411). -/
def Ring.start (cluster core : Nat) : Ring where
  cluster := cluster
  core := core
  head := 0
  recs := []
  tb := none
  since := 0
  clock := 0
  tail := 0
  frozen := false
  ctime := 0

def State.ring (s : State) (cluster core : Nat) : Ring :=
  match s.recorder.rings.find? (fun r => r.cluster == cluster && r.core == core) with
  | some r => r
  | none => .start cluster core

def State.setRing (s : State) (r : Ring) : State :=
  { s with recorder := { s.recorder with
      rings := upsert (fun x => x.cluster == r.cluster && x.core == r.core) r s.recorder.rings } }

/-- A record of R412. -/
def recordWord (kind ctx slot time body : Nat) : Nat :=
  body % 2 ^ 78 + time % 2 ^ 32 * 2 ^ 78 + slot % 64 * 2 ^ 110 + ctx % 256 * 2 ^ 116 + kind * 2 ^ 124

/-- Write a record at HEAD (R411). -/
def Ring.put (r : Ring) (w : Nat) : Ring :=
  { r with recs := SMap.set 0 r.recs r.head w, head := (r.head + 1) % 4096, since := r.since + 1, tail := r.tail + 1 }

/-- Write a TIMEBASE record; where it gives another TIME[63:32] no record passes it (log 24, DEDUCED). -/
def Ring.timebase (r : Ring) (time : Nat) : Ring :=
  let hi := time / 2 ^ 32 % 2 ^ 32
  let same := decide (r.tb = some hi)
  let r := r.put (recordWord 1 0 0 time (hi * 2 ^ 46))
  { r with tb := some hi, since := 0, tail := if same then r.tail else 0 }

/-- Write a record, with a TIMEBASE before it where R414 asks for one. -/
def Ring.record (r : Ring) (kind ctx slot time body : Nat) : Ring :=
  if r.frozen then r
  else
    let r := if r.tb != some (time / 2 ^ 32 % 2 ^ 32) || decide (r.since ≥ 1022)
      then r.timebase time else r
    r.put (recordWord kind ctx slot time body)

/-- Order of the records of one clock: group slot, then kind (R414). -/
def recordRank (w : Nat) : Nat := w / 2 ^ 110 % 64 * 16 + w / 2 ^ 124

/-- The record is of a group: ISSUE to USER. -/
def groupRecord (w : Nat) : Bool := decide (2 ≤ w / 2 ^ 124 ∧ w / 2 ^ 124 ≤ 6)

/-- Move the record at index `i` before the records of groups that it precedes (R414), among the `n` records before
index `j`; records of no group keep their places. -/
def Ring.sink (r : Ring) (i j : Nat) : Nat → Ring
  | 0 => r
  | n + 1 =>
    let j := (j + 4095) % 4096
    let a := SMap.get 0 r.recs j
    let b := SMap.get 0 r.recs i
    if !groupRecord a then r.sink i j n
    else if recordRank b < recordRank a then
      Ring.sink { r with recs := SMap.set 0 (SMap.set 0 r.recs j b) i a } j j n
    else r

/-- Write a record of a group: those of one clock stand in ascending slot, and those of one group in the order
of R414. -/
def Ring.recordGroup (r : Ring) (clock kind ctx slot time body : Nat) : Ring :=
  if r.frozen then r
  else
    let t := r.record kind ctx slot time body
    let i := (t.head + 4095) % 4096
    let n := if r.clock = clock then t.tail - 1 else 0
    { t.sink i i n with clock := clock, tail := n + 1 }

def State.record (s : State) (cluster core kind ctx slot body : Nat) : State :=
  s.setRing ((s.ring cluster core).record kind ctx slot (s.coreTime cluster core) body)

/-- PCW (R259): words from the start of the kernel's text. -/
def Group.pcw (g : Group) (pc : DWord) : Nat := (pc - BitVec.ofNat 64 g.hdr.text).toNat / 4 % 2 ^ 28

def State.recordG (s : State) (g : Group) (kind body : Nat) : State :=
  s.setRing ((s.ring g.id.cluster g.id.core).recordGroup s.clock kind g.ctx g.id.slot
    (s.coreTime g.id.cluster g.id.core) body)

/-- SCHED record (R415) (log 24, DEDUCED). -/
def State.sched (s : State) (g : Group) (event : Nat) (mask : Mask) (pc : DWord) (arg : Nat) : State :=
  s.recordG g 4 (event * 2 ^ 72 + mask.toNat * 2 ^ 40 + g.pcw pc * 2 ^ 12 + arg % 2 ^ 12)

/-- UNIT record (R416). -/
def State.unit (s : State) (cluster core ctx code arg : Nat) : State :=
  s.record cluster core 7 ctx 0 (code * 2 ^ 72 + arg)

/-- Stall reason of a wait (R314). -/
def Park.reason : Park → Nat
  | .rcv _ => 12
  | .fetch _ => 0
  | .safept _ | .tlwait .. | .mwaitr .. | .mrecv | .trace | .walk _ | .hostFault .. => 15
  | .cell .. => 3
  | .bar .. => 4
  | .talloc .. => 5
  | .qpop _ => 6
  | .yield _ => 13
  | .mres _ => 7
  | .table n => if n then 8 else 7
  | .barArrive .. => 4
  | .reorder _ | .push .. | .launch .. | .tlsig .. | .bindw .. => 2

/-- Internal waits (R261). -/
def Park.internal : Park → Bool
  | .bar .. | .talloc .. | .qpop _ | .reorder _ | .rcv _ | .mres _ | .table _ => true
  | .cell _ _ _ ext | .tlwait _ _ _ ext _ _ | .mwaitr _ ext _ => !ext
  | _ => false

/-! ### Interrupts to the host -/

/-- A cause bit of INTCAUSE is set; where it rises and INTEN allows it, its vector is sent (R408). -/
def Links.raise (l : Links) (k : Nat) : Links :=
  { l with
    intcause := l.intcause ||| 2 ^ k
    msix := if !l.intcause.testBit k && l.inten.testBit k then l.msix ++ [k] else l.msix }

def State.cause (s : State) (k : Nat) : State := { s with links := s.links.raise k }

/-! ### Exit records -/

/-- Base of a context's save area. -/
def Desc.save (d : Desc) : Nat := d.savebase * 2 ^ 16

/-- Write fields of 8 bytes in order. -/
def State.writeWords (s : State) (key : Nat) : List Nat → State
  | [] => s
  | w :: ws => State.writeWords (s.write key 8 w) (key + 8) ws

/-- The doublewords of an exit record (R315). -/
def Group.exitWords (g : Group) (time : Nat) (reordered killed : Bool) : List Nat :=
  [g.age, time, g.widLo,
   g.gval.toNat + g.id.core * 2 ^ 32 + g.id.cluster * 2 ^ 37 + g.ctx * 2 ^ 42 +
     bit01 g.rebuilt * 2 ^ 50 + bit01 reordered * 2 ^ 51 + bit01 killed * 2 ^ 52 +
     Nat.min 4 g.discarded * 2 ^ 53,
   g.issued, g.maxFrag + g.spills * 2 ^ 16, 0, 0] ++
  (List.range 8).map (fun k => (SMap.get 0 g.stall (2 * k)).toNat +
    (SMap.get 0 g.stall (2 * k + 1)).toNat * 2 ^ 32)

/-- Write a group's exit record and its recorder event (R315, R415). -/
def State.exitRecord (s : State) (g : Group) (reordered killed : Bool) : State :=
  let b := (s.desc g.ctx).save
  let n := s.read (b + 0x7FF8) 8
  let s := s.writeWords (b + 0x8000 + 128 * (n % 256)) (g.exitWords s.time reordered killed)
  let s := s.write (b + 0x7FF8) 8 (n + 1)
  s.sched g 14 g.live 0 (bit01 g.rebuilt + 2 * bit01 reordered + 4 * bit01 killed)

/-! ### Reservations -/

/-- The owner of a reservation for a lane, or for the group (R214). -/
def Group.owner (g : Group) (wide : Bool) (lane : Nat) : Owner :=
  if wide then .group g.ctx g.gval.toNat else .thread g.ctx (g.widOf lane)

def State.dropOwner (s : State) (o : Owner) : State :=
  { s with resv := s.resv.filter (fun r => r.owner != o) }

/-- Clear every reservation of a group and of its threads. -/
def State.dropResv (s : State) (g : Group) : State :=
  { s with resv := s.resv.filter (fun r => r.owner != .group g.ctx g.gval.toNat &&
      !(g.threads.any (fun t => r.owner == .thread g.ctx t.2.wid))) }

/-! ### Ramps (R437) -/

/-- Quad island of a core (R23). -/
def quadOf (cluster core : Nat) : Nat := 6 * cluster + core / 4

/-- Some kernel has resident groups on a quad. -/
def State.quadBusy (s : State) (quad : Nat) : Bool :=
  s.groups.any (fun g => quadOf g.id.cluster g.id.core == quad && g.phase != .saved)

/-- Set the ramp stage of a quad: STEP µs from now. -/
def State.setRamp (s : State) (quad stage : Nat) : State :=
  { s with power := { s.power with
      ramp := upsert (fun r => r.1 == quad) (quad, stage, s.time + s.power.rampcfg * 1000) s.power.ramp } }

/-- Ramp-up of a quad that holds no kernel; out of ramp-down it goes on at the mirrored stage. -/
def State.rampUp (s : State) (quad : Nat) : State :=
  if s.power.rampcfg = 0 || s.quadBusy quad then s
  else match s.power.ramp.find? (fun r => r.1 == quad) with
    | some (_, k, _) => if k ≥ 16 then s.setRamp quad (31 - k) else s.setRamp quad 0
    | none => s.setRamp quad 0

/-- Ramp-down of a quad that the last kernel has left (log 45, DEDUCED). -/
def State.rampDown (s : State) (quad : Nat) : State :=
  if s.power.rampcfg = 0 || s.quadBusy quad then s else s.setRamp quad 16

/-- A group takes its slot. -/
def State.addGroup (s : State) (g : Group) : State :=
  let s := s.rampUp (quadOf g.id.cluster g.id.core)
  { s with groups := s.groups ++ [g] }

/-- A group leaves its slot. -/
def State.removeGroup (s : State) (g : Group) : State :=
  { s with groups := s.groups.filter (fun h => h.id != g.id) }.rampDown (quadOf g.id.cluster g.id.core)

/-! ### Containment (R263) -/

/-- A sent access: its request has left the core, or it has been applied. -/
def State.sentPart (s : State) (o : Op) (i : Nat) (p : Part) : Bool :=
  p.got.isSome || s.reqs.any (fun r => r.op == o.id && r.sent && r.parts.contains i)

/-- A kick: once sent it goes on, though its group is stopped (R296). -/
def OpKind.isKick : OpKind → Bool
  | .kick _ _ _ => true
  | _ => false

/-- The storage keys of a copy transfer: its sources, then its destinations (R203). -/
def transferKeys (cs : List Copy) (x : Nat) : List Nat × List Nat :=
  let mine := cs.filter (fun c => c.xfer == x)
  (mine.map (·.src), mine.flatMap (·.dst))

/-- A transfer of a copy has been sent: it needs requests, and all of them have left (R263). -/
def State.sentCopy (s : State) (o : Op) (x : Nat) : Bool :=
  match o.kind with
  | .cpa _ cs _ _ =>
    let keys := (transferKeys cs x).1 ++ (transferKeys cs x).2
    s.reqs.any (fun r => r.op == o.id && keys.any (fun k => lineOf k == r.line)) && s.carried o.id keys
  | _ => false

/-- What of an operation goes on when its group is stopped: parts, kicks and copy transfers that have been sent; of
other engine operations nothing, since each delivered transfer is whole (R263, R296). -/
def State.keepSent (s : State) (o : Op) : Option Op :=
  if o.kind.ordinary || o.kind.isKick then
    let ps := (o.parts.zipIdx).filter (fun x => s.sentPart o x.2 x.1)
    if ps.isEmpty then none
    else some { o with parts := o.parts.zipIdx.map (fun x =>
      if s.sentPart o x.2 x.1 then x.1 else { x.1 with done := true, sysDone := true }) }
  else match o.kind with
    | .cpa cell copies left wrote =>
      let sent := left.filter (fun k => s.sentCopy o k)
      if sent.isEmpty then none else some { o with kind := .cpa cell copies sent wrote }
    | _ => none

/-- A crew's storage is freed (R263, R293, R471). -/
def State.scrapCrew (s : State) (ctx : Nat) (x : Crew) : State :=
  match x.image with
  | some _ => s
  | none => x.taken.foldl (fun (s : State) t => s.scrap (scratchKey x.cluster t.1 t.2.1) t.2.2.1 ctx) s

/-- Chip scratchpad of a crew's .x partitions is freed (R351). -/
def State.scrapChip (s : State) (ctx : Nat) (pools : List PoolDecl) (x : Crew) : State :=
  (pools.zip x.parts).foldl (fun (s : State) y =>
    if y.1.space = 2 then
      (List.range 96).foldl (fun (s : State) k =>
        s.scrap (chipKey k y.2.base) ((y.1.tiles * y.1.tsize + 98303) / 98304 * 1024) ctx) s
    else s) s

/-- What a crew of a context holds is freed. -/
def State.scrapAll (s : State) (ctx : Nat) (x : Crew) : State :=
  let s := s.scrapCrew ctx x
  match s.launch? x.kid with
  | some l => s.scrapChip ctx l.hdr.pools x
  | none => s

/-- Completion interrupts, requested or pending, are discarded and counted (R209, R315). -/
def Group.dropInterrupts (g : Group) : Group :=
  { g with discarded := Nat.min 4 (g.discarded + g.intReq.length + g.intPend.length), intReq := [], intPend := [] }

/-- Stop every group of a context, the saved ones too, drop what has not been sent, and free what it holds
(R263, R298, R315). The largest T_w of its accesses so far is kept (log 37, DEDUCED). -/
def State.contain (s : State) (c : Nat) (fault : Option (Nat × Code)) : State :=
  let gs := s.groups.filter (fun g => g.ctx == c)
  let saved := (s.crews.flatMap (·.stored)).filter (fun g => g.ctx == c)
  let s := (gs ++ saved).foldl (fun s g => s.exitRecord g.dropInterrupts (g.phase == .dissolving) true) s
  let tw := maxNat (gs.map (·.twMax) ++ (s.launches.filter (fun l => l.ctx == c)).map (·.tw))
  let kids := (s.launches.filter (fun l => l.ctx == c)).map (·.kid)
  let ops := s.ops.filterMap (fun o => if o.ctx == c then s.keepSent o else some o)
  let s := (s.crews.filter (fun x => kids.contains x.kid)).foldl (fun s x => s.scrapAll c x) s
  let drops := fun (r : Req) => (s.ops.any (fun o => o.id == r.op && o.ctx == c) &&
    !(r.sent && ops.any (fun o => o.id == r.op))) ||
    s.engines.any (fun e => e.2.entries.any (fun x => x.id == r.op && x.ctx == c))
  let s := { s with
    groups := s.groups.filter (fun g => g.ctx != c)
    ops := ops
    reqs := s.reqs.filter (fun r => !drops r)
    l1 := s.l1.filter (fun l => l.ctx != c)
    resv := s.resv.filter (fun r => match r.owner with
      | .thread x _ => x != c
      | .group x _ => x != c)
    crews := s.crews.filter (fun x => !kids.contains x.kid)
    images := s.images.filter (fun x => !kids.contains x.kid)
    cells := s.cells.filter (fun x => !kids.contains x.kid)
    engines := s.engines.map (fun (e : Nat × Engine) => (e.1, { e.2 with
      entries := e.2.entries.filter (fun x => x.ctx != c)
      tiles := e.2.tiles.filter (fun t => !gs.any (fun g => g.id == t.owner))
      metas := e.2.metas.filter (fun m => !kids.contains m.kid) }))
    page := { s.page with
      tlb := s.page.tlb.filter (fun t => t.ctx != c)
      walks := s.page.walks.filter (fun w => w.ctx != c)
      wcache := s.page.wcache.filter (fun w => w.1 != c)
      recs := s.page.recs.filter (fun r => r.ctx != c) }
    links := { s.links with
      posted := s.links.posted.filter (fun p => p.ctx != c)
      overflow := s.links.overflow.filter (fun p => p.ctx != c)
      held := s.links.held.filter (fun h => h.ctx != some c) }
    recorder := { s.recorder with
      fifos := s.recorder.fifos.map (fun (f : Nat × List (Nat × List Nat)) => (f.1, f.2.filter (fun e => e.1 != c))) } }
  let s := gs.foldl (fun (s : State) (g : Group) => s.rampDown (quadOf g.id.cluster g.id.core)) s
  s.modCtx c (fun x => { x with
    st := .killing
    preempt := none
    watchStart := none
    wins := []
    queues := x.queues.map (fun (q : Nat × Queue) => (q.1, { q.2 with st := .disabled, reread := none }))
    dispatchWait := []
    fabjob := 0
    msgImage := []
    killTw := tw
    faultKid := fault })

/-! ### Fatal faults (R260) -/

/-- What a fatal fault records besides its TRAPINFO (R460). -/
structure FaultSite where
  ctx : Nat
  kid : Nat
  cluster : Nat
  core : Nat
  slot : Nat
  wid : Nat
  va : Nat
  /-- TIME of the fault, where it lies before the record. -/
  time : Option Nat := none

/-- The trap record of R460. -/
def FaultSite.words (f : FaultSite) (info time : Nat) : List Nat :=
  [info, f.va, f.wid, f.ctx + f.cluster * 2 ^ 8 + f.core * 2 ^ 13 + f.slot * 2 ^ 18, time, 0, 0, 0]

/-- Little-endian bytes of doublewords. -/
def bytesOf (ws : List Nat) : List Byte :=
  ws.flatMap (fun w => (List.range 8).map (fun k => BitVec.ofNat 8 (w / 256 ^ k)))

/-- FREEZE record and freeze of one core's ring (R417): at its own fault the record names the context and slot
(R463). -/
def Ring.freeze (r : Ring) (ctx slot time skew code : Nat) (first : Bool) : Ring :=
  if r.frozen then r
  else
    let r := r.record 8 ctx slot time (Nat.min skew (2 ^ 32 - 1) * 2 ^ 46 + code * 2 ^ 38 + bit01 first * 2 ^ 37)
    { r with frozen := true, ctime := time }

/-- The recorder's part of a fatal fault: freeze the faulting core's ring, send its broadcast, and list the fault, or
count it in DROPPED (R417, R418). -/
def State.freezeFor (s : State) (f : FaultSite) (code : Code) (rec : List Byte) : State :=
  let r := s.recorder
  if r.freezing = [] ∧ r.capsules.length ≥ 2 then
    { s with recorder := { r with dropped := Nat.min 0xFFFF (r.dropped + 1) } }
  else
    let ring := s.ring f.cluster f.core
    let time := s.coreTime f.cluster f.core
    let s := s.setRing (ring.freeze f.ctx f.slot time 0 code.num true)
    let r := s.recorder
    let r := if ring.frozen then r else { r with freezing := r.freezing ++ [(time, code.num)] }
    if r.faults.length < 8 then { s with recorder := { r with faults := r.faults ++ [(f.ctx, rec)] } }
    else { s with recorder := { r with dropped := Nat.min 0xFFFF (r.dropped + 1) } }

/-- A fatal fault: trap record, LASTCODE, freeze, containment, in R260's order. In a context that is
already KILLING only the capsule records it (R264); a KILLED one shows ERR besides, and a FREE one only that
(R252). -/
def State.fatal (s : State) (f : FaultSite) (code : Code) (info : Nat) : State :=
  let ws := f.words info (f.time.getD s.time)
  match s.ctx? f.ctx with
  | none => s
  | some c =>
    if c.st == .free then s.modCtx f.ctx (fun c => { c with err := true })
    else if c.st == .killed then (s.modCtx f.ctx (fun c => { c with err := true })).freezeFor f code (bytesOf ws)
    else if c.st == .killing then s.freezeFor f code (bytesOf ws)
    else
      let s := s.writeWords (c.desc.save + 0x100) ws
      let s := s.modCtx f.ctx (fun c => { c with lastcode := code.num })
      let s := s.freezeFor f code (bytesOf ws)
      (s.contain f.ctx (some (f.kid, code))).cause 3

/-- TRAPINFO of R259. -/
def trapInfo (code lane kind space detail pcw : Nat) : Nat :=
  code * 2 ^ 56 + lane * 2 ^ 51 + kind * 2 ^ 49 + space * 2 ^ 48 + detail * 2 ^ 28 + pcw

/-- A fault that belongs to no one group: recorded with the lowest-WID resident thread (R260). Its LANE and PCW
are 0, and so are WID, cluster, core and slot where no thread is resident (log 63, DESIGN CHOICE). -/
def State.fatalCtx (s : State) (c : Nat) (code : Code) (kid : Nat) : State :=
  let gs := s.groups.filter (fun g => g.ctx == c)
  let wids := gs.flatMap (fun g => g.threads.map (fun t => (t.2.wid, g)))
  let info := trapInfo code.num 0 2 0 0 0
  match leastBy (fun x : Nat × Group => x.1) wids with
  | some (w, g) =>
    s.fatal { ctx := c, kid := kid, cluster := g.id.cluster, core := g.id.core, slot := g.id.slot,
              wid := w, va := 0 } code info
  | none => s.fatal { ctx := c, kid := kid, cluster := 0, core := 0, slot := 0, wid := 0, va := 0 } code info

/-! ### Taking a trap (R259) -/

/-- The engine operation of a matrix instruction. -/
def MatOp.op? : MatOp → Option Nat
  | .load o | .drain o => some o
  | _ => none

/-- A tile of the group carries a fault mark (R240). -/
def Engine.marked (e : Engine) (g : GroupId) (z : Nat) : Bool :=
  e.tiles.any (fun t => t.owner == g && t.z == z && t.mark.isSome)

/-- Matrix instructions of the group queued on a marked tile: a trap discards them (R240). -/
def State.stuck (s : State) (g : Group) : List MatEntry :=
  let e := s.engine g.engineNum
  e.entries.filter (fun x => x.gid == g.id && e.marked g.id x.z)

/-- Discard them, with the drains and loads among them. -/
def State.dropStuck (s : State) (g : Group) : State :=
  let xs := s.stuck g
  let e := s.engine g.engineNum
  let mine := fun (o : Nat) => xs.any (fun x => x.op.op? == some o)
  let s := if xs.isEmpty then s
    else s.setEngine g.engineNum { e with entries := e.entries.filter (fun x => !xs.any (fun y => y.id == x.id)) }
  { s with ops := s.ops.filter (fun o => !mine o.id)
           reqs := s.reqs.filter (fun r => !mine r.op && !xs.any (fun x => x.id == r.op)) }

/-- Every access of the group is delivered or acknowledged on paths 0 to 4, 6 and 7, no result is
pending (R140), and no instruction of it is at work in a reservation table (R259, R247). -/
def State.quiet (s : State) (g : Group) : Bool :=
  let xs := s.stuck g
  g.flights.all (fun f => f.path == 5 || xs.any (fun x => x.op.op? == some f.op)) &&
  (s.opsOf g).all (fun o => o.kind.dest.isNone) &&
  s.engines.all (fun e => e.2.entries.all (fun x => x.gid != g.id || xs.any (fun y => y.id == x.id)))

/-- End every window: results are in the registers (R140). -/
def Group.endWindows (g : Group) : Group :=
  { g with paths := g.paths.map (fun p => { p with windows := [] }) }

/-- Start the handler: freeze the paths into the frame and run one path at HANDLER (R154). A path that is frozen
waits for no tile meanwhile (log 58, DEDUCED). -/
def Group.enterHandler (g : Group) : Group :=
  { g with
    frame := some { paths := g.paths.map (fun p => { p with park := p.park.map Park.ungrant }), tokE := g.tokE, tokW := g.tokW }
    paths := [{ id := g.freshPath, pc := g.handler, mask := g.live, stack := [], place := .slot 0,
                dtime := 0, park := none, windows := [], failed := [], timedOut := false }]
    nextPath := g.freshPath + 1
    tokE := []
    tokW := [] }

/-- An open window awaits a result (R137). -/
def Group.windowPending (g : Group) : Bool := g.paths.any (fun p => p.windows.any (·.op.isSome))

/-- The group enters HALTED between two instructions (R298, R427). -/
def State.stopNow (s : State) (g : Group) (r : StopReason) : State :=
  let g := g.endWindows
  let g := { g with before := g.phase, phase := .halted, stop := some r, stopping := none }
  let n := match r with
    | .halt => 1
    | .breakTrap => 2
    | .breakpoint => 3
    | .step => 4
    | .host => 5
  (s.setGroup g).sched g 8 g.live 0 n

/-- A debug stop: once the results of open windows are written, until when the group does not issue (R140). -/
def State.debugStop (s : State) (g : Group) (r : StopReason) : State :=
  if g.windowPending then s.setGroup { g with stopping := some r } else s.stopNow g r

/-- The code number that TRAPINFO shows: 0 for a completion interrupt (R259). -/
def TrapReq.num (t : TrapReq) : Nat :=
  match t.code with
  | some c => c.num
  | none => 0

/-- The trap vectors the group (R153, R154). -/
def TrapReq.vectors (t : TrapReq) (g : Group) : Bool :=
  (t.kind == 0 || t.kind == 1) && g.handler != 0 && g.frame.isNone

/-- The trap is fatal to its context (R260). -/
def State.fatalTrap (s : State) (g : Group) (t : TrapReq) : Bool :=
  !t.vectors g && (match t.code with
    | some c => !(c == .brk && (s.ctx? g.ctx).any (·.debug))
    | none => false)

/-- The trap is taken, the group being quiet: vectored, a debug stop, or fatal (R154, R157, R260)
(log 12, DEDUCED). -/
def State.takeTrap (s : State) (g : Group) (t : TrapReq) : State :=
  let info := trapInfo t.num t.lane t.kind t.space t.detail (g.pcw t.pc)
  let g := g.endWindows
  let s := (s.dropResv g).dropStuck g
  let g := { g with trapping := none, trapinfo := BitVec.ofNat 64 info,
                    flights := g.flights.filter (fun f => f.path == 5) }
  if t.vectors g then
    let s := s.sched g 6 g.live t.pc 0
    s.setGroup g.enterHandler
  else
    match t.code with
    | none => s.setGroup g
    | some code =>
      if code == .brk && (s.ctx? g.ctx).any (·.debug) then s.debugStop g .breakTrap
      else
        let s := s.setGroup g
        let s := s.recordG g 5 (code.num * 2 ^ 70 + t.lane * 2 ^ 65 + t.kind * 2 ^ 63 +
          g.pcw t.pc * 2 ^ 35 + t.detail % 2 ^ 20 * 2 ^ 15)
        s.fatal { ctx := g.ctx, kid := g.kid, cluster := g.id.cluster, core := g.id.core,
                  slot := g.id.slot, wid := t.wid.getD (g.widOf t.lane), va := t.va, time := t.time } code info

/-- The fault stands earlier in the group's instruction order (R259). -/
def TrapReq.before (t u : TrapReq) : Bool :=
  match t.order, u.order with
  | some a, some b => decide (a < b)
  | some _, none => true
  | none, _ => false

/-- A group takes a trap: at once if it is quiet, else when its accesses are done, and a fatal one at the end of
its clock (R260); meanwhile it does not issue. The fault of an earlier access takes the place of the trap
(R259). -/
def State.trap (s : State) (g : Group) (t : TrapReq) : State :=
  if g.trapping.any (fun u => !t.before u) then s
  else if s.quiet g && !s.fatalTrap g t then s.takeTrap g t
  else s.setGroup { g with trapping := some { t with time := some (t.time.getD s.time), clock := some (t.clock.getD s.clock) } }

/-- Return from the handler (R155): every path and token as frozen, and n at zero (R316). -/
def Group.leaveHandler (g : Group) (f : Frame) : Group :=
  { g with paths := f.paths, tokE := f.tokE, tokW := f.tokW, frame := none, run := 0 }

/-! ### Issue -/

/-- What an instruction's own part answers. -/
inductive Res where
  /-- Done; the path goes on at the next instruction. -/
  | done (s : State)
  /-- Done, with the operation that will write the destination. -/
  | long (s : State) (op : Option Nat)
  /-- Done; the path goes on at `pc`. -/
  | jump (s : State) (pc : DWord)
  /-- Done; the instruction has placed the path itself. -/
  | placed (s : State)
  /-- Done; the path goes on at the next instruction, and then `k` happens. -/
  | after (s : State) (k : State → Group → State)
  /-- The path waits; the instruction is evaluated again when the wait is over. -/
  | wait (s : State) (k : Park)
  /-- Not issued on this clock: stall reason, and whether it is a memory one (R310). -/
  | hold (reason : Nat) (mem : Bool)
  /-- A trap of the entry's own list: code, lane, DETAIL and address (R259, R460). -/
  | trap (c : Code) (lane : Nat) (detail : Nat) (va : Nat)
  /-- A trap of another kind (R240). -/
  | raise (t : TrapReq)

/-- The instruction has issued. -/
def Res.issues : Res → Bool
  | .done _ | .long _ _ | .jump _ _ | .placed _ | .after _ _ => true
  | .wait _ _ | .hold _ _ | .trap _ _ _ _ | .raise _ => false

/-- Why a decoded instruction does not reach its own part. -/
inductive Gate where
  | pass
  | hold (reason : Nat) (mem : Bool)
  | trap (c : Code)
deriving DecidableEq

/-- t_ramp of a quad (R437). -/
def Power.rampStep (p : Power) (quad : Nat) : Nat :=
  match p.ramp.find? (fun r => r.1 == quad) with
  | some (_, k, _) => if k < 16 then 7 - k / 2 else (k - 16) / 2
  | none => 0

def Power.floor (p : Power) (quad : Nat) : Nat :=
  match p.qfloor.find? (fun r => r.1 == quad) with
  | some (_, v) => v
  | none => 0

/-- THROTTLE of a quad (R437). -/
def State.throttle (s : State) (quad : Nat) : Nat :=
  Nat.max s.power.tcap (Nat.max (s.power.floor quad) (s.power.rampStep quad))

/-- A matrix-range instruction of a quad may issue on this clock, and its engine may start a pass
(R245, R307). -/
def State.throttleClock (s : State) (quad : Nat) : Bool := decide (s.clock % 8 < 8 - s.throttle quad)

/-- Instructions that R307 holds. -/
def matrixRange (i : Instr) : Bool := decide (0x1A0 ≤ i.opc ∧ i.opc ≤ 0x1A6)

/-- An operation whose result an instruction with these registers must await: it writes a register
that the instruction names, in a lane that concerns the path (R138). -/
def Op.blocks (o : Op) (p : Path) (cross : Bool) (codes : List Nat) : Bool :=
  match o.kind.dest with
  | none => false
  | some d => codes.any (fun c => d.codes.contains c &&
      (decide (c ≥ 192) || cross || d.g || (d.lanes &&& p.mask) != 0))

/-- A read that an open window answers with the old value (R138). -/
def Path.windowed (p : Path) (o : Op) (c : Nat) : Bool :=
  p.windows.any (fun w => w.op == some o.id && w.regs.contains c)

/-- The first operation that the instruction must await. -/
def State.blocker (s : State) (g : Group) (p : Path) (i : Info) : Option Op :=
  (s.opsOf g).find? (fun o =>
    o.blocks p i.cross (i.src.filter (fun c => !p.windowed o c)) || o.blocks p false i.dst)

/-- Stalls on it are memory stalls (R310). -/
def OpKind.memory : OpKind → Bool
  | .load _ _ | .ldr _ _ | .stc _ _ => true
  | .atom _ _ d => d.isSome
  | _ => false

/-- A pending fence holds an instruction of these classes (R84 to R86, R470). -/
def Fence.holds (f : Fence) (i : Info) : Bool :=
  (f.rel && (i.store || i.release)) || (f.acq && (i.load || i.store)) || (f.sc && i.load)

/-- A barrier arrival of the group is stalled in its release (R344) (log 27, DEDUCED). -/
def Group.arriving (g : Group) : Bool :=
  g.allPaths.any (fun p => match p.park with
    | some (.barArrive ..) => true
    | _ => false)

/-- Decode steps 5 to 7, then the waits before issue (R144, R139, R138, R84 to R86). -/
def State.gate (s : State) (g : Group) (p : Path) (i : Instr) : Gate :=
  let f := i.info
  if !g.hdr.accepts i then .trap .illegalOperand
  else if f.priv && !s.priv g.ctx then .trap .privileged
  else if p.windows.any (fun w => w.regs.any (fun c => f.dst.contains c)) then .trap .lookaheadConflict
  else if f.ends && p.windows.any (fun w => w.op.isSome) then
    .hold 1 (p.windows.any (fun w => (w.op.bind s.op?).any (fun o => o.kind.memory)))
  else match s.blocker g p f with
    | some o => .hold 1 o.kind.memory
    | none => if g.fences.any (fun x => x.holds f) || (g.arriving && (f.store || f.release)) then .hold 2 true
      else if matrixRange i && !s.throttleClock (quadOf g.id.cluster g.id.core) then .hold 10 false
      else .pass

/-- Old values of the window registers, before the instruction. -/
def Group.snapshot (g : Group) (p : Path) (codes : List Nat) : SMap Word :=
  codes.foldl (fun m c =>
    if c < 192 then (List.range 32).foldl (fun m l => SMap.set 0 m (32 * c + l) (g.rd p c l)) m
    else SMap.set 0 m (32 * c) (g.rd p c 0)) []

/-- One more instruction has issued: windows count it (R137). -/
def Path.countWindows (p : Path) : Path :=
  { p with windows := (p.windows.map (fun w => { w with left := w.left - 1 })).filter (fun w => w.left != 0) }

/-- The windows of the path after an instruction issued from `g0`, `p0`. -/
def Path.openWindow (p : Path) (g0 : Group) (p0 : Path) (f : Info) (op : Option Nat) : Path :=
  if f.la = 0 then p
  else { p with windows := p.windows ++ [{ op := op, left := f.la, regs := f.dst,
                                           old := g0.snapshot p0 f.dst }] }

/-- ISSUE record (R413). -/
def State.recordIssue (s : State) (g : Group) (p : Path) (i : Instr) : State :=
  s.recordG g 2 (i.opc * 2 ^ 69 + p.mask.toNat * 2 ^ 37 + g.pcw p.pc * 2 ^ 9)

/-- The path holds the thread of the progress mark (R312). -/
def Group.markedPath (g : Group) (p : Path) : Bool :=
  match g.mark with
  | some (w, _) => g.lowWid p.mask == w
  | none => false

/-- An attempt of a path is held back on this clock: stall reason, and whether it is a memory one. -/
def Group.hold (g : Group) (clock path reason : Nat) (mem : Bool) : Group :=
  { g with held := (clock, path, reason, mem) :: g.held.filter (fun h => h.1 == clock && h.2.1 != path) }

/-- Bookkeeping of an issue: ISSUED, the run of the slot (R300), the episode that ends (R310), the
progress mark (R312) and the watchdog (R262). -/
def Group.issuedFrom (g : Group) (p : Path) (clock : Nat) : Group :=
  let hist := match g.episode with
    | some (r, m) => if r == 9 || r == 10 || r == 13 || r == 15 then g.history
      else (m :: g.history).take 8
    | none => g.history
  let g := { g with
    issued := g.issued + 1
    history := hist
    episode := none
    held := g.held.filter (fun h => h.2.1 != p.id)
    lastIssue := some clock
    markWait := if g.markedPath p then 0 else g.markWait
    markFirst := if g.markedPath p then none else g.markFirst
    passing := g.passing.filter (· != p.id) }
  match p.place with
  | .slot n => if n = g.cs ∧ g.run < 64 then { g with run := g.run + 1 }
    else { g with cs := n, run := 1, swapDue := true }
  | _ => g

/-- Another path of the core has issued: yields of the core end (R158). R306 ranks the groups once on a clock, so
their paths are eligible from the next clock on (DEDUCED, log 1). -/
def State.endYields (s : State) (g : GroupId) (pid : Nat) : State :=
  { s with groups := s.groups.map (fun h =>
      if h.id.cluster == g.cluster && h.id.core == g.core then
        { h with paths := h.paths.map (fun p => match p.park with
          | some (.yield n) =>
            if h.id == g && p.id == pid then p else { p with park := some (.yield (Nat.min n (s.clock + 1))) }
          | _ => p) }
      else h) }

/-- A kernel uses one slot of the interval on a quad (R438). -/
def State.slot (s : State) (kid quad : Nat) : State :=
  let k := 144 * kid + quad
  { s with power := { s.power with slots := SMap.set 0 s.power.slots k (SMap.get 0 s.power.slots k + 1) } }

/-- The core of a group has issued one more instruction on this clock (R306, R308). -/
def State.countIssue (s : State) (g : Group) : State :=
  { s with issues := s.issues ++ [(24 * g.id.cluster + g.id.core,
      if g.memoryBound then some ((s.desc g.ctx).mode 67) else none)] }

/-- The group after an issue from `p0`: the issue is counted and the path settled by `fin`. -/
def Group.closeIssue (g : Group) (p0 : Path) (clock : Nat) (ends : Bool) (fin : Path → Path) : Group :=
  let g := g.issuedFrom p0 clock
  match g.path? p0.id with
  | none => g
  | some p => g.setPath (fin (if ends then { p with windows := [] } else p.countWindows))

/-- After the instruction's own part: count the issue, and settle the path by `fin`. -/
def State.finish (s : State) (i : Instr) (g0 : Group) (p0 : Path) (fin : Path → Path) : State :=
  let s := s.modCtx g0.ctx (fun c => { c with watchStart := none })
  let s := (s.endYields g0.id p0.id).slot g0.kid (quadOf g0.id.cluster g0.id.core)
  let s := s.countIssue g0
  s.modGroup g0.id (fun g => g.closeIssue p0 s.clock i.info.ends fin)

/-- The path after an instruction that is not a transfer. -/
def Path.next (p : Path) (i : Instr) : Path :=
  { p with pc := p.pc + BitVec.ofNat 64 i.bytes, park := none, failed := [], timedOut := false, woken := false, resume := none }

/-- The recorder holds the path as parked: it wrote that the path parks, and not yet that it wakes (R415). -/
def Path.shownParked (p : Path) : Bool := p.park.any Park.parked && !p.woken

/-- The records of paths whose waits have ended, or go on after all (R415). -/
def State.wakeUps (s : State) : State :=
  s.groups.foldl (fun (s : State) h => h.paths.foldl (fun (s : State) p => match p.park with
    | none => s
    | some k =>
      let ended := s.waitOver h p k
      if h.phase != .live || !k.parked || ended == p.woken then s
      else (s.sched h (if ended then 2 else 1) p.mask p.pc k.reason).modGroup h.id (fun g =>
        g.setPath { p with woken := ended })) s) s

/-! ### Fragment stacks (R147, R255, R301, R305) -/

/-- Base of a cluster's image in the save area (R255). -/
def Desc.imageBase (d : Desc) (cluster : Nat) : Nat :=
  d.save + 65536 + popNat d.place cluster * (167 * 2 ^ 20)

/-- Base of a group's fragment stack: 32 records, then 32 return-stack areas (R255). -/
def Desc.fragBase (d : Desc) (i : GroupId) : Nat :=
  d.imageBase i.cluster + 38400 * 1024 + (64 * i.core + i.slot) * (66 * 1024)

/-- Record of a path: a fragment's own, or 30 and 31 for the slots (R305). -/
def Place.record : Place → Nat
  | .slot n => 30 + n.val
  | .queued r _ => r
  | .detached => 31

/-- STATE and TOKEN of a fragment record (R305). -/
def Path.recordState (p : Path) : Nat × Nat :=
  match p.park with
  | some (.rcv k) => (1, k.val)
  | some _ => (2, 0)
  | none => (0, 0)

/-- The doublewords of a fragment record (R305). -/
def Group.fragWords (g : Group) (p : Path) : List Nat :=
  [p.pc.toNat,
   p.mask.toNat + p.stack.length % 512 * 2 ^ 32 + p.recordState.1 * 2 ^ 48 + p.recordState.2 * 2 ^ 50,
   p.dtime, g.lowWid p.mask, 0, 0, 0, 0]

/-- Where a path's record stands (R305). -/
def State.recordKey (s : State) (g : Group) (p : Path) : Nat :=
  (s.desc g.ctx).fragBase g.id + 64 * p.place.record

/-- Where a path's return-stack area stands (R147, R255). -/
def State.deepKey (s : State) (g : Group) (p : Path) : Nat :=
  (s.desc g.ctx).fragBase g.id + 2048 + 2048 * p.place.record

/-- The return addresses of a path that its core does not hold, the oldest first: those below the top eight,
and all of a spilled fragment (R147). -/
def Path.deep (p : Path) : List Nat :=
  (p.stack.drop (match p.place with
    | .queued _ true => 0
    | _ => 8)).reverse.map (·.toNat)

/-- Write a path's record (R305). -/
def State.keepRecord (s : State) (g : Group) (p : Path) : State :=
  s.writeWords (s.recordKey g p) (g.fragWords p)

/-- Write the return addresses that the core does not hold into the path's return-stack area, the oldest lowest
(R147) (log 9, DESIGN CHOICE). -/
def State.keepDeep (s : State) (g : Group) (p : Path) : State :=
  s.writeWords (s.deepKey g p) p.deep

/-- A path joins the fragment queue at a TIME; a spill is written into its group's fragment stack and leaves its
record (R301, R415). -/
def State.queueAt (s : State) (time : Nat) (g : Group) (p : Path) : State × Path :=
  let (g, p) := s.enqueueAt time g p
  let s := (s.setGroup g).keepDeep g p
  match p.place with
  | .queued r true => ((s.sched g 5 p.mask p.pc r).keepRecord g p, p)
  | _ => (s, p)

/-- A path joins the fragment queue now. -/
def State.queuePath (s : State) (g : Group) (p : Path) : State × Path := s.queueAt s.time g p

/-- The fragments that a `brd` has detached on this clock join the queue (R304). -/
def State.queueDetached (s : State) (i : GroupId) : State :=
  match s.group? i with
  | none => s
  | some g => (g.allPaths.filter (fun p => p.place == .detached)).foldl (fun (s : State) p => match s.group? i with
    | none => s
    | some g =>
      let (s, p) := s.queueAt p.dtime g p
      s.modGroup i (fun g => (g.setAnyPath p).noteFrag)) s

/-- A path that parks gives up its slot: the wait is internal, another fragment of the group is ready (R302), and
no lookahead window is open, since a fragment holds none (R305) (log 52, DEDUCED). -/
def State.leavesSlot (s : State) (g : Group) (p : Path) (k : Park) : Bool :=
  (match p.place with
    | .slot _ => true
    | _ => false) && k.internal && p.windows.isEmpty && g.fragments.any (fun f => !s.waits g f)

/-- A path enters a wait (R302, R415). -/
def State.parkPath (s : State) (gid : GroupId) (pid : Nat) (k : Park) (ends : Bool) : State :=
  match s.group? gid with
  | none => s
  | some g =>
    match g.path? pid with
    | none => s
    | some p =>
      let s := if k.parked && !p.shownParked then s.sched g 1 p.mask p.pc k.reason else s
      let p := { p.waitAt k with windows := if ends then [] else p.windows }
      if s.leavesSlot g p k then
        let (s, p) := s.queuePath (g.setPath p) p
        s.modGroup gid (fun g => (g.setPath p).noteFrag)
      else s.setGroup (g.setPath p)

/-- An instruction that issues writes an ISSUE record: a transfer only where its guard is true (R414). -/
def Group.records (g : Group) (i : Instr) : Bool :=
  match i with
  | .br gd _ | .jmpi gd _ | .call gd _ | .callReg gd _ | .ret gd => g.guard gd
  | _ => i.recorded

/-- Settle an instruction that has passed the gate by what its own part answered. -/
def State.settle (s : State) (i : Instr) (g : Group) (p : Path) (r : Res) : State :=
  match r with
  | .done s' => s'.finish i g p (fun p => p.next i)
  | .long s' op => s'.finish i g p (fun q => (q.next i).openWindow g p i.info op)
  | .jump s' pc => s'.finish i g p (fun q => { q.next i with pc := pc })
  | .placed s' => s'.finish i g p (fun q => q)
  | .after s' k =>
    let s' := s'.finish i g p (fun q => q.next i)
    match s'.group? g.id with
    | some g => k s' g
    | none => s'
  | .wait s' k =>
    s'.parkPath g.id p.id k i.info.ends
  | .hold r m => s.modGroup g.id (fun g => g.hold s.clock p.id r m)
  | .trap c lane detail va =>
    let s := if g.records i then s.recordIssue g p i else s
    s.trap g { path := some p.id, code := some c, lane := lane, kind := 2, detail := detail, space := 0,
               va := va, pc := p.pc, wid := none, order := none }
  | .raise t => (if g.records i then s.recordIssue g p i else s).trap g t

/-- A trap of decode or of a gate, at the instruction's own address (log 12, DEDUCED). -/
def State.trapAt (s : State) (g : Group) (p : Path) (c : Code) (va : Nat) : State :=
  s.trap g { path := some p.id, code := some c, lane := lowLane p.mask, kind := 2, detail := 0, space := 0,
             va := va, pc := p.pc, wid := none, order := none }

/-- The path as its instruction reads through it: one that ends windows reads the new values (R139). -/
def Path.reading (p : Path) (i : Instr) : Path := if i.info.ends then { p with windows := [] } else p

/-- The issue stage: the issuer that the step named, the gate, the instruction's own part, and what
follows it. -/
def issue (i : Instr) (s : State) (body : State → Group → Path → Res) :
    Host.Outcome State Fault Refusal :=
  match s.issuer with
  | none => .fault .noIssuer
  | some (gid, pid) =>
    match s.group? gid with
    | none => .fault .noIssuer
    | some g =>
      match g.path? pid with
      | none => .fault .noIssuer
      | some p =>
        let s := { s with issuer := none }
        match s.gate g p i with
        | .hold r m => .next (s.settle i g p (.hold r m))
        | .trap c => .next (s.trapAt g p c 0)
        | .pass =>
          let q := p.reading i
          let r := body s g q
          .next (s.settle i g p (if g.records i && r.issues then body (s.recordIssue g p i) g q else r))

end Sys2Proof.Machine
end

