-- ==== Sys2Proof/Machine/Image.lean ====
section
/-! DEFINITION. The images of the save area (R255) as bytes: group records, matrix state, cell tables, message
overflow, barrier entries and posted receives. Where the spec gives no layout within an entry its bytes are
free values; where it gives an entry's layout but not the entry's place, the place is the model's (log 9). -/

namespace Sys2Proof.Machine

/-- Bytes left undefined (log 2, log 9). -/
def State.freeBytes (s : State) (key : Nat) : Nat → State
  | 0 => s
  | n + 1 => State.freeBytes ({ s.setByte key (Config.freeByte s.freeCtr) with freeCtr := s.freeCtr + 1 }) (key + 1) n

/-! ### The regions of a cluster image, in the order of R255 -/

/-- A region begins so many KiB into a cluster's image. -/
def Desc.regionKey (d : Desc) (cluster kib : Nat) : Nat := d.imageBase cluster + kib * 1024

/-- The 25 KiB record of a group. -/
def Desc.groupKey (d : Desc) (i : GroupId) : Nat := d.regionKey i.cluster (25 * (64 * i.core + i.slot))

/-- The scratch SRAM images of a cluster. -/
def Desc.imageKey (d : Desc) (cluster : Nat) : Nat := d.regionKey cluster (38400 + 101376)

def Desc.lastKey (d : Desc) (cluster : Nat) : Nat := d.regionKey cluster 164352
def Desc.matrixKey (d : Desc) (cluster quad : Nat) : Nat := d.regionKey cluster (167424 + 520 * quad)
def Desc.cellTableKey (d : Desc) (cluster core n : Nat) : Nat := d.regionKey cluster 170544 + 64 * (128 * core + n)
def Desc.messageKey (d : Desc) (cluster n : Nat) : Nat := d.regionKey cluster 170736 + 2112 * n
def Desc.barrierKey (d : Desc) (cluster n : Nat) : Nat := d.regionKey cluster 170868 + 16 * n
/-- Posted receives follow the 512 barrier entries, and pending launches the 128 receives. -/
def Desc.postedKey (d : Desc) (cluster n : Nat) : Nat := d.regionKey cluster (170868 + 8) + 64 * n
def Desc.launchKey (d : Desc) (cluster n : Nat) : Nat := d.regionKey cluster (170868 + 16) + 128 * n

/-! ### Groups (R255, R256) -/

/-- The registers of a saved group in their live octets, and 768 bytes of control. -/
def State.keepGroup (s : State) (g : Group) : State :=
  let key := (s.desc g.ctx).groupKey g.id
  let vlive := (List.range 24).filter (fun k => g.savedLive.getLsbD k)
  let slive := (List.range 8).filter (fun k => g.savedLive.getLsbD (24 + k))
  let s := vlive.foldl (fun (s : State) k => s.zero (key + 1024 * k) 1024) s
  let s := slive.foldl (fun (s : State) k => s.zero (key + 24576 + 32 * k) 32) s
  let s := (g.v.filter (fun e => vlive.contains (e.1 / 256))).foldl (fun (s : State) e =>
    s.write (key + 4 * e.1) 4 e.2.toNat) s
  let s := (g.s.filter (fun e => slive.contains (e.1 / 8))).foldl (fun (s : State) e =>
    s.write (key + 24576 + 4 * e.1) 4 e.2.toNat) s
  s.freeBytes (key + 24832) 768

/-! ### Matrix state (R247) -/

/-- A bound tile, its rows in order: 16 KiB. -/
def State.keepTile (s : State) (key : Nat) (t : AccTile) : State :=
  t.data.foldl (fun (s : State) e => s.write (key + 4 * e.1) 4 e.2.toNat) (s.zero key 16384)

/-- The bound tiles of a context's groups on an engine; fault marks and metadata queues take the last 8 KiB. -/
def State.keepEngine (s : State) (d : Desc) (cluster quad : Nat) (mine : GroupId → Bool) : State :=
  let e := s.engine (6 * cluster + quad)
  let ts := e.tiles.filter (fun t => mine t.owner)
  if ts.isEmpty && e.metas.isEmpty then s
  else
    let s := ts.zipIdx.foldl (fun (s : State) x => s.keepTile (d.matrixKey cluster quad + 16384 * x.2) x.1) s
    s.freeBytes (d.matrixKey cluster quad + 524288) 8192

/-! ### Cell tables, messages, barriers, posted receives (R205, R337, R391, R397) -/

/-- The entries of a context's crews in the cell table of a core. -/
def State.keepCells (s : State) (d : Desc) (cluster core : Nat) (mine : Nat → Bool) : State :=
  (s.cells.filter (fun e => e.cluster == cluster && e.core == core && mine e.kid)).zipIdx.foldl
    (fun (s : State) x => s.freeBytes (d.cellTableKey cluster core x.2) 64) s

/-- Bits [127:0] of a packet's header (R391). -/
def pktWord (k : PktHeader) : Nat :=
  k.dstDev + k.dstClu * 2 ^ 9 + k.srcDev * 2 ^ 14 + k.srcClu * 2 ^ 23 + k.typ * 2 ^ 28 + k.tag * 2 ^ 32 +
    k.job * 2 ^ 48 + k.len * 2 ^ 64 + k.cls.val * 2 ^ 76 + k.seq * 2 ^ 80

/-- Entry `n` of a message overflow image: the header flit and the payload (R255, R397). -/
def State.keepMessage (s : State) (d : Desc) (cluster n : Nat) (k : PktHeader) : State :=
  if n ≥ 64 then s
  else
    let key := d.messageKey cluster n
    ((s.write key 16 (pktWord k)).freeBytes (key + 16) 48).writeBytes (key + 64) (k.payload.take 2048)

/-- A barrier entry as its store holds it (R337). -/
def BarEntry.word (e : BarEntry) : Nat :=
  e.arr + e.live * 2 ^ 17 + e.target * 2 ^ 34 + e.gone * 2 ^ 51 + bit01 e.expl * 2 ^ 68 + bit01 e.phase * 2 ^ 69

/-- The entries of a crew: its teams' in order, then its own. -/
def Crew.entries (c : Crew) : List BarEntry := c.teamBars.flatten ++ c.crewBars

/-- Crews of a context on a cluster, or whose images stand under it. -/
def State.imageCrews (s : State) (c cluster : Nat) : List Crew :=
  s.crews.filter (fun x => x.cluster == cluster && (s.launch? x.kid).any (fun l => l.ctx == c))

/-- The barrier image of a cluster (R255, R349). -/
def State.keepBarriers (s : State) (c cluster : Nat) : State :=
  ((s.imageCrews c cluster).flatMap Crew.entries).zipIdx.foldl (fun (s : State) x =>
    s.write ((s.desc c).barrierKey cluster x.2) 16 x.1.word) s

def Park.isLaunch : Park → Bool
  | .launch .. => true
  | _ => false

/-- The posted receives of a context on a cluster. -/
def State.keepPosted (s : State) (c cluster : Nat) : State :=
  (s.links.posted.filter (fun p => p.ctx == c && p.cluster == cluster)).foldl (fun (s : State) p =>
    s.freeBytes ((s.desc c).postedKey cluster p.entry) 64) s

/-- The launches of a context that have not completed, and the `launch` instructions of its groups on a cluster whose
kicks have not been sent: 128 bytes each, in the 124 KiB left of the region (R255, R296). -/
def State.keepLaunches (s : State) (c cluster : Nat) : State :=
  let stalled := (s.groups.filter (fun g => g.ctx == c && g.id.cluster == cluster)).flatMap (fun g =>
    g.allPaths.filter (fun p => p.park.any Park.isLaunch))
  let n := (s.launches.filter (fun l => l.ctx == c)).length + stalled.length
  s.freeBytes ((s.desc c).launchKey cluster 0) (128 * Nat.min 992 n)

end Sys2Proof.Machine
end

