-- ==== Sys2Proof/Machine/Route.lean ====
section
/-! DEFINITION. Where packets go (R389, R390, R393 to R395): coordinates, ports, directions, classes. -/

namespace Sys2Proof.Machine

/-- Coordinate of a device in a dimension: 0 x, 1 y, 2 z (R390). -/
def coordOf (dev dim : Nat) : Nat := dev / 8 ^ dim % 8

/-- The links under the STITCHCFG that is in effect on a port; a packet of our own goes by that of the device
(R390). -/
def Links.seen (l : Links) (port : Nat) : Links := if port < 8 then { l with cfgLive := pairGet 0 l.portCfg port } else l

/-- Extent of a dimension (R390). -/
def Links.extent (l : Links) (dim : Nat) : Nat := bits l.cfgLive (11 + 3 * dim) (9 + 3 * dim) + 1

/-- DEVNUM (R390). -/
def Links.devnum (l : Links) : Nat := bits l.cfgLive 8 0

/-- The device lies within the extents. -/
def Links.inExtents (l : Links) (dev : Nat) : Bool :=
  decide (dev < 512) && (List.range 3).all (fun k => decide (coordOf dev k < l.extent k))

/-- STATE of a stitch port (R390): 0 DOWN, 1 TRAIN, 2 UP, 3 FAILED. -/
def Links.port (l : Links) (p : Nat) : Nat := pairGet 0 l.pstate p

/-- ROLE in effect; 7 acts as 0. -/
def Links.roleOf (l : Links) (p : Nat) : Nat := if pairGet 0 l.roleLive p = 7 then 0 else pairGet 0 l.roleLive p

/-- Role of a direction. -/
def dirRole (dim : Nat) (plus : Bool) : Nat := 2 * dim + (if plus then 1 else 2)

/-- The lowest UP port of a direction; no port is used in a dimension of extent 1 (R393). -/
def Links.upPort (l : Links) (dim : Nat) (plus : Bool) : Option Nat :=
  if l.extent dim = 1 then none
  else (List.range 8).find? (fun p => l.roleOf p == dirRole dim plus && l.port p == 2)

/-- The dimension and direction in which a packet that came in by a port travels: it came from the
neighbour on that port's side. -/
def Links.travel (l : Links) (port : Nat) : Option (Nat × Bool) :=
  let r := l.roleOf port
  if port ≥ 8 || r == 0 then none else some ((r - 1) / 2, r % 2 == 0)

/-- The first dimension in which two devices differ (R394). -/
def firstDim (dev dst : Nat) : Option Nat := (List.range 3).find? (fun k => coordOf dev k != coordOf dst k)

/-- Direction chosen on entering a dimension at a device (R394). -/
def Links.choose (l : Links) (dev dst dim : Nat) (route : Route) : Bool :=
  match route with
  | .plus => true
  | .minus => false
  | .minimal =>
    let e := l.extent dim
    let fwd := (coordOf dst dim + e - coordOf dev dim % e) % e
    decide (2 * fwd ≤ e)

/-- One hop: port, dimension and direction. -/
structure Hop where
  port : Nat
  dim : Nat
  plus : Bool
deriving DecidableEq, Repr

/-- The next hop of a packet, if an UP route exists (R389, R394). `table` is the port that a host table
gives. A packet goes on in the direction in which it came, which a deflection may have turned; in escape it keeps to
the direction chosen at injection, which its source gives, or under host tables the one in which it came (log 38,
DEDUCED). -/
def Links.hop (l : Links) (port src dst : Nat) (route : Route) (escape : Bool) (table : Option Nat) : Option Hop :=
  match firstDim l.devnum dst with
  | none => none
  | some dim =>
    let onward := (l.travel port).bind (fun x => if x.1 = dim then some x.2 else none)
    match if escape && onward.isSome then none else table with
    | some p =>
      let r := l.roleOf p
      if l.port p == 2 && r != 0 && l.extent ((r - 1) / 2) != 1 then some { port := p, dim := (r - 1) / 2, plus := r % 2 == 1 } else none
    | none =>
      let first := l.choose src dst dim route
      let plus := if escape && table.isNone then first else onward.getD first
      match l.upPort dim plus with
      | some p => some { port := p, dim := dim, plus := plus }
      | none => if escape || route != .minimal then none
        else (l.upPort dim !plus).map (fun p => { port := p, dim := dim, plus := !plus })

/-- The host table's port for a context's packets (R394). -/
def State.tablePort (s : State) (ctx : Option Nat) (dst : Nat) : Option Nat :=
  match ctx with
  | some c => if (s.desc c).mode 68 then some (pairGet 0 s.links.stitchrt dst % 8) else none
  | none => none

/-- A direction of a device is UP: ours by our ports, another device's by what is known of it (R389). -/
def Links.dirUp (l : Links) (dev dim : Nat) (plus : Bool) : Bool :=
  if dev == l.devnum then (l.upPort dim plus).isSome
  else l.extent dim != 1 && !l.farDown.contains (dev, dirRole dim plus)

/-- The neighbour of a device in a direction. -/
def Links.beside (l : Links) (dev dim : Nat) (plus : Bool) : Nat :=
  let e := l.extent dim
  let c := coordOf dev dim
  dev - c * 8 ^ dim + (if plus then (c + 1) % e else (c + e - 1) % e) * 8 ^ dim

/-- An UP route reaches a device from another one, within so many hops (R389, R394). `dir` is the
dimension and direction of the last hop. -/
def Links.reaches (l : Links) (dst : Nat) (route : Route) : Nat → Nat → Option (Nat × Bool) → Bool
  | 0, _, _ => false
  | fuel + 1, dev, dir => match firstDim dev dst with
    | none => true
    | some dim =>
      let plus := match dir with
        | some (d, b) => if d = dim then b else l.choose dev dst dim route
        | none => l.choose dev dst dim route
      if l.dirUp dev dim plus then l.reaches dst route fuel (l.beside dev dim plus) (some (dim, plus))
      else if route == .minimal && l.dirUp dev dim !plus then
        l.reaches dst route fuel (l.beside dev dim !plus) (some (dim, !plus))
      else false

/-- An UP route to a device exists for a context (R389, R394). Of a route by host tables only our own
hop is known (log 38, DEDUCED). -/
def State.routeUp (s : State) (ctx dev : Nat) (route : Route) : Bool :=
  dev == s.links.devnum ||
  ((s.links.hop 8 s.links.devnum dev route false (s.tablePort (some ctx) dev)).isSome &&
    ((s.desc ctx).mode 68 || !s.links.inExtents dev || s.links.reaches dev route 64 s.links.devnum none))

/-- Some Waent link is UP (R389). -/
def State.hostUp (s : State) : Bool := [0, 1].any (fun k => pairGet 0 s.links.waent k == 2)

/-- A storage key off the device that no UP link reaches (R64, R389) (log 38, DEDUCED). -/
def State.cutOff (s : State) (ctx key : Nat) : Bool :=
  key < 2 ^ 52 && (match bits key 51 49 with
    | 1 => !s.routeUp ctx (bits key 48 40) .minimal
    | 2 => !s.hostUp
    | _ => false)

/-- The hop crosses the dateline of its dimension (R393). -/
def Links.dateline (l : Links) (h : Hop) : Bool :=
  let l := l.seen h.port
  let c := coordOf l.devnum h.dim
  if h.plus then c == l.extent h.dim - 1 else c == 0

/-- The class in which a packet stands after a hop, before it may turn to escape: 0 VC0, 1 VC1, 2 E0,
3 E1 (R393). -/
def Links.classAfter (l : Links) (port : Nat) (cls : Nat) (h : Hop) : Nat :=
  let turned : Bool := match l.travel port with
    | some (d, _) => d != h.dim
    | none => true
  let base := if turned then cls / 2 * 2 else cls
  if l.dateline h then base / 2 * 2 + 1 else base

/-- Flits of a packet (R391). -/
def pktFlits (p : PktHeader) : Nat := 1 + (p.len + 63) / 64

/-- Free counts that PORTSTAT shows: shared, E0, E1 (R390). -/
def Links.free3 (l : Links) (port : Nat) : Nat × Nat × Nat :=
  let f := pairGet 0 l.free port
  (bits f 10 0, bits f 17 11, bits f 24 18)

/-- The slots of a class: VC0 and VC1 share theirs (R392). -/
def slotKind (cls : Nat) : Nat := cls - 1

/-- Slots of a class at the neighbour that the last report gave and that no packet sent since takes (R392)
(log 57, DEDUCED). -/
def Links.room (l : Links) (port cls : Nat) : Nat :=
  let (sh, e0, e1) := l.free3 port
  (if cls < 2 then sh else if cls = 2 then e0 else e1) - pairGet 0 l.spent (3 * port + slotKind cls)

/-- A packet takes slots at the neighbour. -/
def Links.spend (l : Links) (port cls flits : Nat) : Links :=
  let k := 3 * port + slotKind cls
  { l with spent := pairSet l.spent k (pairGet 0 l.spent k + flits) }

/-- Slots of a class at our own input of a port (R392). -/
def slotCount (cls : Nat) : Nat := if cls < 2 then 1024 else 66

/-- Slots of a class at our own input of a port that no held packet takes: what we report upstream (R392). -/
def Links.inputFree (l : Links) (port cls : Nat) : Nat :=
  slotCount cls - ((l.held.filter (fun h => h.port == port && slotKind h.pkt.cls.val == slotKind cls)).map
    (fun h => pktFlits h.pkt)).foldl (· + ·) 0

/-- The class in which a packet makes a hop, or none while its class has no slots there for it (R392, R393). -/
def Links.hopClass (l : Links) (port cls flits : Nat) (h : Hop) : Option Nat :=
  let c := l.classAfter port cls h
  if flits ≤ l.room h.port c then some c else none

/-- The hop that a packet makes now and the class that it takes, or none while it waits for slots: by its own class,
or, of the shared classes, by escape (R392, R394, R395). -/
def Links.moves (l : Links) (port src dst cls flits : Nat) (route : Route) (table : Option Nat) : Option (Hop × Nat) :=
  let way := fun (cls : Nat) => (l.hop port src dst route (decide (cls ≥ 2)) table).bind (fun h =>
    (l.hopClass port cls flits h).map (fun c => (h, c)))
  match way cls with
  | some x => some x
  | none => if cls < 2 then way (cls + 2) else none

end Sys2Proof.Machine
end

