-- ==== Sys2Proof/Machine/Walk.lean ====
section
/-! DEFINITION. Translation: table walks and their failures (R370 to R373), the checks on a leaf
(R374), what a translated address reaches (R64, R384), and instruction fetch (R123 to R126). -/

namespace Sys2Proof.Machine

/-! ### Entries (R371 to R373) -/

/-- 768 GiB, the end of local HBM4 (R64). -/
def localEnd : Nat := 0xC0_0000_0000

def pteValid (e : Nat) : Bool := e.testBit 0
def pteLeaf (e : Nat) : Bool := e.testBit 1
def leafR (e : Nat) : Bool := e.testBit 2
def leafW (e : Nat) : Bool := e.testBit 3
def leafX (e : Nat) : Bool := e.testBit 4
def leafPriv (e : Nat) : Bool := e.testBit 5
def leafLease (e : Nat) : Nat := bits e 8 6
def leafWin (e : Nat) : Bool := e.testBit 9

/-- Bits of the page offset of a leaf at a level (R370). -/
def pageBits : Nat → Nat
  | 0 => 16
  | 1 => 21
  | _ => 30

/-- Index of a virtual address at a level (R370). -/
def vaIndex (level va : Nat) : Nat :=
  match level with
  | 0 => bits va 20 16
  | 1 => bits va 29 21
  | 2 => bits va 38 30
  | _ => bits va 55 39

/-- An entry with V = 1 is malformed at its level (R373). LEASE of a window leaf is ignored, 7 included (R384;
log 80, DEDUCED). -/
def pteBad (level e : Nat) : Bool :=
  bits e 63 52 != 0 ||
  if pteLeaf e then
    level == 3 || bits e 11 10 != 0 ||
    if leafWin e then level != 0 || bits e 51 42 != 0
    else bits e (pageBits level - 1) 12 != 0 && pageBits level > 12 || decide (bits e 51 49 ≥ 4) ||
      leafLease e == 7
  else
    level == 0 || bits e 7 2 != 0 || ((level == 3 || level == 2) && bits e 11 8 != 0) ||
    decide (bits e 51 8 * 256 ≥ localEnd)

/-- Walk from a table of a level: the leaf and its page bits, or the level at which it failed. -/
def State.walkFrom (s : State) (va : Nat) : Nat → Nat → Nat → Except Nat (Nat × Nat)
  | 0, level, _ => .error level
  | fuel + 1, level, table =>
    let e := s.read (table + 8 * vaIndex level va) 8
    if !pteValid e || pteBad level e then .error level
    else if pteLeaf e then .ok (e, pageBits level)
    else State.walkFrom s va fuel (level - 1) (bits e 51 8 * 256)

/-- The walk of a context's address (R370). -/
def State.walk (s : State) (ctx va : Nat) : Except Nat (Nat × Nat) :=
  s.walkFrom va 4 3 ((s.desc ctx).root * 4096)

/-! ### What an address reaches -/

/-- Kinds of access (R374). -/
inductive Acc where
  | load | store | atomic | fetch
deriving DecidableEq, Repr

/-- A translated address: memory by region with its lease class, a device register, or a window. -/
inductive Target where
  | mem (pa lease : Nat)
  | peer (pa lease : Nat)
  | host (pa lease : Nat)
  | reg (off : Nat)
  | window (slot off : Nat)
deriving DecidableEq, Repr

/-- Bytes of live kernel text (R126): granule number and byte range within the granule. -/
def State.marked (s : State) (pa n : Nat) : Bool :=
  s.launches.any (fun l => l.marks.any (fun m => overlap (m.1 * 4096 + m.2.1) (m.2.2 - m.2.1) pa n))

/-- Bytes of some context's save area (R255). -/
def State.inSave (s : State) (pa n : Nat) : Bool :=
  s.ctxs.any (fun c => c.st != .free && overlap c.desc.save (c.desc.savesize * 2 ^ 16) pa n)

/-- The leaf allows this kind of access (R374). -/
def leafAllows (e : Nat) (k : Acc) : Bool :=
  match k with
  | .load => leafR e
  | .store => leafW e
  | .atomic => leafR e && leafW e
  | .fetch => leafX e

/-- Peer device memory of this device is its own local memory (R64). -/
def State.ownAddress (s : State) (pa : Nat) : Nat :=
  if bits pa 51 49 = 1 ∧ bits pa 48 40 = s.links.devnum then bits pa 39 0 else pa

/-- What an access of a context through a leaf reaches, or the code that it raises, in the order
PROTECTION, PRIVILEGED, WINDOW_FAULT (R64, R65, R126, R255, R374, R375, R384). -/
def State.through (s : State) (ctx : Nat) (k : Acc) (window : Bool) (e pbits va size : Nat) :
    Except Code Target :=
  let pa := s.ownAddress (bits e 51 12 * 4096 / 2 ^ pbits * 2 ^ pbits + va % 2 ^ pbits)
  let writes := k == .store || k == .atomic
  if !leafAllows e k || (leafPriv e && !s.priv ctx) then .error .protection
  else if leafWin e then
    if window then .ok (.window (bits e 17 12) (bits e 41 18 * 65536 + va % 65536))
    else .error .windowFault
  else match bits pa 51 49 with
    | 0 =>
      if pa ≥ localEnd || (writes && leafLease e == 6) then .error .protection
      else if s.inSave pa size && !s.priv ctx then .error .protection
      else if writes && s.marked pa size then .error .protection
      else .ok (.mem pa (leafLease e))
    | 1 => if writes && leafLease e == 6 then .error .protection else .ok (.peer pa (leafLease e))
    | 2 => if writes && leafLease e == 6 then .error .protection else .ok (.host pa (leafLease e))
    | _ =>
      if k == .atomic || k == .fetch || !(size == 4 || size == 8) then .error .protection
      else if !s.priv ctx then .error .privileged
      else .ok (.reg (bits pa 48 0))

/-- A translation for an instruction: from the cluster's cache, a miss, or a failure (R375, R377). -/
inductive Xl where
  | miss
  | failed
  | ok (t : Target)
  | bad (c : Code)
deriving DecidableEq

/-- The 64 KiB-aligned page of an address. -/
def pageOf (va : Nat) : Nat := va / 65536 * 65536

/-- Translate for an instruction of the path: a page whose walk has failed for it raises PAGE_FAULT,
a page that no cached leaf covers is a miss. -/
def State.xlate (s : State) (g : Group) (p : Path) (k : Acc) (window : Bool) (va size : Nat) : Xl :=
  if p.failed.any (fun f => f.1 == pageOf va) then .failed
  else match s.tlb? g.id.cluster g.ctx va with
    | none => .miss
    | some t => match s.through g.ctx k window t.leaf.toNat t.bits va size with
      | .ok t => .ok t
      | .error c => .bad c

/-- Translate for an access that the device makes on a context's behalf (R376). -/
def State.devXlate (s : State) (ctx : Nat) (k : Acc) (va size : Nat) : Except Code Target :=
  if va ≥ 2 ^ 56 then .error .spaceBounds
  else match s.walk ctx va with
    | .error _ => .error .pageFault
    | .ok (e, b) => s.through ctx k false e b va size

/-- Storage key of a target that has bytes. -/
def Target.key? : Target → Option Nat
  | .mem pa _ | .peer pa _ | .host pa _ => some pa
  | .reg _ | .window _ _ => none

/-- Bytes that the device reads at a virtual address, page by page of at most 64 KiB. -/
def State.devBytes (s : State) (ctx va : Nat) (n : Nat) : Except Code (List Byte) :=
  (List.range n).foldr (fun k acc =>
    match acc with
    | .error c => .error c
    | .ok bs =>
      match s.devXlate ctx .load (va + k) 1 with
      | .ok (.mem pa _) | .ok (.peer pa _) | .ok (.host pa _) => .ok (s.byte pa :: bs)
      | .ok _ => .error .protection
      | .error c => .error c) (.ok [])

/-- A little-endian number from bytes (R3). -/
def leNat : List Byte → Nat
  | [] => 0
  | b :: bs => b.toNat + 256 * leNat bs

/-- An aligned read of the device for a context: translated once. -/
def State.devRead (s : State) (ctx va n : Nat) : Except Code Nat :=
  match s.devXlate ctx .load va n with
  | .error c => .error c
  | .ok t => match t.key? with
    | some k => .ok (s.read k n)
    | none => .error .protection

/-! ### Fetch (R123 to R126) -/

/-- What the fetch at a path's program counter gives. -/
inductive Fetch where
  /-- An instruction, or a pad word. -/
  | instr (i : Instr)
  | trap (c : Code) (va : Nat)
  /-- No cached leaf covers the page (R377). -/
  | miss (page : Nat)
deriving DecidableEq

/-- The code of a refusal of the decoder (R144). -/
def rejectCode : Reject → Code
  | .illegalOpcode | .truncated => .illegalOpcode
  | .reservedNonzero => .reservedNonzero
  | .illegalOperand => .illegalOperand

/-- Words in a block from a key. -/
def State.words (s : State) (key : Nat) (n : Nat) : List Word :=
  (List.range n).map (fun k => BitVec.ofNat 32 (s.read (key + 4 * k) 4))

/-- Words of an instruction by its length code (R123). -/
def lenWords (w0 : Nat) : Nat :=
  match w0 % 4 with
  | 0 => 2
  | 1 => 3
  | 2 => 4
  | _ => 1

/-- Decode at a storage key: the block test of R124, then the decoder. -/
def State.decodeAt (s : State) (key pc : Nat) : Fetch :=
  let w0 := s.read key 4
  let n := lenWords w0
  if pc % 32 + 4 * n > 32 then .trap .illegalOpcode 0
  else match decodeWords (s.words key n) with
    | .ok i => .instr i
    | .error r => .trap (rejectCode r) 0

/-- Fetch for a group at a program counter, translated as a load of the text is (R126, R377). -/
def State.fetch (s : State) (g : Group) (pc : Nat) : Fetch :=
  if pc ≥ 2 ^ 56 then .trap .pageFault pc
  else match s.tlb? g.id.cluster g.ctx pc with
    | none => .miss (pageOf pc)
    | some l => match s.through g.ctx .fetch false l.leaf.toNat l.bits pc 4 with
      | .error c => .trap c pc
      | .ok t => match t.key? with
        | some k => s.decodeAt k pc
        | none => .trap .protection pc

end Sys2Proof.Machine
end

