-- ==== Sys2Proof/Machine/Select.lean ====
section
/-! DEFINITION. The choice of what a core issues: eligible slots (R300), congestion (R308, R309, R311), and the
ranking of groups (R306, R312). -/

namespace Sys2Proof.Machine

/-! ### Eligible slots (R300) -/

/-- The group is held at a faulting instruction until the host answers (R380). -/
def State.hostHeld (s : State) (g : Group) : Bool :=
  g.paths.any (fun p => match p.park with
    | some (.hostFault todo pages t) => !s.waitOver g p (.hostFault todo pages t)
    | _ => false)

/-- Nothing keeps the group's slots from being evaluated on this clock. With an interrupt pending it vectors
first (R209). -/
def State.mayTry (s : State) (g : Group) : Bool :=
  g.phase == .live && g.trapping.isNone && g.stopping.isNone && !g.saving && g.rebind.isEmpty && g.stalledAt != some s.clock &&
    !g.vectorDue && !s.hostHeld g

/-- The group takes part in the selection of its core on this clock. -/
def State.mayIssue (s : State) (g : Group) : Bool := s.mayTry g && g.lastIssue != some s.clock

/-- What held back an attempt of the path on this clock. -/
def State.heldBack (s : State) (g : Group) (p : Path) : Option (Nat × Bool) :=
  (g.held.find? (fun h => h.1 == s.clock && h.2.1 == p.id)).map (fun h => (h.2.2.1, h.2.2.2))

/-- Why the next instruction of a path in no wait does not issue (R314), and whether the wait is a memory one
(R310); 13 where nothing holds it. -/
def State.issueReason (s : State) (g : Group) (p : Path) : Nat × Bool :=
  match s.fetch g p.pc.toNat with
  | .trap _ _ => (13, false)
  | .miss _ => (0, false)
  | .instr i => match s.gate g p i with
    | .hold r m => (r, m)
    | _ => (13, false)

/-- The path in a slot is eligible: in no wait, fetched, past the gate, and held back by no condition of
its own. -/
def State.slotReady (s : State) (g : Group) (p : Path) : Bool :=
  !s.waits g p && (s.heldBack g p).isNone && (match s.fetch g p.pc.toNat with
    | .trap _ _ | .miss _ => true
    | .instr i => match s.gate g p i with
      | .hold _ _ => false
      | _ => true)

/-- The path of a slot, if it is eligible. -/
def State.readySlot (s : State) (g : Group) (unf : List (Nat × Fin 2)) (n : Fin 2) : Option Path :=
  (g.slotPath? n).filter (fun p => !unf.contains (g.id.slot, n) && s.slotReady g p)

/-- The slot that the group issues from (R300). -/
def State.pick (s : State) (g : Group) (unf : List (Nat × Fin 2)) : Option Path :=
  match s.readySlot g unf g.cs with
  | some p => if g.run < 64 then some p else
      match s.readySlot g unf (otherSlot g.cs) with
      | some q => some q
      | none => some p
  | none => s.readySlot g unf (otherSlot g.cs)

/-! ### Ranking (R306 to R309) -/

/-- The group ranks by its progress mark (R312). -/
def Group.firstMark (g : Group) : Option Nat :=
  if g.mark.isSome then g.markFirst else none

/-- Rank of a group, least first (R306). -/
def State.issueRank (s : State) (g : Group) : Nat :=
  let mark := g.firstMark.getD (2 ^ 64)
  let saves := bit01 (!(s.preempting g.ctx && g.paths.any (fun p => !s.parked g p)))
  (((mark * 2 + saves) * 4 + (3 - (s.desc g.ctx).prio % 4)) * 2 ^ 64 + g.age) * 64 + g.id.slot

/-- The groups of a core with an eligible slot. -/
def State.candidates (s : State) (cluster core : Nat) (unf : List (Nat × Fin 2)) : List (Group × Path) :=
  ((s.coreGroups cluster core).filter s.mayIssue).filterMap (fun g => (s.pick g unf).map (fun p => (g, p)))

/-- The allowance of a cluster for contexts of one congestion mode (R308, R309, R311). -/
def State.allowance (s : State) (cluster : Nat) (host : Bool) : Nat :=
  if s.cong.mode = 1 then 64
  else if host then pairGet 64 s.cong.allowHost cluster else pairGet 64 s.cong.allow cluster

/-- Issues of a core on this clock. -/
def State.issuesOf (s : State) (cluster core : Nat) : List (Nat × Option Bool) :=
  s.issues.filter (fun x => x.1 == 24 * cluster + core)

/-- How many instructions a core has issued on this clock (R306). -/
def State.issuedNow (s : State) (cluster core : Nat) : Nat := (s.issuesOf cluster core).length

/-- Memory-bound groups of a core that have issued on this clock, of one congestion mode: they count within
the allowance (R308). -/
def State.admitted (s : State) (cluster core : Nat) (host : Bool) : Nat :=
  ((s.issuesOf cluster core).filter (fun x => x.2 == some host)).length

/-- Memory-bound candidates beyond the allowance (R308, R309): a group that holds the mark is admitted
first. Of more marked groups than the allowance, which the rule both admits and bounds, those beyond it are left
out (log 66, DESIGN CHOICE). -/
def State.excluded (s : State) (cluster core : Nat) (cs : List (Group × Path)) : List (Group × Path) :=
  let share := fun (host : Bool) =>
    let ms := cs.filter (fun x => x.1.memoryBound && (s.desc x.1.ctx).mode 67 == host)
    let n := s.allowance cluster host - s.admitted cluster core host
    (sortBy (fun (x : Group × Path) => bit01 x.1.mark.isNone * 2 ^ 200 + s.issueRank x.1) ms).drop n
  share false ++ share true

/-- What a core may still issue on this clock, best first: at most two instructions (R306). -/
def State.ranked (s : State) (cluster core : Nat) (unf : List (Nat × Fin 2)) : List (Group × Path) :=
  let cs := s.candidates cluster core unf
  let out := s.excluded cluster core cs
  (sortBy (fun (x : Group × Path) => s.issueRank x.1) (cs.filter (fun x => !out.any (fun y => y.1.id == x.1.id)))).take
    (2 - s.issuedNow cluster core)

/-- The group and path that a core issues from next on this clock (R306). -/
def State.selected (s : State) (cluster core : Nat) (unf : List (Nat × Fin 2)) : Option (Group × Path) :=
  (s.ranked cluster core unf).head?

/-- The path is the one that its core issues from next (R300, R306). -/
def State.isNext (s : State) (i : GroupId) (path : Nat) : Bool :=
  (s.selected i.cluster i.core []).any (fun x => x.1.id == i && x.2.id == path)

/-- Apply to a next state. -/
def onNext (f : State → State) : Host.Outcome State Fault Refusal → Host.Outcome State Fault Refusal
  | .next s => .next (f s)
  | .fault r => .fault r
  | .refused r => .refused r

end Sys2Proof.Machine
end

