-- ==== Sys2Proof/Machine/Mem.lean ====
section
/-! DEFINITION. Accesses to the spaces: addresses and their checks (R196, R200, R213), the parts they
make (R52, R57 to R61, R73, R354, R356), L1 copies (R62, R67, R79, R82, R86), service at the homes
(R77, R80, R214, R276), and the completion of operations (R70, R97, R355). -/

namespace Sys2Proof.Machine

/-! ### Addresses (R196) -/

def optRd (g : Group) (p : Path) (r : Option Reg) (lane : Nat) : Word :=
  match r with
  | some r => g.rd p r.code lane
  | none => 0

/-- sext(disp, 32) as 64 bits. -/
def disp64 (d : Option Word) : DWord :=
  match d with
  | some w => w.signExtend 64
  | none => 0

def disp32 (d : Option Word) : Word := d.getD 0

/-- The .g address of a lane. -/
def addrGlobal (a : Addr) (g : Group) (p : Path) (lane : Nat) : Nat :=
  let base : DWord := match a.base with
    | some r => g.rd64 p r.code lane
    | none => 0
  (base + (optRd g p a.index lane).zeroExtend 64 + disp64 a.disp).toNat

/-- The offset of a lane in .p, .c, .k and .x. -/
def addrOffset (a : Addr) (g : Group) (p : Path) (lane : Nat) : Nat :=
  (optRd g p a.base lane + optRd g p a.index lane + disp32 a.disp).toNat

/-- The offset of a lane within a tile; the base register holds the handle. -/
def addrTileOffset (a : Addr) (g : Group) (p : Path) (lane : Nat) : Nat :=
  (optRd g p a.index lane + disp32 a.disp).toNat

/-- An address in a space: the number that the space's rules take, and the handle for .h. -/
structure Loc where
  space : Space
  a : Nat
  handle : Nat
deriving DecidableEq, Repr

def addrLoc (a : Addr) (g : Group) (p : Path) (sp : Space) (lane : Nat) : Loc :=
  match sp with
  | .g => { space := .g, a := addrGlobal a g p lane, handle := 0 }
  | .h => { space := .h, a := addrTileOffset a g p lane, handle := (optRd g p a.base lane).toNat }
  | sp => { space := sp, a := addrOffset a g p lane, handle := 0 }

/-! ### Storage of the local spaces -/

/-- The team whose .c window a lane uses; for a G=1 access, the team of the lowest-WID live thread
(R57, R331). -/
def Group.cTeam (g : Group) (wide : Bool) (lane : Nat) : Nat :=
  if wide then
    match leastBy (fun l => g.widOf l) (lanesOf g.live) with
    | some l => match g.thread? l with
      | some t => t.team
      | none => 0
    | none => 0
  else match g.thread? lane with
    | some t => t.team
    | none => 0

/-- Bytes of the region of .c, .k or .x (R52, R57 to R59). -/
def State.regionSize (s : State) (g : Group) (sp : Space) : Nat :=
  match sp with
  | .c => g.hdr.cscr * 256
  | .k => 24 * 65536 * g.hdr.kshare
  | .x => 96 * 1024 * (s.desc g.ctx).xshare
  | _ => 0

/-- Storage key of an offset of .c for a team (R57). -/
def Crew.cKey (c : Crew) (team off : Nat) : Nat :=
  match c.teams[team]? with
  | some t => scratchKey c.cluster t.home (t.cbase + off)
  | none => scratchKey c.cluster 0 off

/-- Storage key of an offset over 24 contributions that begin at a core-local base (R58). -/
def kKey (cluster base off : Nat) : Nat := scratchKey cluster (kCore off) (base + kLocal off)

/-- Storage key of an offset over the 96 slices from a slice-local base (R59). -/
def xKey (base off : Nat) : Nat := chipKey (xSlice off) (base + xLocal off)

def State.xbase (s : State) (ctx : Nat) : Nat :=
  match s.ctx? ctx with
  | some c => c.xbase
  | none => 0

/-- Storage key of an offset in .c, .k or .x for a lane. -/
def State.localKey (s : State) (g : Group) (wide : Bool) (lane : Nat) (sp : Space) (off : Nat) : Nat :=
  match s.groupCrew g with
  | none => 0
  | some c => match sp with
    | .c => c.cKey (g.cTeam wide lane) off
    | .k => kKey c.cluster c.kbase off
    | _ => xKey (s.xbase g.ctx) off

/-- Where .c, .k and .x accesses are performed. -/
def localVia (sp : Space) (off : Nat) : Via :=
  match sp with
  | .x => .slice (xSlice off)
  | _ => .bank

/-! ### Tiles by handle (R352, R354, R356) -/

def handleGen (h : Nat) : Nat := bits h 31 24
def handlePool (h : Nat) : Nat := bits h 23 16
def handleIndex (h : Nat) : Nat := bits h 15 0

/-- POOL and INDEX are in range (R196). -/
def Header.names (hd : Header) (h : Nat) : Bool :=
  decide (handlePool h < hd.pools.length) && decide (handleIndex h < hd.tiles (handlePool h))

def Header.pool? (hd : Header) (h : Nat) : Option PoolDecl := hd.pools[handlePool h]?

/-- The partition and tile that a handle names. -/
def State.tile? (s : State) (kid crew h : Nat) : Option Tile :=
  match s.crew? kid crew with
  | none => none
  | some c => match c.part? (handlePool h) with
    | none => none
    | some p => some (p.tile (handleIndex h))

/-- A handle is current (R354). -/
def State.current (s : State) (hd : Header) (kid crew h : Nat) : Bool :=
  hd.names h && (match s.tile? kid crew h with
    | some t => t.st == .held && t.gen == handleGen h
    | none => false)

def Group.tileRef (g : Group) (h : Nat) : TileRef where
  kid := g.kid
  crew := g.crew
  pool := handlePool h
  index := handleIndex h
  gen := handleGen h

/-- Cores that hold an image, in ascending order: MCAST, or none for an ordinary pool (R351). -/
def PoolDecl.images (d : PoolDecl) : List Nat :=
  (List.range 24).filter (fun k => d.mcast.testBit k)

/-- Space of a pool: 0 .c, 1 .k, 2 .x (R281). -/
def PoolDecl.sp (d : PoolDecl) : Space :=
  match d.space with
  | 0 => .c
  | 1 => .k
  | _ => .x

/-- Home core of the crew's team 0. -/
def Crew.home0 (c : Crew) : Nat :=
  match c.teams[0]? with
  | some t => t.home
  | none => 0

/-- Storage keys of a byte of a tile, one for each image (R351). -/
def Crew.tileKeys (c : Crew) (d : PoolDecl) (base index off : Nat) : List Nat :=
  let o := index * d.tsize + off
  match d.sp with
  | .c => if d.mcast = 0 then [scratchKey c.cluster c.home0 (base + o)]
    else d.images.map (fun k => scratchKey c.cluster k (base + o))
  | .k => [kKey c.cluster base o]
  | _ => [xKey base o]

/-- Keys of a tile's byte by handle. -/
def State.tileKeys (s : State) (hd : Header) (kid crew h off : Nat) : List Nat :=
  match s.crew? kid crew, hd.pool? h with
  | some c, some d => match c.part? (handlePool h) with
    | some p => c.tileKeys d p.base (handleIndex h) off
    | none => []
  | _, _ => []

/-- The image that serves a load on a core (R356). -/
def loadImage (cluster core : Nat) (keys : List Nat) : Nat :=
  match keys.find? (fun k => (k - 2 ^ 52) / 2 ^ 20 == cluster * 24 + core && decide (k < 2 ^ 53)) with
  | some k => k
  | none => keys.headD 0

def keyVia (key : Nat) : Via := if key ≥ 2 ^ 53 then .slice (chipSlice key) else .bank

/-! ### Paths (R69) -/

/-- The access path of a space. -/
def pathOf (hd : Header) (l : Loc) (store : Bool) : Nat :=
  match l.space with
  | .g | .p => if store then 1 else 0
  | .c => 2
  | .k => 3
  | .x => 4
  | .h => match hd.pool? l.handle with
    | some d => match d.sp with
      | .c => 2
      | .k => 3
      | _ => 4
    | none => 2

/-! ### The checks of one lane (R200, R213) -/

/-- Place of a code in the trap lists of R200 and R213. -/
def Code.place : Code → Nat
  | .misaligned | .misalignedAtomic => 0
  | .spaceBounds => 1
  | .privateLimit => 2
  | .pageFault => 3
  | .protection => 4
  | .privileged => 5
  | .windowFault => 6
  | .tileStale => 7
  | _ => 8

/-- A piece of a lane's access after its checks. -/
structure Piece where
  idx : Nat
  /-- Counter path (R69). -/
  path : Nat
  key : Nat
  size : Nat
  via : Via
  /-- Lease class of its page, for a global line that L1 may hold; 8 for a private word. -/
  lease : Nat
  /-- Order among stores of the instruction: window offset for a window access (R74). -/
  order : Nat
deriving DecidableEq, Repr

/-- What the checks of one lane give. -/
inductive LaneRes where
  | ok (ps : List Piece)
  | miss (page : Nat)
  | fault (c : Code) (va : Nat)
deriving DecidableEq

/-- What one access request is. -/
structure Want where
  kind : Acc
  /-- Bytes per lane, bytes per access. -/
  bytes : Nat
  unit : Nat
  /-- The code of a misaligned address. -/
  misaligned : Code
  /-- Windows are allowed (R384). -/
  window : Bool
  wide : Bool
  /-- Device-register space raises PROTECTION (R65). -/
  noReg : Bool
deriving DecidableEq

/-- First fault of a list of results, in the order of the trap list, else a miss, else all pieces. -/
def joinRes : List LaneRes → LaneRes
  | [] => .ok []
  | r :: rs => match r, joinRes rs with
    | .fault c v, .fault d w => if c.place ≤ d.place then .fault c v else .fault d w
    | .fault c v, .miss q => if c.place < 3 then .fault c v else .miss q
    | .fault c v, _ => .fault c v
    | .miss q, .fault d w => if d.place < 3 then .fault d w else .miss q
    | .miss q, _ => .miss q
    | .ok _, .fault d w => .fault d w
    | .ok _, .miss q => .miss q
    | .ok a, .ok b => .ok (a ++ b)

/-- Where a target's bytes are served, with the lease class. -/
def State.targetVia (s : State) : Target → Nat × Via × Nat
  | .mem pa lease => (pa, .slice (s.slice pa), lease)
  | .peer pa lease => (pa, .peer (bits pa 48 40), lease)
  | .host pa lease => (pa, .host, lease)
  | .reg off => (off, .reg, 0)
  | .window _ off => (off, .reg, 0)

/-- One element of a window access: index entry and target translated by the walker (R73, R385). No copy
in L1 serves it, so its lease class is 0. Index and target are found as the access issues (log 65, DESIGN
CHOICE). -/
def State.element (s : State) (ctx : Nat) (kind : Acc) (w : WinBind) (idx o size : Nat) :
    Option Piece :=
  let entry := w.index + 4 * (o / w.esize)
  let cut := match s.devXlate ctx .load entry 4 with
    | .ok t => t.key?.any (s.cutOff ctx)
    | .error _ => false
  match if cut then .error .linkDown else s.devRead ctx entry 4 with
  | .error _ => none
  | .ok i => match s.devXlate ctx kind (w.base + i * w.esize + o % w.esize) size with
    | .error _ => none
    | .ok (.reg _) | .ok (.window _ _) => none
    | .ok t =>
      let (key, via, _) := s.targetVia t
      some { idx := idx, path := if kind == .load then 0 else 1, key := key, size := size, via := via,
             lease := 0, order := o }

/-- The pieces of a window access of `size` bytes at window offset `o` (R73, R385). -/
def State.windowPieces (s : State) (ctx : Nat) (kind : Acc) (slot idx o size : Nat) :
    Option (List Piece) :=
  match s.ctx? ctx with
  | none => none
  | some c => match c.wins.find? (fun w => w.1 == slot) with
    | none => none
    | some (_, w) =>
      if o + size > w.n * w.esize then none
      else
        let step := Nat.min w.esize size
        (List.range (size / step)).foldr (fun k acc => match acc, s.element ctx kind w
            (idx + k * step) (o + k * step) step with
          | some ps, some p => some (p :: ps)
          | _, _ => none) (some [])

/-- One unit of a global access (R52, R374, R385). -/
def State.nearPiece (s : State) (g : Group) (p : Path) (w : Want) (va idx size : Nat) : LaneRes :=
  match s.xlate g p w.kind w.window va size with
  | .miss => .miss (pageOf va)
  | .failed => .fault .pageFault va
  | .bad c => .fault (if w.noReg && c == .privileged then .protection else c) va
  | .ok (.reg off) => if w.noReg then .fault .protection va
    else .ok [{ idx := idx, path := if w.kind == .load then 0 else 1, key := off, size := size, via := .reg,
                lease := 0, order := 0 }]
  | .ok (.window slot off) => match s.windowPieces g.ctx w.kind slot idx off size with
    | some ps => .ok ps
    | none => .fault .windowFault va
  | .ok t =>
    let (key, via, lease) := s.targetVia t
    .ok [{ idx := idx, path := if w.kind == .load then 0 else 1, key := key, size := size, via := via,
           lease := lease, order := 0 }]

/-- The checks and pieces of a part of a global access; one whose destination no UP route reaches takes
LINK_DOWN (R389) (log 38, DEDUCED). -/
def State.globalPiece (s : State) (g : Group) (p : Path) (w : Want) (va idx size : Nat) : LaneRes :=
  match s.nearPiece g p w va idx size with
  | .ok ps => if ps.any (fun x => x.via != .reg && s.cutOff g.ctx x.key) then .fault .linkDown va else .ok ps
  | r => r

/-- Base of a thread's private area, and the virtual address of its private word w (R60). -/
def State.privWord (s : State) (g : Group) (lane w : Nat) : Nat :=
  match s.groupCrew g, g.thread? lane with
  | some c, some t =>
    let base := match c.teams[t.team]? with
      | some x => x.privbase
      | none => 0
    base + (t.home / 32 * g.hdr.privw + w) * 128 + t.home % 32 * 4
  | _, _ => 0

/-- The checks and pieces of one lane's access. -/
def State.laneAccess (s : State) (g : Group) (p : Path) (w : Want) (lane : Nat) (l : Loc) : LaneRes :=
  if l.a % w.unit != 0 then .fault w.misaligned (if l.space = .g then l.a else 0)
  else match l.space with
    | .g =>
      if l.a + w.bytes > 2 ^ 56 then .fault .spaceBounds (Nat.max l.a (2 ^ 56))
      else joinRes ((List.range (w.bytes / w.unit)).map (fun k =>
        s.globalPiece g p w (l.a + k * w.unit) (k * w.unit) w.unit))
    | .p =>
      let first := l.a / 4
      let n := (l.a + w.bytes - 1) / 4 + 1 - first
      if first + n > g.hdr.privw then
        .fault .privateLimit (s.privWord g lane (if first ≥ g.hdr.privw then first else g.hdr.privw))
      else joinRes ((List.range n).map (fun k =>
        match s.globalPiece g p { w with window := false } (s.privWord g lane (first + k) + l.a % 4) (k * 4)
            (Nat.min 4 w.bytes) with
        | .ok ps => .ok (ps.map (fun x => { x with lease := 8 }))
        | r => r))
    | .h =>
      if !g.hdr.names l.handle then .fault .tileStale 0
      else match g.hdr.pool? l.handle with
        | none => .fault .tileStale 0
        | some d =>
          if l.a + w.bytes > d.tsize then .fault .spaceBounds 0
          else if !s.current g.hdr g.kid g.crew l.handle then .fault .tileStale 0
          else .ok ((List.range (w.bytes / w.unit)).flatMap (fun k =>
            let keys := s.tileKeys g.hdr g.kid g.crew l.handle (l.a + k * w.unit)
            let keys := if w.kind == .load then [loadImage g.id.cluster g.id.core keys] else keys
            keys.map (fun key => { idx := k * w.unit, path := pathOf g.hdr l (w.kind != .load), key := key,
                                   size := w.unit, via := keyVia key, lease := 0, order := 0 })))
    | sp =>
      if l.a + w.bytes > s.regionSize g sp then .fault .spaceBounds 0
      else .ok ((List.range (w.bytes / w.unit)).map (fun k =>
        let o := l.a + k * w.unit
        { idx := k * w.unit, path := pathOf g.hdr l (w.kind != .load), key := s.localKey g w.wide lane sp o,
          size := w.unit, via := localVia sp o, lease := 0, order := 0 }))

/-- The checks of every active lane. -/
inductive AccessRes where
  | ok (ps : List (Nat × Piece))
  | wait (pages : List Nat)
  | trap (c : Code) (lane va : Nat)
deriving DecidableEq

/-- Add without repeats. -/
def addNew (x : Nat) (l : List Nat) : List Nat := if l.contains x then l else l ++ [x]

/-- Combine the lanes: the code that stands first in the trap list, in the lowest lane in which it
holds (R13, R375); else the pages that miss; else every piece. -/
def joinLanes : List (Nat × LaneRes) → AccessRes
  | [] => .ok []
  | (l, r) :: rs => match r, joinLanes rs with
    | .fault c v, .trap d l' w => if c.place ≤ d.place then .trap c l v else .trap d l' w
    | .fault c v, .wait q => if c.place < 3 then .trap c l v else .wait q
    | .fault c v, _ => .trap c l v
    | .miss q, .trap d l' w => if d.place < 3 then .trap d l' w else .wait [q]
    | .miss q, .wait qs => .wait (addNew q qs)
    | .miss q, .ok _ => .wait [q]
    | .ok _, .trap d l' w => .trap d l' w
    | .ok _, .wait q => .wait q
    | .ok a, .ok b => .ok (a.map (fun x => (l, x)) ++ b)

/-- Tiles named by the lanes, once each. -/
def Group.tilesOf (g : Group) (ls : List (Nat × Loc)) : List TileRef :=
  ls.foldl (fun acc x => if x.2.space = .h ∧ !acc.contains (g.tileRef x.2.handle)
    then acc ++ [g.tileRef x.2.handle] else acc) []

def State.modTile (s : State) (t : TileRef) (f : Tile → Tile) : State :=
  s.modCrew t.kid t.crew (fun c => match c.part? t.pool with
    | some p => c.setPart t.pool (p.setTile t.index (f (p.tile t.index)))
    | none => c)

/-- A consuming access would read a tile that owes no more reads (R354). -/
def State.overread (s : State) (t : TileRef) : Bool :=
  match s.tile? t.kid t.crew (t.index + t.pool * 2 ^ 16) with
  | some x => x.count - x.pend == 0
  | none => true

/-- The access of an instruction: each active lane with its location. -/
def State.access (s : State) (g : Group) (p : Path) (w : Want) (consume : Bool) (ls : List (Nat × Loc)) :
    AccessRes :=
  match joinLanes (ls.map (fun x => (x.1, s.laneAccess g p w x.1 x.2))) with
  | .ok ps =>
    if consume then
      match ls.find? (fun x => s.overread (g.tileRef x.2.handle)) with
      | some x => .trap .tileOverread x.1 0
      | none => .ok ps
    else .ok ps
  | r => r

/-- An index entry of a window access lies in bytes that the group has stored and that are not yet
acknowledged (R77). -/
def State.indexPending (s : State) (g : Group) (slot o size : Nat) : Bool :=
  match (s.ctx? g.ctx).bind (fun c => c.wins.find? (fun w => w.1 == slot)) with
  | none => false
  | some (_, w) => (List.range (size / Nat.min w.esize size)).any (fun k =>
    match s.devXlate g.ctx .load (w.index + 4 * ((o + k * w.esize) / w.esize)) 4 with
    | .error _ => false
    | .ok t => match t.key? with
      | none => false
      | some key => (s.opsOf g).any (fun x => x.kind.isStore &&
          x.parts.any (fun y => !y.done && y.via != .reg && overlap key 4 y.key y.size)))

/-- A window access that the walker does not serve yet: a gather reads only after every earlier store of
the group is acknowledged (R90), and a scatter reads its index entries after the group's own stores to
them (R77). -/
def State.windowHeld (s : State) (g : Group) (p : Path) (w : Want) (ls : List (Nat × Loc)) : Bool :=
  w.window && ls.any (fun x => x.2.space = .g && (List.range (w.bytes / w.unit)).any (fun k =>
    match s.xlate g p w.kind true (x.2.a + k * w.unit) w.unit with
    | .ok (.window slot off) =>
      (w.kind == .load && !s.storesAcked g s.nextId) || s.indexPending g slot off w.unit
    | _ => false))

/-- Misses in a host-assisted context wait for the host; others raise, and so does an instruction of which it has
answered FAIL for a page (R375, R380). -/
def State.faultWait (s : State) (g : Group) (p : Path) : Bool :=
  (s.desc g.ctx).mode 64 && p.failed.any (fun f => !f.2.2) && !p.failed.any (fun f => f.2.2)

def Acc.kindNum : Acc → Nat
  | .load => 0
  | .store => 1
  | .atomic => 2
  | .fetch => 3

/-- What the instruction answers when its access does not go on; `k` is the kind of its access to a page. -/
def State.refuseAs (s : State) (g : Group) (p : Path) (k : Nat → Acc) (detail : Nat) : AccessRes → Res
  | .wait pages => .wait s (.walk pages)
  | .trap c lane va =>
    if c == .pageFault && s.faultWait g p then
      let fs := p.failed.filter (fun f => !f.2.2)
      .wait s (.hostFault (fs.map (fun f => (f.1, f.2.1, (k f.1).kindNum))) (fs.map (·.1)) s.time)
    else .trap c lane detail va
  | .ok _ => .hold 0 false

/-- The same, where every page is accessed alike. -/
def State.refuse (s : State) (g : Group) (p : Path) (k : Acc) (detail : Nat) (r : AccessRes) : Res :=
  s.refuseAs g p (fun _ => k) detail r

/-! ### L1 copies -/

def State.l1? (s : State) (cluster core line : Nat) : Option L1Line :=
  s.l1.find? (fun l => l.cluster == cluster && l.core == core && l.line == line)

def State.setL1 (s : State) (l : L1Line) : State :=
  { s with l1 := upsert (fun x => x.cluster == l.cluster && x.core == l.core && x.line == l.line) l s.l1 }

def State.dropL1 (s : State) (cluster core line : Nat) : State :=
  { s with l1 := s.l1.filter (fun x => !(x.cluster == cluster && x.core == core && x.line == line)) }

/-- Bytes of a line at an offset, as a number. -/
def L1Line.num (l : L1Line) (off : Nat) : Nat → Nat
  | 0 => 0
  | n + 1 => (SMap.get 0 l.bytes off).toNat + 256 * l.num (off + 1) n

def rangeMask (off n : Nat) : Nat := (2 ^ n - 1) * 2 ^ off

def L1Line.has (l : L1Line) (off n : Nat) : Bool := l.valid &&& rangeMask off n == rangeMask off n

/-- Put bytes into a line; those of `mask` only. -/
def putBytes (m : SMap Byte) (off mask : Nat) : Nat → Nat → SMap Byte
  | 0, _ => m
  | n + 1, v => putBytes (if mask % 2 = 1 then SMap.set 0 m off (BitVec.ofNat 8 v) else m) (off + 1)
      (mask / 2) n (v / 256)

/-- A copy granted at TIME `t`, with order number `n`, is not older than the last `fence.sc` (R86). -/
def afterSc (t n : Nat) : Option (Nat × Nat) → Bool
  | none => true
  | some (u, m) => decide (u < t) || (u == t && decide (m ≤ n))

/-- A global copy that a load of the group may use: unexpired, and granted after its last `fence.sc`, a
class 6 copy as well (R67, R79, R86) (log 54, DEDUCED). -/
def L1Line.usable (l : L1Line) (now : Nat) (sc : Option (Nat × Nat)) : Bool :=
  match l.kind with
  | .leased e g => decide (now < e) && afterSc g l.stamp sc
  | .class6 g => afterSc g l.stamp sc
  | .priv _ => false

/-- An access of the group to the bytes, other than a store, that is not yet performed, or whose reply
has not arrived and that was served after a copy of order number `n` was granted (R77). -/
def State.ownPending (s : State) (g : Group) (key size n : Nat) : Bool :=
  (s.opsOf g).any (fun o => o.kind.ordinary && o.kind != .store &&
    o.parts.any (fun y => !y.done && y.via != .reg && (y.got.isNone || decide (n ≤ y.stamp)) && y.via != .l1 &&
      overlap key size y.key y.size))

/-- Order number of the oldest of `n` bytes of a copy from `off` (R77). -/
def L1Line.oldest (l : L1Line) (off : Nat) : Nat → Nat
  | 0 => l.stamp
  | 1 => Nat.max l.stamp (SMap.get 0 l.stamps off)
  | n + 1 => Nat.min (Nat.max l.stamp (SMap.get 0 l.stamps off)) (l.oldest (off + 1) n)

/-- What L1 gives a load of a piece at issue: a hit on private bytes, or on a global copy unless the
piece's own page is of class 0 or a window (R67, R73). -/
def State.l1Hit (s : State) (g : Group) (priv : Bool) (x : Piece) : Option Nat :=
  match s.l1? g.id.cluster g.id.core (lineOf x.key) with
  | none => none
  | some l =>
    if priv then
      match l.kind with
      | .priv c => if c == g.ctx && l.has (x.key % 128) x.size then some (l.num (x.key % 128) x.size) else none
      | _ => none
    else if x.lease != 0 && l.usable s.time g.scTime && !s.ownPending g x.key x.size (l.oldest (x.key % 128) x.size) then
      some (l.num (x.key % 128) x.size)
    else none

/-! ### Operations -/

/-- A part from a checked piece; store data or an atomic operand in `b`, the new value of `.cas` in
`c`. -/
def Piece.part (x : Piece) (lane : Nat) (who : Owner) (b c : Nat) : Part where
  lane := lane
  who := who
  idx := x.idx
  path := x.path
  key := x.key
  size := x.size
  via := x.via
  b := b
  c := c
  got := none
  fwdMask := 0
  fwd := 0
  done := false
  tw := 0
  sysDone := match x.via with
    | .peer _ | .host => false
    | _ => true
  stamp := 0

/-- The bytes of a private piece that L1 holds, where it does not hold all (R62): mask and bytes. -/
def State.privHeld (s : State) (g : Group) (x : Piece) : Nat × Nat :=
  match s.l1? g.id.cluster g.id.core (lineOf x.key) with
  | some l => match l.kind with
    | .priv c => if c == g.ctx then (l.valid / 2 ^ (x.key % 128) % 2 ^ x.size, l.num (x.key % 128) x.size) else (0, 0)
    | _ => (0, 0)
  | none => (0, 0)

/-- A load's part: an L1 hit holds its value at once, and stores in the group's store buffer cover
their bytes (R82), as private bytes in L1 do. Lines of peer and host memory hit under class 6 alone
(R83). -/
def State.loadPart (s : State) (g : Group) (sp : Space) (x : Piece) (pt : Part) : Part :=
  match x.via with
  | .slice _ =>
    if x.key ≥ 2 ^ 52 then pt
    else
      let (m, f) := if sp = .g then s.forward g x.key x.size else if sp = .p then s.privHeld g x else (0, 0)
      let pt := { pt with fwdMask := m, fwd := f }
      match s.l1Hit g (sp = .p) x with
      | some v => { pt with via := .l1, got := some (overlay x.size m f v) }
      | none => pt
  | .peer _ | .host =>
    let (m, f) := if sp = .g then s.forward g x.key x.size else (0, 0)
    let pt := { pt with fwdMask := m, fwd := f }
    match if x.lease = 6 then s.l1Hit g false x else none with
    | some v => { pt with via := .l1, got := some (overlay x.size m f v) }
    | none => pt
  | _ => pt

/-- The number of the request queue of a part: its slice, 96 for a peer, 97 for the host. -/
def Via.queue : Via → Option Nat
  | .slice n => some n
  | .peer _ => some 96
  | .host => some 97
  | _ => none

/-- Data bytes that a part's request carries: the operands of each lane of an atomic or of a conditional store,
one after the other, and none for a load; lanes of a store that lie in one line share its bytes (R53). -/
def OpKind.operandBytes (k : OpKind) (p : Part) : Nat :=
  match k with
  | .atom op _ _ | .ratom op _ _ => if op = .cas then 2 * p.size else p.size
  | .stc _ _ => p.size
  | _ => 0

/-- Operand bytes of a request. -/
def Op.reqBytes (o : Op) (r : Req) : Nat :=
  sumNat (r.parts.map (fun i => match o.parts[i]? with
    | some p => o.kind.operandBytes p
    | none => 0))

/-- Add a part to the requests of its operation: one request for each line, and a further one where it
would carry more than 128 data bytes (R19). -/
def Op.addReq (o : Op) (rs : List Req) (id slice line idx lease n : Nat) : List Req :=
  let fits := fun (r : Req) => r.slice == slice && r.line == line && decide (o.reqBytes r + n ≤ 128)
  if rs.any fits then updFirst fits (fun r => { r with parts := r.parts ++ [idx] }) rs
  else rs ++ [{ id := id + rs.length, cluster := o.gid.cluster, core := o.gid.core, slice := slice, op := o.id,
                line := line, parts := [idx], sent := false, mark := false, lease := lease, link := none,
                waiting := false, back := false }]

/-- The requests of an operation's unperformed parts: to the slices, to peers and to the host. -/
def Op.requests (o : Op) (id : Nat) (leases : List Nat) : List Req :=
  (o.parts.zip leases).zipIdx.foldl (fun rs x =>
    let p := x.1.1
    if p.got.isSome then rs
    else match p.via.queue with
      | some n => o.addReq rs id n (lineOf p.key) x.2 x.1.2 (o.kind.operandBytes p)
      | none => rs) []

/-- Requests outstanding for a core (R311). -/
def State.outstanding (s : State) (cluster core : Nat) : Nat :=
  (s.reqs.filter (fun r => r.cluster == cluster && r.core == core && decide (r.slice < 96) && !r.waiting)).length

/-- Window of outstanding requests of a core (R311). -/
def State.window (s : State) (cluster core : Nat) : Nat :=
  match s.cong.win.find? (fun w => w.1 == cluster * 24 + core) with
  | some w => w.2
  | none => 256

/-- A new operation of the path. -/
def State.newOp (s : State) (g : Group) (p : Path) (lanes : Mask) (kind : OpKind) (parts : List Part)
    (paths : List Nat) (tiles : List TileRef) : Op where
  id := s.nextId
  ctx := g.ctx
  gid := g.id
  gval := g.gval
  kid := g.kid
  crew := g.crew
  wid := g.lowWid lanes
  pc := p.pc
  kind := kind
  parts := parts
  paths := paths
  admitted := tiles
  after := s.nextId
  tw := 0
  low := g.lowWid g.live

/-- Distinct access paths of the lanes. -/
def pathsOf (hd : Header) (ls : List (Nat × Loc)) (store : Bool) : List Nat :=
  ls.foldl (fun acc x => addNew (pathOf hd x.2 store) acc) []

/-- A counter of one of the paths stands at 63 (R70). -/
def Group.full (g : Group) (paths : List Nat) : Bool := paths.any (fun k => decide (g.count k ≥ 63))

/-- Where a storage key is served (R64): global memory by its region, scratchpads by their kind. -/
def State.viaOf (s : State) (key : Nat) : Via :=
  if key ≥ 2 ^ 52 then keyVia key
  else match bits key 51 49 with
    | 0 => .slice (s.slice key)
    | 1 => .peer (bits key 48 40)
    | _ => .host

/-- What an engine operation reads and what it writes, by storage key. -/
def OpKind.transfers : OpKind → List Nat × List Nat
  | .cpa _ cs _ _ => (cs.map (·.src), cs.flatMap (·.dst))
  | .mdrain _ _ _ _ images _ _ => ([], images.flatten)
  | .mload _ _ keys _ => (keys, [])
  | _ => ([], [])

/-- Lines of a list of storage keys that lie at slices, at peers or with the host, with their request queues. -/
def State.homeLines (s : State) (keys : List Nat) : List (Nat × Nat) :=
  keys.foldl (fun acc k => match (s.viaOf k).queue with
    | some n => if acc.contains (n, lineOf k) then acc else acc ++ [(n, lineOf k)]
    | none => acc) []

/-- The requests of an engine for lines of other homes than banks (R19, R26). In mark mode those to slices that do
not fit the core's window wait in the coalescer (R311). -/
def State.lineReqs (s : State) (op cluster core id : Nat) (lines : List (Nat × Nat)) : List Req :=
  let free := if s.cong.mode = 1 then s.window cluster core - s.outstanding cluster core else lines.length
  lines.zipIdx.map (fun y =>
    { id := id + y.2, cluster := cluster, core := core, slice := y.1.1, op := op, line := y.1.2,
      parts := [], sent := false, mark := false, lease := 0, link := none,
      waiting := decide (y.1.1 < 96 ∧ free ≤ y.2), back := false })

/-- The requests of an engine transfer: one to read and one to write each line (R19). -/
def State.transferReqs (s : State) (o : Op) (id : Nat) : List Req :=
  let x := o.kind.transfers
  s.lineReqs o.id o.gid.cluster o.gid.core id (s.homeLines x.1 ++ s.homeLines x.2)

/-- An engine has a request for every line of some storage, and all of them have been sent (R19). -/
def State.reached (s : State) (op : Nat) (keys : List Nat) : Bool :=
  (s.homeLines keys).all (fun y => s.reqs.any (fun r => r.op == op && r.line == y.2)) && s.carried op keys

/-- An engine that finds its storage as it runs makes the requests that it still lacks (R19). -/
def State.askFor (s : State) (op cluster core : Nat) (keys : List Nat) : State :=
  let new := (s.homeLines keys).filter (fun y => !s.reqs.any (fun r => r.op == op && r.line == y.2))
  { s with nextId := s.nextId + new.length, reqs := s.reqs ++ s.lineReqs op cluster core s.nextId new }

/-- Requests to peers and to the host whose transfer has been performed go, but for lines still to be used. -/
def State.servedAbroad (s : State) (op : Nat) (keys left : List Nat) : State :=
  { s with reqs := s.reqs.filter (fun r => !(r.op == op && decide (r.slice ≥ 96) &&
      keys.any (fun k => lineOf k == r.line) && !left.any (fun k => lineOf k == r.line))) }

/-- Add an operation with its requests. -/
def State.addOp (s : State) (o : Op) (leases : List Nat) : State :=
  let rs := o.requests (s.nextId + 1) leases
  let rs := rs ++ s.transferReqs o (s.nextId + 1 + rs.length)
  { s with nextId := s.nextId + 1 + rs.length, ops := s.ops ++ [o], reqs := s.reqs ++ rs }

/-- Start an operation: its requests, its counters, and its admissions to tiles. -/
def State.startOp (s : State) (g : Group) (o : Op) (leases : List Nat) (consume : List TileRef) : State :=
  let s := s.addOp o leases
  let s := s.modGroup g.id (fun g =>
    { g with flights := g.flights ++ o.paths.map (fun k => { path := k, op := o.id, done := false }) })
  let s := o.admitted.foldl (fun s t => s.modTile t (fun x => { x with adm := x.adm + 1 })) s
  consume.foldl (fun s t => s.modTile t (fun x => { x with pend := x.pend + 1 })) s

/-- The request would carry the core past its window in mark mode (R311) (log 18, DEDUCED). -/
def State.overWindow (s : State) (g : Group) (o : Op) (leases : List Nat) : Bool :=
  s.cong.mode == 1 &&
  decide (s.outstanding g.id.cluster g.id.core + ((o.requests 0 leases).filter (fun r => decide (r.slice < 96))).length >
    s.window g.id.cluster g.id.core)

/-- MEM record (R413). -/
def State.recordMem (s : State) (g : Group) (l : Loc) (path : Nat) (write : Bool) : State :=
  let addr := if l.space = .g then bits l.a 55 2 else bits l.a 31 0
  let code := match l.space with
    | .g => 0
    | .p => 1
    | .c => 2
    | .k => 3
    | .x => 4
    | .h => 5
  s.recordG g 3 (addr * 2 ^ 24 + code * 2 ^ 21 + path * 2 ^ 18 + bit01 write * 2 ^ 17)

/-- The party of an engine operation's writes for a context: it owns no reservation. -/
def engineOwner (ctx : Nat) : Owner := .group (256 + ctx) 0

/-- The party of what the host and peers write. -/
def outsider : Owner := engineOwner 256

/-- The context for which a party writes. -/
def Owner.ctx : Owner → Nat
  | .thread c _ => c
  | .group c _ => if c < 256 then c else c - 256

/-! ### Service at the homes -/

/-- The ingress controllers let go of a line's words before the slice serves it (R406). The words are in
storage at all times, so nothing is written. -/
def State.releaseIngress (s : State) (line : Nat) : State :=
  if s.links.icache.any (fun w => lineOf w.2.1 == line) then
    { s with links := { s.links with icache := s.links.icache.filter (fun w => lineOf w.2.1 != line) } }
  else s

/-- T_w of a store applied now to a line (R80). -/
def State.writeTime (s : State) (key : Nat) : Nat :=
  if key ≥ 2 ^ 49 then s.time
  else match s.expiry.find? (lineOf key) with
    | some e => Nat.max s.time e
    | none => Nat.max s.time (SMap.get 0 s.eDrop (s.slice key))

/-- Reservations of other parties on the bytes are cleared (R214). -/
def State.breakResv (s : State) (who : Owner) (key size : Nat) : State :=
  { s with resv := s.resv.filter (fun r => r.owner == who ||
      !overlap key size r.key (if r.w64 then 8 else 4)) }

/-- A written word that a `tlwait` watches: those whose threshold it meets stay released, but for those whose
timeout has passed (R276, R279). -/
def State.wakeTimelines (s : State) (key size : Nat) : State :=
  let met := fun (k : Park) => match k with
    | .tlwait w va thr e sys d => if overlap w 8 key size && s.tlMet w thr d then .tlwait w va 0 e sys d else k
    | k => k
  { s with groups := s.groups.map (fun (g : Group) => { g with paths := g.paths.map (fun (p : Path) => p.mapWait met) }) }

/-- The home slice marks a granule of local HBM4 that a context in record mode writes (R429). -/
def State.markDirty (s : State) (c key : Nat) : State :=
  if key < localEnd && (s.ctx? c).any (fun x => x.replayMode == 1) then
    if s.dirty.contains (c, key / 4096) then s else { s with dirty := s.dirty ++ [(c, key / 4096)] }
  else s

/-- Apply a store of bytes at a home (R77, R80). -/
def State.applyStore (s : State) (who : Owner) (key size v : Nat) : State :=
  (((s.write key size v).breakResv who key size).wakeTimelines key size).markDirty who.ctx key

/-- A valid reservation of the owner for the address and width (R214). -/
def State.reserved (s : State) (who : Owner) (key : Nat) (w64 : Bool) : Bool :=
  s.resv.any (fun r => r.owner == who && r.key == key && r.w64 == w64 && decide (s.clock < r.clock + 4096))

/-- Slice of a storage key: chip scratchpad, or the home of a local line. -/
def State.keySlice (s : State) (key : Nat) : Nat :=
  if key ≥ 2 ^ 53 then chipSlice key else s.slice key

/-- Take a reservation: the owner's old one goes, and the oldest of a full table of the slice (R214). -/
def State.reserve (s : State) (who : Owner) (key : Nat) (w64 : Bool) : State :=
  let s := s.dropOwner who
  let mine := s.resv.filter (fun r => s.keySlice r.key == s.keySlice key)
  let s := if mine.length ≥ 4096 then
      match mine with
      | old :: _ => { s with resv := s.resv.erase old }
      | [] => s
    else s
  { s with resv := s.resv ++ [{ owner := who, key := key, w64 := w64, clock := s.clock }] }

/-- Perform a part at its home now: the new state, and the part with what it read and its T_w. -/
def State.perform (s : State) (kind : OpKind) (p : Part) : State × Part :=
  let s := { s with nextId := s.nextId + 1 }
  let p := { p with stamp := s.nextId }
  match kind with
  | .store | .writeback =>
    (s.applyStore p.who p.key p.size p.b, { p with got := some 0, tw := s.writeTime p.key })
  | .atom op w64 _ | .ratom op w64 _ =>
    let old := s.read p.key p.size
    (s.applyStore p.who p.key p.size (op.apply w64 old p.b p.c),
     { p with got := some old, tw := s.writeTime p.key })
  | .tlsig set v =>
    let old := s.read p.key 8
    (s.applyStore p.who p.key 8 (if set then v else Nat.max old v),
     { p with got := some old, tw := s.writeTime p.key })
  | .ldr _ _ => (s.reserve p.who p.key (p.size == 8), { p with got := some (s.read p.key p.size) })
  | .stc _ _ =>
    if s.reserved p.who p.key (p.size == 8) then
      ((s.applyStore p.who p.key p.size p.b).dropOwner p.who, { p with got := some 0, tw := s.writeTime p.key })
    else (s.dropOwner p.who, { p with got := some 1 })
  | _ => (s, { p with got := some (overlay p.size p.fwdMask p.fwd (s.read p.key p.size)) })

/-- Perform the parts of an operation whose positions `f` selects, in order. -/
def State.performParts (s : State) (o : Op) (f : Nat → Part → Bool) : State × Op :=
  let (s, ps) := o.parts.zipIdx.foldl (fun (acc : State × List Part) x =>
    if f x.2 x.1 && x.1.got.isNone && !x.1.done then
      let (s, p) := acc.1.perform o.kind x.1
      (s, acc.2 ++ [p])
    else (acc.1, acc.2 ++ [x.1])) (s, [])
  (s, { o with parts := ps })

def State.putOp (s : State) (o : Op) : State := s.modOp o.id (fun _ => o)

/-- The 128 bytes of a line. -/
def State.lineBytes (s : State) (line : Nat) : SMap Byte :=
  (List.range 128).foldl (fun m k => SMap.set 0 m k (s.byte (line + k))) []

/-! ### Private lines and the capacity of L1 (R21, R62) -/

/-- Perform the write-backs that a core has in flight to some bytes: they reach the home before later
ones of the core (R62, R216) (log 17, DEDUCED). -/
def State.pullBacks (s : State) (cluster core key n : Nat) : State :=
  (s.ops.filter (fun o => o.kind == .writeback && o.gid.cluster == cluster && o.gid.core == core)).foldl
    (fun (s : State) o =>
      let (s, o) := s.performParts o (fun _ p => overlap key n p.key p.size)
      s.putOp o) s

/-- No write-back of a core to a line is still to be performed. -/
def State.backsDone (s : State) (cluster core line : Nat) : Bool :=
  s.ops.all (fun o => o.kind != .writeback || o.gid.cluster != cluster || o.gid.core != core ||
    o.parts.all (fun p => p.got.isSome || p.done || lineOf p.key != line))

/-- The write-back parts of a private line: one for each word that is dirty and named by the mask, or for each byte
of a word of which that holds in part. -/
def L1Line.dirtyParts (l : L1Line) (who : Nat → Owner) (mask slice : Nat) : List Part :=
  (List.range 32).flatMap (fun w =>
    let d := bits (l.dirty &&& mask) (4 * w + 3) (4 * w)
    let mk := fun (off n : Nat) =>
      ({ idx := 0, path := 1, key := l.line + off, size := n, via := .slice slice, lease := 0, order := 0 } : Piece).part
        0 (who off) (l.num off n) 0
    if d = 15 then [mk (4 * w) 4]
    else (List.range 4).filterMap (fun k => if d.testBit k then some (mk (4 * w + k) 1) else none))

/-- The operation of a core that writes private words back; it belongs to no group, and its slot number is one past
the last (R62). -/
def L1Line.backOp (l : L1Line) (id : Nat) (parts : List Part) : Op where
  id := id
  ctx := l.ctx
  gid := { cluster := l.cluster, core := l.core, slot := 64 }
  gval := 0
  kid := l.kid
  crew := 2 ^ 32
  wid := 0
  pc := 0
  kind := .writeback
  parts := parts
  paths := []
  admitted := []
  after := id
  tw := 0

/-- A write-back that a core makes of its own. -/
def Op.ofCore (o : Op) : Bool := o.kind == .writeback && o.gid.slot == 64

/-- Write back the dirty bytes of a private line that a mask names, by requests to its home; the named bytes leave
the line (R19, R62). `who` is the party of the word at an offset. -/
def State.writeBack (s : State) (l : L1Line) (who : Nat → Owner) (mask : Nat) : State :=
  let parts := l.dirtyParts who mask (s.slice l.line)
  let s := if parts.isEmpty then s
    else
      let s := s.pullBacks l.cluster l.core l.line 128
      s.addOp (l.backOp s.nextId parts) (parts.map (fun _ => 0))
  let l := { l with
    dirty := l.dirty - (l.dirty &&& mask)
    valid := l.valid - (l.valid &&& mask)
    bytes := l.bytes.filter (fun b => !mask.testBit b.1) }
  if l.valid = 0 then s.dropL1 l.cluster l.core l.line else s.setL1 l

/-- Evict a line, written back first where it is dirty (R62). -/
def State.evictLine (s : State) (l : L1Line) : State :=
  match l.kind with
  | .priv _ => (s.writeBack l (fun _ => engineOwner l.ctx) (2 ^ 128 - 1)).dropL1 l.cluster l.core l.line
  | _ => s.dropL1 l.cluster l.core l.line

/-- Lines of a core's L1 (R21). -/
def State.l1Used (s : State) (cluster core : Nat) : Nat :=
  (s.l1.filter (fun x => x.cluster == cluster && x.core == core)).length

/-- A line may leave an L1: a private line only where the L1 holds its 1,024 lines (R21, R62) (log 7, DESIGN
CHOICE). -/
def State.mayEvict (s : State) (l : L1Line) : Bool :=
  match l.kind with
  | .priv _ => decide (s.l1Used l.cluster l.core ≥ 1024)
  | _ => true

/-- Put a line into an L1 of 128 KiB in 128-byte lines: where the core holds 1,024 others, the one that
has stood there longest is evicted, and a private line of another context at the same place is written
back first (R21, R62) (log 7, DESIGN CHOICE). -/
def State.installL1 (s : State) (l : L1Line) : State :=
  match s.l1? l.cluster l.core l.line with
  | some old =>
    if old.kind == l.kind || old.dirty = 0 then s.setL1 l else (s.evictLine old).setL1 l
  | none =>
    match s.l1.filter (fun x => x.cluster == l.cluster && x.core == l.core) with
    | first :: rest => if rest.length ≥ 1023 then (s.evictLine first).setL1 l else s.setL1 l
    | [] => s.setL1 l

/-- A private store goes into the L1 line, which it allocates (R62) (log 17, DEDUCED). -/
def State.privStore (s : State) (g : Group) (key size v : Nat) : State :=
  let line := lineOf key
  let fresh : L1Line := { cluster := g.id.cluster, core := g.id.core, line := line, kind := .priv g.ctx,
                          ctx := g.ctx, stamp := 0, bytes := [], valid := 0, dirty := 0, kid := g.kid }
  let l := match s.l1? g.id.cluster g.id.core line with
    | some l => if l.kind == LineKind.priv g.ctx then l else fresh
    | none => fresh
  let off := key % 128
  s.installL1 { l with
    bytes := putBytes l.bytes off (2 ^ size - 1) size v
    valid := l.valid ||| rangeMask off size
    dirty := l.dirty ||| rangeMask off size }

/-! ### Completion of operations -/

/-- Lower ADM of the admitted tiles; a RETURNING tile with ADM zero becomes FREE (R355). -/
def State.releaseTiles (s : State) (ts : List TileRef) : State :=
  ts.foldl (fun s t => s.modCrew t.kid t.crew (fun c => match c.part? t.pool with
    | none => c
    | some p =>
      let x := p.tile t.index
      let x := { x with adm := x.adm - 1 }
      if x.st == .returning && x.adm == 0 then
        c.setPart t.pool { (p.setTile t.index { x with st := .free, count := 0, pend := 0 }) with
          heldn := p.heldn - 1 }
      else c.setPart t.pool (p.setTile t.index x))) s

/-- Consuming decrements: COUNT and PEND fall, and at COUNT zero the tile is RETURNING with its
generation advanced (R97, R353, R355). -/
def State.consumeTiles (s : State) (ts : List TileRef) : State :=
  ts.foldl (fun s t => s.modTile t (fun x =>
    let x := { x with count := x.count - 1, pend := x.pend - 1 }
    if x.st == .held && x.count == 0 then { x with st := .returning, gen := (x.gen + 1) % 256 } else x)) s

/-- A RETURNING tile without admitted accesses becomes FREE (R353). -/
def State.settleTiles (s : State) (ts : List TileRef) : State :=
  ts.foldl (fun s t => s.modCrew t.kid t.crew (fun c => match c.part? t.pool with
    | none => c
    | some p =>
      let x := p.tile t.index
      if x.st == .returning && x.adm == 0 then
        c.setPart t.pool { (p.setTile t.index { x with st := .free, count := 0, pend := 0 }) with
          heldn := p.heldn - 1 }
      else c)) s

/-- The largest T_w of an operation's parts. -/
def Op.partsTw (o : Op) : Nat := maxNat (o.parts.map (·.tw))

/-- A T_w returns to the group, unless it is that of an engine operation, for which no fence waits, and to its
launch; in a context being killed, to the kill (R87, R88, R100, R263). -/
def State.noteTw (s : State) (o : Op) (tw : Nat) : State :=
  let s := match (s.opGroup o).filter (fun _ => o.kind.ordinary) with
    | some g => s.setGroup { g with twMax := Nat.max g.twMax tw }
    | none => s
  let s := s.modLaunch o.kid (fun l => { l with tw := Nat.max l.tw tw })
  s.modCtx o.ctx (fun c => if c.st == .killing then { c with killTw := Nat.max c.killTw tw } else c)

/-- The instruction completes on its paths (R70). -/
def State.completeOp (s : State) (o : Op) : State :=
  match s.opGroup o with
  | some g => s.setGroup (g.completeAll o.id o.paths)
  | none => s

/-- A peer's reply packets to an operation's requests have come (R391). -/
def State.repliedTo (s : State) (o : Op) : Bool :=
  s.reqs.all (fun r => r.op != o.id || r.slice != 96 || r.back)

/-- Every part of an operation has a value, or can be read now at a bank. -/
def State.ready (s : State) (o : Op) : Bool :=
  s.repliedTo o && o.parts.all (fun p => p.got.isSome || p.done || (p.via == .bank && s.partFree o p))

/-- An earlier access of the group to a tile is still outstanding (R97). -/
def State.tileBusy (s : State) (o : Op) (ts : List TileRef) : Bool :=
  s.ops.any (fun x => x.gid == o.gid && x.gval == o.gval && decide (x.id < o.id) &&
    x.admitted.any (fun t => ts.contains t))

/-- The bytes that a performed part left at its location. -/
def OpKind.stored (k : OpKind) (p : Part) : Nat :=
  match k with
  | .atom op w64 _ | .ratom op w64 _ => op.apply w64 (p.got.getD 0) p.b p.c
  | .tlsig set v => if set then v else Nat.max (p.got.getD 0) v
  | .load _ _ | .ldr _ _ => p.got.getD 0
  | _ => p.b

/-- The bytes of a performed part that its home gave or took: for a load those that did not come from
the store buffer. -/
def OpKind.homeMask (k : OpKind) (p : Part) : Nat :=
  match k with
  | .load _ _ => (2 ^ p.size - 1) - ((2 ^ p.size - 1) &&& p.fwdMask)
  | _ => 2 ^ p.size - 1

/-- Put into a copy those of `n` bytes of a part of order number `p` at `off` that its home gave or took and that
are not older than what stands there (R77). -/
def L1Line.take (l : L1Line) (off mask p : Nat) : Nat → Nat → L1Line
  | 0, _ => l
  | n + 1, v =>
    L1Line.take (if mask % 2 = 1 ∧ l.oldest off 1 ≤ p then
        { l with bytes := SMap.set 0 l.bytes off (BitVec.ofNat 8 v), stamps := SMap.set 0 l.stamps off p }
      else l) (off + 1) (mask / 2) p n (v / 256)

/-- A copy in the issuing core's L1 takes the bytes of a performed part, but for those that stand there by its
grant or by an access of the core and are later at their home (R82, R98); so a later load of the group does not
return an older value than an earlier access that its home served (R77) (log 55, DEDUCED). -/
def State.updateCopy (s : State) (o : Op) (p : Part) : State :=
  match s.l1? o.gid.cluster o.gid.core (lineOf p.key) with
  | none => s
  | some l => match l.kind with
    | .priv _ => s
    | _ => s.setL1 (l.take (p.key % 128) (o.kind.homeMask p) p.stamp p.size (o.kind.stored p))

/-- Requests go, since their replies are with their core; in mark mode each reply brings its mark (R311). -/
def State.replyTo (s : State) (f : Req → Bool) : State :=
  let marks := ((s.reqs.filter f).filter (fun r => r.sent && decide (r.slice < 96 ∧ r.core < 24))).map
    (fun r => (24 * r.cluster + r.core, r.mark))
  { s with
    reqs := s.reqs.filter (fun r => !f r)
    cong := if s.cong.mode = 1 then { s.cong with echo := s.cong.echo ++ marks } else s.cong }

/-- The requests of a finished operation go, but for those off the device that are not yet complete at
system scope (R83). -/
def State.dropReqs (s : State) (o : Op) : State :=
  s.replyTo (fun r => r.op == o.id && !(decide (r.slice ≥ 96) &&
      r.parts.any (fun i => match o.parts[i]? with
        | some p => !p.sysDone
        | none => false)))

/-- A part that its home has served. -/
def Part.homed (p : Part) : Bool :=
  decide (p.key < 2 ^ 52) && (match p.via with
    | .slice _ | .peer _ | .host => true
    | _ => false)

/-- Copies of the parts that a result brings back (R77, R82, R98); a failed `stc` has stored nothing. -/
def State.updateCopies (s : State) (o : Op) (ps : List Part) : State :=
  ps.foldl (fun (s : State) (p : Part) => match o.kind with
    | .stc _ _ => if p.homed && p.got == some 0 then s.updateCopy o p else s
    | _ => if p.homed then s.updateCopy o p else s) s

/-- Lines of peer and host memory that a load under class 6 brings into L1 (R83): each as a copy granted
now. -/
def State.keepAbroad (s : State) (o : Op) : State :=
  (s.reqs.filter (fun r => r.op == o.id && decide (r.slice ≥ 96) && r.lease == 6)).foldl (fun (s : State) r =>
    match o.kind with
    | .load _ _ => { s with nextId := s.nextId + 1 }.installL1
        { cluster := r.cluster, core := r.core, line := r.line, kind := .class6 s.time, ctx := o.ctx,
          stamp := s.nextId, bytes := s.lineBytes r.line, valid := 2 ^ 128 - 1, dirty := 0 }
    | _ => s) s

/-- Deliver the part of a load that lies on one of its several paths: its lanes' registers and the path's counter
(R70). The rest stays in flight, and the tiles are released with the last of it (R199, R355). -/
def State.deliverPath (s : State) (o : Op) (k : Nat) : State :=
  let (s, o) := s.performParts o (fun _ p => p.path == k)
  match o.kind with
  | .load d _ =>
    let lanes := o.parts.foldl (fun (m : Mask) p => if p.path == k then m ||| laneBit p.lane else m) 0
    let s := match s.opGroup o with
      | none => s
      | some g => s.setGroup (({ d with lanes := d.lanes &&& lanes }.writeAll g o.parts).complete o.id k)
    s.putOp { o with
      paths := o.paths.filter (· != k)
      parts := o.parts.map (fun (p : Part) => if p.path == k then { p with done := true } else p) }
  | _ => s

/-- Deliver a load or an atomic's result: registers, windows, counters, tiles (R70, R169, R355). A
store part to a peer or the host stays until it is complete at system scope (R83). -/
def State.deliver (s : State) (o : Op) : State :=
  let (s, o) := s.performParts o (fun _ _ => true)
  let s := match s.opGroup o with
    | none => s
    | some g => match o.kind.dest with
      | some d => s.setGroup ((d.writeAll g o.parts).settle o.id)
      | none => s
  let s := if o.kind.isStore then s.noteTw o o.partsTw else s
  let s := (s.keepAbroad o).updateCopies o o.parts
  let s := s.completeOp o
  let consume := match o.kind with
    | .load _ c => c
    | _ => []
  let s := (s.consumeTiles consume).releaseTiles o.admitted
  let s := s.settleTiles consume
  let s := s.dropReqs o
  if o.kind.isStore && o.parts.any (fun p => !p.sysDone) then
    let ps := o.parts.map (fun (p : Part) => { p with done := true })
    s.putOp { o with kind := .store, paths := [], admitted := [], parts := ps }
  else s.delOp o.id

/-- Acknowledge one part of a store (R82, R87): an instruction completes on each path when its last part
there is acknowledged (R70), and leaves its tiles with the last of all (R355). -/
def State.ackPart (s : State) (o : Op) (i : Nat) (p : Part) : State :=
  let p := { p with done := true }
  let o := { o with parts := o.parts.set i p }
  let s := s.noteTw o p.tw
  let s := if p.homed then s.updateCopy o p else s
  let ends := fun (k : Nat) => decide (o.paths.length ≥ 2) && o.parts.all (fun q => q.done || q.path != k)
  let s := match s.opGroup o with
    | some g => s.setGroup (g.completeAll o.id (o.paths.filter ends))
    | none => s
  let o := { o with paths := o.paths.filter (fun k => !ends k) }
  if o.parts.all (·.done) then
    let s := (s.completeOp o).releaseTiles o.admitted
    let s := s.dropReqs o
    if o.parts.all (·.sysDone) then s.delOp o.id
    else s.putOp { o with kind := .store, paths := [], admitted := [] }
  else s.putOp o

end Sys2Proof.Machine
end

