-- ==== Sys2Proof/Machine/Leave.lean ====
section
/-! DEFINITION. What leaving lanes do to their group and crew: fusion at a token (R151), private
write-backs (R62), barrier steps (R340 to R342), reorder instances (R317, R324, R325), and the end of
a group's last lane (R152, R209, R240). -/

namespace Sys2Proof.Machine

/-! ### Private write-backs (R62) -/

/-- Virtual address of private word `w` of a home slot of a team (R60). -/
def Crew.privAddr (c : Crew) (privw : Nat) (t : Thread) (w : Nat) : Nat :=
  (match c.teams[t.team]? with
    | some x => x.privbase
    | none => 0) + (t.home / 32 * privw + w) * 128 + t.home % 32 * 4

/-- Where the private words of some threads lie, with their owners (R60). -/
def State.wordsOf (s : State) (ctx : Nat) (c : Crew) (privw : Nat) (ts : List Thread) : List (Nat × Owner) :=
  ts.flatMap (fun t => (List.range privw).filterMap (fun w =>
    let va := c.privAddr privw t w
    match s.walk ctx va with
    | .error _ => none
    | .ok (e, b) => some (bits e 51 12 * 4096 / 2 ^ b * 2 ^ b + va % 2 ^ b, .thread ctx t.wid)))

/-- Write back and invalidate the private words of threads in every L1 of the cluster (R62). -/
def State.returnPrivate (s : State) (ctx : Nat) (c : Crew) (privw : Nat) (ts : List Thread) : State :=
  let mine := s.l1.filter (fun l => l.cluster == c.cluster && l.kind == .priv ctx)
  let ws := if mine.isEmpty then [] else s.wordsOf ctx c privw ts
  mine.foldl (fun (s : State) (l : L1Line) =>
    let here := ws.filter (fun w => lineOf w.1 == l.line)
    if here.isEmpty then s
    else s.writeBack l (fun off => ((here.find? (fun w => w.1 % 128 == off / 4 * 4)).map (·.2)).getD (engineOwner ctx))
      (here.foldl (fun m w => m ||| rangeMask (w.1 % 128) 4) 0)) s

/-! ### Barriers (R340, R341, R342) -/

/-- Set bit `k` of a word to `b`. -/
def putBit (w k : Nat) (b : Bool) : Nat :=
  if b then (if w.testBit k then w else w + 2 ^ k) else (if w.testBit k then w - 2 ^ k else w)

/-- Write APH of a thread's arrival word (R338). -/
def State.setAph (s : State) (key k : Nat) (b : Bool) : State :=
  s.write key 4 (putBit (s.read key 4) k b)

/-- Teams whose threads are members: one team, or all for a crew barrier (R337). -/
def Crew.memberTeams (c : Crew) : Option Nat → List Nat
  | some t => [t]
  | none => List.range c.teams.length

/-- A phase completes when its condition holds (R340). -/
def BarEntry.complete (e : BarEntry) : Bool :=
  if e.expl then e.arr == e.target else e.arr == e.live

def BarEntry.next (e : BarEntry) : BarEntry where
  phase := !e.phase
  expl := false
  gone := 0
  target := 0
  live := e.live - e.gone
  arr := 0

/-- Completion rewrites APH of every member (R340). -/
def State.rewriteAph (s : State) (c : Crew) (size : Nat) (team : Option Nat) (b : Nat) (ph : Bool) : State :=
  (c.memberTeams team).foldl (fun s t => (List.range size).foldl (fun s h =>
    s.setAph (c.wordKey t h) (aphBit team.isNone b) ph) s) s

def State.teamSize (s : State) (kid : Nat) : Nat :=
  match s.launch? kid with
  | some l => l.hdr.team
  | none => 0

/-- A step on a saved crew's entry is made in the barrier image of the save area (R346). -/
def State.imageStep (s : State) (kid : Nat) (c : Crew) : State :=
  match c.image, s.launch? kid with
  | some _, some l => s.keepBarriers l.ctx c.cluster
  | _, _ => s

/-- Store an entry after a step, and test R340. -/
def State.barStep (s : State) (kid crew : Nat) (team : Option Nat) (b : Nat) (e : BarEntry) : State :=
  match s.crew? kid crew with
  | none => s
  | some c =>
    if e.complete then
      let s := s.rewriteAph c (s.teamSize kid) team b e.phase
      (s.modCrew kid crew (fun c => c.setBar team b e.next)).imageStep kid c
    else (s.modCrew kid crew (fun c => c.setBar team b e)).imageStep kid c

/-- One barrier of which an exiting thread is a member (R341). -/
def State.barExit (s : State) (kid crew : Nat) (t : Thread) (team : Option Nat) (b : Nat) : State :=
  match s.crew? kid crew with
  | none => s
  | some c => match c.bar? team b with
    | none => s
    | some e =>
      if s.pending c t team.isNone b then
        s.modCrew kid crew (fun c => c.setBar team b { e with gone := e.gone + 1 })
      else s.barStep kid crew team b { e with live := e.live - 1 }

/-- Every barrier of an exiting thread (R341). -/
def State.barExits (s : State) (kid crew : Nat) (hd : Header) (t : Thread) : State :=
  let s := (List.range hd.tbar).foldl (fun s b => s.barExit kid crew t (some t.team) b) s
  (List.range hd.cbar).foldl (fun s b => s.barExit kid crew t none b) s

/-- One arrival at an entry, with or without an explicit count: none where R342 raises. -/
def BarEntry.arrive (e : BarEntry) (n : Option Nat) : Option BarEntry :=
  let e := match n with
    | some n =>
      if n = 0 ∨ n > e.live ∨ (!e.expl ∧ e.arr > 0) ∨ (e.expl ∧ n ≠ e.target) then none
      else some { e with expl := true, target := n }
    | none => if e.expl then none else some e
  match e with
  | none => none
  | some e => if e.expl ∧ e.arr + 1 > e.target then none else some { e with arr := e.arr + 1 }

/-! ### Reorder instances -/

/-- A new instance. -/
def RInst.start (rspill : Nat) : RInst where
  rspill := rspill
  ref := none
  recs := []
  ready := []
  nextSeq := 0
  emitted := 0
  spilled := 0
  counts := []
  flushed := false

/-- Cut a list into sets of 32. -/
def cut32 {α : Type} : Nat → List α → List (List α)
  | 0, _ => []
  | n + 1, l => match l with
    | [] => []
    | _ => l.take 32 :: cut32 n (l.drop 32)

/-- Keys of the binned records, ascending. -/
def RInst.keys (i : RInst) : List Nat :=
  sortBy (fun k => k) (i.recs.foldl (fun acc r => addNew r.key acc) [])

/-- Records of one key in ascending WID. -/
def RInst.bin (i : RInst) (k : Nat) : List Record :=
  sortBy (fun r => r.thread.wid) (i.recs.filter (fun r => r.key == k))

/-- Write the rank of each record of a bin by its position, counted from `n`. -/
def rankFrom (n : Nat) (rs : List Record) : List Record :=
  rs.zipIdx.map (fun x => { x.1 with thread := { x.1.thread with rank := BitVec.ofNat 32 (n + x.2) } })

/-- Form the groups of an instance whose threads have all arrived or exited (R324, R325). -/
def RInst.flush (i : RInst) (merge stream : Bool) : RInst :=
  let bins := i.keys.map (fun k => if stream then i.bin k else rankFrom 0 (i.bin k))
  let sets := bins.map (fun b => cut32 b.length b)
  let sets := if merge then
      let full := sets.flatMap (fun ss => ss.filter (fun x => x.length == 32))
      let rest := sets.flatMap (fun ss => (ss.filter (fun x => x.length != 32)).flatten)
      full ++ cut32 rest.length rest
    else sets.flatten
  { i with recs := [], ready := i.ready ++ sets, flushed := true }

/-- Full groups that a streamed instance forms after a path: the first 32 of a bin in bin order, each
in ascending WID (R325). Of several such bins the one of the lowest key comes first (log 79, DESIGN CHOICE). -/
def RInst.form : Nat → RInst → RInst
  | 0, i => i
  | n + 1, i =>
    match i.keys.find? (fun k => decide ((i.recs.filter (fun r => r.key == k)).length ≥ 32)) with
    | none => i
    | some k =>
      let set := (i.recs.filter (fun r => r.key == k)).take 32
      RInst.form n { i with
        recs := i.recs.filter (fun r => !set.any (fun x => x.seq == r.seq))
        ready := i.ready ++ [sortBy (fun r => r.thread.wid) set] }

/-- Every thread of the crew has made its arrival number `n + 1` or exited (R317). -/
def State.allArrived (s : State) (kid crew n : Nat) : Bool :=
  (s.crewGroups kid crew).all (fun g => (lanesOf g.live).all (fun l => match g.thread? l with
    | some t => decide (t.arrivals > n)
    | none => true))

/-- Flush the emitting instance when every thread has arrived or exited, and end it when its last
group has been emitted; then the next one (R317, R318). -/
def State.reorderCheck (s : State) (kid crew : Nat) : Nat → State
  | 0 => s
  | fuel + 1 =>
    match s.crew? kid crew with
    | none => s
    | some c =>
      match c.insts with
      | [] => s
      | i :: rest =>
        let i := if !i.flushed && s.allArrived kid crew c.instDone then
            match i.ref with
            | some r => i.flush r.merge r.stream
            | none => { i with flushed := true }
          else i
        if i.flushed && i.ready.isEmpty then
          (s.modCrew kid crew (fun c => { c with
            insts := rest
            instDone := c.instDone + 1
            lastSpill := Nat.min (2 ^ 32 - 1) i.spilled })).reorderCheck kid crew fuel
        else s.modCrew kid crew (fun c => { c with insts := i :: rest })

/-! ### Removing lanes -/

/-- Take lanes out of every mask of a token table. -/
def lessLanes (m : Mask) (t : SMap Mask) : SMap Mask :=
  (t.map (fun (e : Nat × Mask) => (e.1, e.2 &&& ~~~m))).filter (fun e => e.2 != 0)

/-- Barriers wait and arrive for the active lanes only (R344, R345, R350). -/
def Park.lessLanes (m : Mask) : Park → Park
  | .bar b c lanes => .bar b c (lanes &&& ~~~m)
  | .barArrive u b c lanes cnt sync => .barArrive u b c (lanes &&& ~~~m) cnt sync
  | k => k

def lessPaths (m : Mask) (ps : List Path) : List Path :=
  (ps.map (fun (p : Path) => { p with mask := p.mask &&& ~~~m, park := p.park.map (Park.lessLanes m) })).filter
    (fun p => p.mask != 0)

/-- Take lanes out of the group's paths and tokens, those of a handler frame included (R152, R154). -/
def Group.lessLanes (g : Group) (m : Mask) : Group :=
  { g with
    paths := lessPaths m g.paths
    tokE := Machine.lessLanes m g.tokE
    tokW := Machine.lessLanes m g.tokW
    frame := g.frame.map (fun (f : Frame) => { paths := lessPaths m f.paths
                                               tokE := Machine.lessLanes m f.tokE
                                               tokW := Machine.lessLanes m f.tokW }) }

/-- Values for these lanes of pending loads are discarded (R152). -/
def State.dropDests (s : State) (g : Group) (m : Mask) : State :=
  let cut := fun (d : Dest) => { d with lanes := d.lanes &&& ~~~m }
  { s with ops := s.ops.map (fun (o : Op) =>
      if o.gid == g.id && o.gval == g.gval && o.kid == g.kid then
        { o with kind := match o.kind with
          | .load d c => .load (cut d) c
          | .ldr d x => .ldr (cut d) x
          | .stc d x => .stc (cut d) x
          | .atom a w (some d) => .atom a w (some (cut d))
          | .ratom a w (some d) => .ratom a w (some (cut d))
          | k => k }
      else o) }

/-! ### Fusion (R151) -/

def Park.atToken (k : Fin 16) : Option Park → Bool
  | some (.rcv t) => t == k
  | _ => false

/-- Paths parked at a token. -/
def Group.atToken (g : Group) (k : Fin 16) : List Path := g.paths.filter (fun p => Park.atToken k p.park)

/-- Fuse the paths parked at a token whose arrived mask is complete. `arrival` names the path whose
arrival completed it; its slot takes the fused path, which otherwise joins the fragment queue
(log 22, DEDUCED). -/
def State.fuse (s : State) (gid : GroupId) (k : Fin 16) (arrival : Option Nat) : State :=
  match s.group? gid with
  | none => s
  | some g =>
    let e := SMap.get 0 g.tokE k.val
    let ps := g.atToken k
    let lead := match arrival with
      | some i => g.path? i
      | none => ps.head?
    match lead with
    | none => s
    | some q =>
      if ps.any (fun p => p.stack != q.stack) then
        s.trap g { path := some q.id, code := some .illegalConvergence, lane := lowLane e, kind := 2,
                   detail := 0, space := 0, va := 0, pc := q.pc, wid := none, order := none }
      else
        let f := { q with mask := e, pc := q.pc + 8, park := none, windows := [], woken := false, kept := none }
        let g := { g with
          paths := g.paths.filter (fun p => !Park.atToken k p.park || p.id == q.id)
          tokE := g.tokE.del k.val
          tokW := g.tokW.del k.val }
        let g := g.setPath f
        let s := s.setGroup g
        let s := s.sched g 4 e q.pc k.val
        match arrival with
        | some _ => s
        | none =>
          let g' := { g with paths := g.paths.filter (fun p => p.id != q.id) }
          let (s', f) := (s.setGroup g').queuePath g' { f with place := .detached }
          s'.modGroup gid (fun g => { g with paths := g.paths ++ [f] }.noteFrag)

/-- Fuse every token whose arrived mask equals its expected mask. -/
def State.fuseAll (s : State) (gid : GroupId) : State :=
  (List.finRange 16).foldl (fun (s : State) (k : Fin 16) =>
    match s.group? gid with
    | none => s
    | some g =>
      let e := SMap.get 0 g.tokE k.val
      if e != 0 && SMap.get 0 g.tokW k.val == e && g.trapping.isNone then s.fuse gid k none else s) s

/-! ### The end of a group -/

/-- Tiles of the group that carry a fault mark (R240). -/
def State.marks (s : State) (g : Group) : List AccTile :=
  (s.engine g.engineNum).tiles.filter (fun t => t.owner == g.id && t.mark.isSome)

/-- The trap of an instruction that has issued before (R240, R259): KIND 3, lane 0, its address, and the lowest WID
that its group held when it issued (R460). -/
def markTrap (c : Code) (pc : DWord) (wid : Nat) (path : Option Nat) : TrapReq where
  path := path
  code := some c
  lane := 0
  kind := 3
  detail := 0
  space := 0
  va := 0
  pc := pc
  wid := some wid
  order := none

def State.raiseMark (s : State) (g : Group) (t : AccTile) (path : Option Nat) : State :=
  match t.mark with
  | none => s
  | some (c, pc, wid) => s.trap g (markTrap c pc wid path)

/-- A draining group raises the mark of a tile (R240). -/
def State.raiseDraining (s : State) (i : GroupId) : State :=
  match s.group? i with
  | none => s
  | some g => if g.phase != .draining || g.trapping.isSome then s
    else match s.marks g with
      | t :: _ => s.raiseMark g t none
      | [] => s

/-- Clear ARM of a cell that still names the group (R209). -/
def State.disarm (s : State) (g : Group) (r : CellRef) : State :=
  let c := s.cell r
  if c.arm && c.armCore == g.id.core && c.armSlot == g.id.slot then s.setCell r { c with arm := false }
  else s

/-- The last live lane has exited: interrupts are discarded and the group drains (R152, R209, R298). -/
def State.lastExit (s : State) (gid : GroupId) : State :=
  match s.group? gid with
  | none => s
  | some g =>
    if g.live != 0 || g.phase != .live then s
    else
      let s := g.intReq.foldl (fun (s : State) (r : CellRef) => s.disarm g r) s
      let g := { g with
        phase := .draining
        discarded := Nat.min 4 (g.intReq.length + g.intPend.length)
        intReq := []
        intPend := [] }
      ((s.setGroup g).dropResv g).raiseDraining gid

/-- The threads of these lanes end (R152). -/
def State.exitLanes (s : State) (gid : GroupId) (m : Mask) : State :=
  match s.group? gid with
  | none => s
  | some g =>
    let ts := (lanesOf m).filterMap (fun l => g.thread? l)
    let s := ts.foldl (fun (s : State) (t : Thread) => s.dropOwner (.thread g.ctx t.wid)) s
    let s := s.dropDests g m
    let s := s.setGroup (g.lessLanes m)
    let s := ts.foldl (fun (s : State) (t : Thread) => s.barExits g.kid g.crew g.hdr t) s
    let s := (s.fuseAll gid).lastExit gid
    s.reorderCheck g.kid g.crew 3

end Sys2Proof.Machine
end

