-- ==== Sys2Proof/Machine/Vector.lean ====
section
/-! DEFINITION. The vector instructions and their group-wide forms (R166, R172 to R195): each acts in
the active lanes, or once for G=1 under its guard; lanes read before they write (R11). -/

namespace Sys2Proof.Machine

/-! ### Shared shape -/

/-- Lanes in which a form acts: the active lanes, or lane 0 standing for the group (R132). -/
def Group.acting (g : Group) (p : Path) (wide : Bool) (gd : Guard) : List Nat :=
  if wide then (if g.guard gd then [0] else []) else lanesOf (g.active p gd)

/-- A source operand as 64 bits; `imm` gives the value of an immediate (R170). -/
def Group.src (g : Group) (p : Path) (n : Nat) (x : Src) (imm : Word → DWord) (lane : Nat) : DWord :=
  match x with
  | .reg r => g.rdN p n r lane
  | .imm w => imm w

/-- An immediate taken as it stands. -/
def rawImm (w : Word) : DWord := w.zeroExtend 64

/-- Write `f l` to the destination in each lane `l` of the list. -/
def Group.setLanes (g : Group) (n : Nat) (d : Reg) (ls : List Nat) (f : Nat → DWord) : Group :=
  ls.foldl (fun h l => h.wrN n d l (f l)) g

/-- Write a predicate in each lane of the list, or the group predicate for G=1 (R166). -/
def Group.setPreds (g : Group) (wide : Bool) (d : Fin 8) (ls : List Nat) (f : Nat → Bool) : Group :=
  if wide then ls.foldl (fun h l => h.setQ d.val (f l)) g
  else ls.foldl (fun h l => h.setPred d.val (laneBit l) (if f l then laneBit l else 0)) g

/-- A predicate source in a lane, or the group predicate for G=1 (R103, R166). -/
def Group.predIn (g : Group) (wide : Bool) (k : Fin 8) (lane : Nat) : Bool :=
  if wide then g.qpred k.val else (g.pred k.val).getLsbD lane

/-- The body of a lane-wise instruction: one result for each acting lane. -/
def lanewise (wide : Bool) (gd : Guard) (n : Nat) (d : Reg) (f : Group → Path → Nat → DWord)
    (s : State) (g : Group) (p : Path) : Res :=
  .done (s.setGroup (g.setLanes n d (g.acting p wide gd) (f g p)))

/-- The same for an instruction with a lookahead count; its result is written at issue, and its
window keeps the old value (R138). -/
def lanewiseLong (gd : Guard) (n : Nat) (d : Reg) (f : Group → Path → Nat → DWord)
    (s : State) (g : Group) (p : Path) : Res :=
  .long (s.setGroup (g.setLanes n d (g.acting p false gd) (f g p))) none

/-- Two sources of the type's width (R173, R178). -/
def alu2 (f : AluForm) (op : DWord → DWord → DWord) : State → Group → Path → Res :=
  lanewise f.g f.gd f.ty.regs f.d (fun g p l =>
    op (g.rdN p f.ty.regs f.a l) (g.src p f.ty.regs f.b f.ty.imm l))

/-- A second source of one 32-bit register: amounts and control words (R179, R180). -/
def aluCtl (f : AluForm) (op : DWord → DWord → DWord) : State → Group → Path → Res :=
  lanewise f.g f.gd f.ty.regs f.d (fun g p l =>
    op (g.rdN p f.ty.regs f.a l) (g.src p 1 f.b rawImm l))

/-- One source. -/
def alu1 (f : UnForm) (op : DWord → DWord) : State → Group → Path → Res :=
  lanewise f.g f.gd f.ty.regs f.d (fun g p l => op (g.rdN p f.ty.regs f.a l))

/-- Two floating sources. -/
def falu2 (f : FAluForm) (op : DWord → DWord → DWord) : State → Group → Path → Res :=
  lanewise false f.gd 1 f.d (fun g p l => op (g.rdN p 1 f.a l) (g.src p 1 f.b rawImm l))

/-- One floating source. -/
def falu1 (f : FUnForm) (op : DWord → DWord) : State → Group → Path → Res :=
  lanewise false f.gd 1 f.d (fun g p l => op (g.rdN p 1 f.a l))

/-- One floating source, with a window. -/
def flong (f : FLongForm) (op : DWord → DWord) : State → Group → Path → Res :=
  lanewiseLong f.gd 1 f.d (fun g p l => op (g.rdN p 1 f.a l))

/-- `addc` and `subc`: the result, and the predicate that was read takes the carry (R176). -/
def carry (f : CarryForm) (op : DWord → DWord → Bool → DWord × Bool) (s : State) (g : Group) (p : Path) :
    Res :=
  let r := fun l => op (g.rdN p f.ty.regs f.a l) (g.rdN p f.ty.regs f.b l) (g.predIn f.g f.c l)
  let ls := g.acting p f.g f.gd
  .done (s.setGroup ((g.setLanes f.ty.regs f.d ls (fun l => (r l).1)).setPreds f.g f.c ls (fun l => (r l).2)))

/-! ### The instructions -/

/-- `add` (R173, R174). -/
def execAdd (f : AluForm) (s : State) : Host.Outcome State Fault Refusal :=
  issue (.add f) s (alu2 f (laneAdd f.ty f.sat))

/-- `sub` (R173, R174). -/
def execSub (f : AluForm) (s : State) : Host.Outcome State Fault Refusal :=
  issue (.sub f) s (alu2 f (laneSub f.ty f.sat))

/-- `mul` (R173). -/
def execMul (f : AluForm) (s : State) : Host.Outcome State Fault Refusal :=
  issue (.mul f) s (alu2 f (laneMul f.ty))

/-- `mulhi` (R173). -/
def execMulhi (f : AluForm) (s : State) : Host.Outcome State Fault Refusal :=
  issue (.mulhi f) s (alu2 f (laneMulhi f.ty))

/-- `min` (R173). -/
def execMin (f : AluForm) (s : State) : Host.Outcome State Fault Refusal :=
  issue (.min f) s (alu2 f (laneMin f.ty))

/-- `max` (R173). -/
def execMax (f : AluForm) (s : State) : Host.Outcome State Fault Refusal :=
  issue (.max f) s (alu2 f (laneMax f.ty))

/-- `and` (R178). -/
def execAnd (f : AluForm) (s : State) : Host.Outcome State Fault Refusal :=
  issue (.and f) s (alu2 f (laneAnd f.ty))

/-- `or` (R178). -/
def execOr (f : AluForm) (s : State) : Host.Outcome State Fault Refusal :=
  issue (.or f) s (alu2 f (laneOr f.ty))

/-- `xor` (R178). -/
def execXor (f : AluForm) (s : State) : Host.Outcome State Fault Refusal :=
  issue (.xor f) s (alu2 f (laneXor f.ty))

/-- `andn` (R178). -/
def execAndn (f : AluForm) (s : State) : Host.Outcome State Fault Refusal :=
  issue (.andn f) s (alu2 f (laneAndn f.ty))

/-- `shl` (R179). -/
def execShl (f : AluForm) (s : State) : Host.Outcome State Fault Refusal :=
  issue (.shl f) s (aluCtl f (laneShl f.ty))

/-- `shr` (R179). -/
def execShr (f : AluForm) (s : State) : Host.Outcome State Fault Refusal :=
  issue (.shr f) s (aluCtl f (laneShr f.ty))

/-- `sar` (R179). -/
def execSar (f : AluForm) (s : State) : Host.Outcome State Fault Refusal :=
  issue (.sar f) s (aluCtl f (laneSar f.ty))

/-- `rot` (R179). -/
def execRot (f : AluForm) (s : State) : Host.Outcome State Fault Refusal :=
  issue (.rot f) s (aluCtl f (laneRot f.ty))

/-- `bfe` (R180). -/
def execBfe (f : AluForm) (s : State) : Host.Outcome State Fault Refusal :=
  issue (.bfe f) s (aluCtl f (laneBfe f.ty))

/-- `abs` (R173, R174). -/
def execAbs (f : UnForm) (s : State) : Host.Outcome State Fault Refusal :=
  issue (.abs f) s (alu1 f (laneAbs f.ty f.sat))

/-- `neg` (R173, R174). -/
def execNeg (f : UnForm) (s : State) : Host.Outcome State Fault Refusal :=
  issue (.neg f) s (alu1 f (laneNeg f.ty f.sat))

/-- `not` (R178). -/
def execNot (f : UnForm) (s : State) : Host.Outcome State Fault Refusal :=
  issue (.not f) s (alu1 f (laneNot f.ty))

/-- `bcnt` (R181). -/
def execBcnt (f : UnForm) (s : State) : Host.Outcome State Fault Refusal :=
  issue (.bcnt f) s (alu1 f (laneBcnt f.ty))

/-- `clz` (R181). -/
def execClz (f : UnForm) (s : State) : Host.Outcome State Fault Refusal :=
  issue (.clz f) s (alu1 f (laneClz f.ty))

/-- `brev` (R181). -/
def execBrev (f : UnForm) (s : State) : Host.Outcome State Fault Refusal :=
  issue (.brev f) s (alu1 f (laneBrev f.ty))

/-- `mad` (R173, R174). -/
def execMad (f : MadForm) (s : State) : Host.Outcome State Fault Refusal :=
  issue (.mad f) s (lanewise f.g f.gd f.ty.regs f.d (fun g p l =>
    laneMad f.ty f.sat (g.rdN p f.ty.regs f.a l) (g.rdN p f.ty.regs f.b l)
      (g.src p f.ty.regs f.c f.ty.imm l)))

/-- `bfi` (R180). -/
def execBfi (f : MadForm) (s : State) : Host.Outcome State Fault Refusal :=
  issue (.bfi f) s (lanewise f.g f.gd f.ty.regs f.d (fun g p l =>
    laneBfi f.ty (g.rdN p f.ty.regs f.a l) (g.rdN p f.ty.regs f.b l) (g.src p 1 f.c rawImm l)))

/-- `cmp` (R177). -/
def execCmp (f : CmpForm) (s : State) : Host.Outcome State Fault Refusal :=
  issue (.cmp f) s (fun s g p => .done (s.setGroup (g.setPreds f.g f.d (g.acting p f.g f.gd) (fun l =>
    f.cond.test f.ty (g.rdN p f.ty.regs f.a l) (g.src p f.ty.regs f.b f.ty.imm l)))))

/-- `addc` (R176). -/
def execAddc (f : CarryForm) (s : State) : Host.Outcome State Fault Refusal :=
  issue (.addc f) s (carry f (laneAddc f.ty))

/-- `subc` (R176). -/
def execSubc (f : CarryForm) (s : State) : Host.Outcome State Fault Refusal :=
  issue (.subc f) s (carry f (laneSubc f.ty))

/-- `div` (R175). -/
def execDiv (f : DivForm) (s : State) : Host.Outcome State Fault Refusal :=
  issue (.div f) s (lanewiseLong f.gd f.ty.regs f.d (fun g p l =>
    laneDiv f.ty (g.rdN p f.ty.regs f.a l) (g.src p f.ty.regs f.b f.ty.imm l)))

/-- `rem` (R175). -/
def execRem (f : DivForm) (s : State) : Host.Outcome State Fault Refusal :=
  issue (.rem f) s (lanewiseLong f.gd f.ty.regs f.d (fun g p l =>
    laneRem f.ty (g.rdN p f.ty.regs f.a l) (g.src p f.ty.regs f.b f.ty.imm l)))

/-- `fadd` (R182). -/
def execFadd (f : FAluForm) (s : State) : Host.Outcome State Fault Refusal :=
  issue (.fadd f) s (falu2 f (laneFadd f.fmt))

/-- `fsub` (R182). -/
def execFsub (f : FAluForm) (s : State) : Host.Outcome State Fault Refusal :=
  issue (.fsub f) s (falu2 f (laneFsub f.fmt))

/-- `fmul` (R182). -/
def execFmul (f : FAluForm) (s : State) : Host.Outcome State Fault Refusal :=
  issue (.fmul f) s (falu2 f (laneFmul f.fmt))

/-- `fmin` (R183). -/
def execFmin (f : FAluForm) (s : State) : Host.Outcome State Fault Refusal :=
  issue (.fmin f) s (falu2 f (laneFmin f.fmt))

/-- `fmax` (R183). -/
def execFmax (f : FAluForm) (s : State) : Host.Outcome State Fault Refusal :=
  issue (.fmax f) s (falu2 f (laneFmax f.fmt))

/-- `fma` (R182). -/
def execFma (f : FmaForm) (s : State) : Host.Outcome State Fault Refusal :=
  issue (.fma f) s (lanewise false f.gd 1 f.d (fun g p l =>
    laneFma f.fmt (g.rdN p 1 f.a l) (g.rdN p 1 f.b l) (g.src p 1 f.c rawImm l)))

/-- `fabs` (R184). -/
def execFabs (f : FUnForm) (s : State) : Host.Outcome State Fault Refusal :=
  issue (.fabs f) s (falu1 f (laneFabs f.fmt))

/-- `fneg` (R184). -/
def execFneg (f : FUnForm) (s : State) : Host.Outcome State Fault Refusal :=
  issue (.fneg f) s (falu1 f (laneFneg f.fmt))

/-- `fclass` (R186). -/
def execFclass (f : FUnForm) (s : State) : Host.Outcome State Fault Refusal :=
  issue (.fclass f) s (falu1 f (laneFclass f.fmt))

/-- `fcmp` (R185). -/
def execFcmp (f : FcmpForm) (s : State) : Host.Outcome State Fault Refusal :=
  issue (.fcmp f) s (fun s g p => .done (s.setGroup (g.setPreds false f.d (g.acting p false f.gd) (fun l =>
    f.cond.test f.fmt (g.rdN p 1 f.a l) (g.src p 1 f.b rawImm l)))))

/-- `rcp` (R188). -/
def execRcp (f : FLongForm) (s : State) : Host.Outcome State Fault Refusal :=
  issue (.rcp f) s (flong f (laneFunc FVal.rcp f.fmt))

/-- `rsqrt` (R188). -/
def execRsqrt (f : FLongForm) (s : State) : Host.Outcome State Fault Refusal :=
  issue (.rsqrt f) s (flong f (laneFunc FVal.rsqrt f.fmt))

/-- `sqrt` (R188). -/
def execSqrt (f : FLongForm) (s : State) : Host.Outcome State Fault Refusal :=
  issue (.sqrt f) s (flong f (laneFunc FVal.sqrt f.fmt))

/-- `exp2` (R188). -/
def execExp2 (f : FLongForm) (s : State) : Host.Outcome State Fault Refusal :=
  issue (.exp2 f) s (flong f (laneFunc FVal.exp2 f.fmt))

/-- `log2` (R188). -/
def execLog2 (f : FLongForm) (s : State) : Host.Outcome State Fault Refusal :=
  issue (.log2 f) s (flong f (laneFunc FVal.log2 f.fmt))

/-- `sinpi` (R188). -/
def execSinpi (f : FLongForm) (s : State) : Host.Outcome State Fault Refusal :=
  issue (.sinpi f) s (flong f (laneFunc FVal.sinpi f.fmt))

/-- `tanh` (R188). -/
def execTanh (f : FLongForm) (s : State) : Host.Outcome State Fault Refusal :=
  issue (.tanh f) s (flong f (laneFunc FVal.tanh f.fmt))

/-- `dot2` (R187). -/
def execDot2 (f : Dot2Form) (s : State) : Host.Outcome State Fault Refusal :=
  issue (.dot2 f) s (lanewise false f.gd 1 f.d (fun g p l =>
    laneDot2 f.fmt (g.rdN p 1 f.a l) (g.rdN p 1 f.b l) (g.rdN p 1 f.c l)))

/-- `cvt` (R189, R190). -/
def execCvt (f : CvtForm) (s : State) : Host.Outcome State Fault Refusal :=
  issue (.cvt f) s (lanewise false f.gd f.dst.regs f.d (fun g p l =>
    laneCvt f.dst f.src f.sat f.trunc (g.rdN p f.src.regs f.a l)))

/-- `prmb` (R191). -/
def execPrmb (f : PrmbForm) (s : State) : Host.Outcome State Fault Refusal :=
  issue (.prmb f) s (lanewise false f.gd 1 f.d (fun g p l =>
    lanePrmb f.b.isNone (g.rdN p 1 f.a l) (match f.b with | some b => g.rdN p 1 b l | none => 0)
      (g.src p 1 f.c rawImm l)))

/-- `shfl` (R192): the source lane is read whether or not it is active. -/
def execShfl (f : ShflForm) (s : State) : Host.Outcome State Fault Refusal :=
  issue (.shfl f) s (lanewise false f.gd (wregs f.w64) f.d (fun g p l =>
    g.rdN p (wregs f.w64) f.a (shflLane f.mode l ((g.src p 1 f.b rawImm l).toNat % 32))))

/-- `lred` (R193). -/
def execLred (f : RedForm) (s : State) : Host.Outcome State Fault Refusal :=
  issue (.lred f) s (lanewiseLong f.gd f.ty.regs f.d (fun g p _ =>
    redCombine f.ty f.op ((lanesOf (g.active p f.gd)).map (g.rdN p f.ty.regs f.a))))

/-- `lscan` (R193). -/
def execLscan (f : RedForm) (s : State) : Host.Outcome State Fault Refusal :=
  issue (.lscan f) s (lanewiseLong f.gd f.ty.regs f.d (fun g p l =>
    redCombine f.ty f.op (((lanesOf (g.active p f.gd)).filter
      (fun m => if f.excl then decide (m < l) else decide (m ≤ l))).map (g.rdN p f.ty.regs f.a))))

/-- `topk` (R194). -/
def execTopk (f : TopkForm) (s : State) : Host.Outcome State Fault Refusal :=
  issue (.topk f) s (lanewiseLong f.gd 1 f.d (fun g p l =>
    topkLane f.ty f.min f.rank f.k.val (lanesOf (g.active p f.gd)) (g.rdN p f.ty.regs f.a) l))

end Sys2Proof.Machine
end

