-- ==== Sys2Proof/Machine/Control.lean ====
section
/-! DEFINITION. Control and group-wide instructions (R145 to R166): transfers, divergence and
reconvergence, exits, traps and the handler, safe points, state registers, moves, group predicates,
votes and broadcasts. -/

namespace Sys2Proof.Machine

/-! ### Transfers (R148, R149) -/

/-- The target of a displacement: the branch's own address plus sext(IMM32, 32). -/
def Path.target (p : Path) (disp : Word) : DWord := p.pc + disp.signExtend 64

/-- A target that is not a multiple of 4 (R126). -/
def oddTarget (t : DWord) : Bool := t.toNat % 4 != 0

/-- Push the return address and go to the target, or raise SPACE_BOUNDS (R149). -/
def callTo (i : Instr) (t : DWord) (s : State) (g : Group) (p : Path) : Res :=
  if p.stack.length ≥ 256 then .trap .spaceBounds (lowLane p.mask) 0 0
  else
    let p := { p with stack := (p.pc + BitVec.ofNat 64 i.bytes) :: p.stack }
    .jump ((s.setGroup (g.setPath p)).keepDeep g p) t

/-- `br` (R148, R149). -/
def execBr (gd : Guard) (disp : Word) (s : State) : Host.Outcome State Fault Refusal :=
  issue (.br gd disp) s (fun s g p =>
    let t := p.target disp
    if oddTarget t then .trap .misalignedTarget (lowLane p.mask) 0 0
    else if g.guard gd then .jump s t
    else .done s)

/-- `jmpi` (R148, R149). -/
def execJmpi (gd : Guard) (a : Fin 64) (s : State) : Host.Outcome State Fault Refusal :=
  issue (.jmpi gd a) s (fun s g p =>
    let t := g.rd64 p (192 + a.val) 0
    if !g.guard gd then .done s
    else if oddTarget t then .trap .misalignedTarget (lowLane p.mask) 0 0
    else .jump s t)

/-- `call` with a displacement (R148, R149). -/
def execCall (gd : Guard) (disp : Word) (s : State) : Host.Outcome State Fault Refusal :=
  issue (.call gd disp) s (fun s g p =>
    let t := p.target disp
    if oddTarget t then .trap .misalignedTarget (lowLane p.mask) 0 0
    else if g.guard gd then callTo (.call gd disp) t s g p
    else .done s)

/-- `call` through a register pair (R148, R149). -/
def execCallReg (gd : Guard) (a : Fin 64) (s : State) : Host.Outcome State Fault Refusal :=
  issue (.callReg gd a) s (fun s g p =>
    let t := g.rd64 p (192 + a.val) 0
    if !g.guard gd then .done s
    else if oddTarget t then .trap .misalignedTarget (lowLane p.mask) 0 0
    else callTo (.callReg gd a) t s g p)

/-- `ret`: an empty stack ends every lane of the path (R149). -/
def execRet (gd : Guard) (s : State) : Host.Outcome State Fault Refusal :=
  issue (.ret gd) s (fun s g p =>
    if !g.guard gd then .done s
    else match p.stack with
      | t :: rest => .jump (s.setGroup (g.setPath { p with stack := rest })) t
      | [] => .after s (fun s g => s.exitLanes g.id p.mask))

/-! ### Divergence and reconvergence (R150, R151, R152) -/

/-- A path split off from `p`. -/
def Path.fork (p : Path) (id : Nat) (pc : DWord) (mask : Mask) : Path where
  id := id
  pc := pc
  mask := mask
  stack := p.stack
  place := p.place
  dtime := 0
  park := none
  windows := []
  failed := []
  timedOut := false

/-- Detach a fragment of `p`, which joins the queue at the end of the clock, and leave the rest of the path at
`pc` (R150, R301, R304). -/
def State.detach (s : State) (g : Group) (p : Path) (k : Fin 16) (frag : Mask) (fpc pc : DWord) : Res :=
  let f := { p.fork g.freshPath fpc frag with place := .detached, dtime := s.time }
  let g := { g with nextPath := f.id + 1 }
  let g := g.setPath { p with mask := p.mask &&& ~~~frag }
  .jump ((s.setGroup { g with paths := g.paths ++ [f] }).sched g 3 frag fpc k.val) pc

/-- `brd` (R150). -/
def execBrd (gd : Guard) (tok : Fin 16) (disp : Word) (s : State) : Host.Outcome State Fault Refusal :=
  issue (.brd gd tok disp) s (fun s g p =>
    let tgt := p.target disp
    let nxt := p.pc + 12
    let t := g.active p gd
    let n := p.mask &&& ~~~t
    if oddTarget tgt then .trap .misalignedTarget (lowLane p.mask) 0 0
    else if t = 0 then .done s
    else if n = 0 then .jump s tgt
    else
      let g := { g with tokE := SMap.set 0 g.tokE tok.val (SMap.get 0 g.tokE tok.val ||| p.mask) }
      match p.place with
      | .slot m =>
        if (g.slotPath? (otherSlot m)).isNone then
          let f := { p.fork g.freshPath tgt t with place := .slot (otherSlot m) }
          let g := (g.setPath { p with mask := n })
          .jump ((s.setGroup { g with paths := g.paths ++ [f], nextPath := f.id + 1 }).keepDeep g f) nxt
        else if (lanesOf t).length ≤ (lanesOf n).length then s.detach g p tok t tgt nxt
        else s.detach g p tok n nxt tgt
      | _ => .done s)

/-- `rcv` (R151). -/
def execRcv (tok : Fin 16) (s : State) : Host.Outcome State Fault Refusal :=
  issue (.rcv tok) s (fun s g p =>
    let e := SMap.get 0 g.tokE tok.val
    if e = 0 then .done s
    else if (p.mask &&& ~~~e) != 0 then
      .trap .illegalConvergence (lowLane (p.mask &&& ~~~e)) 0 0
    else
      let w := SMap.get 0 g.tokW tok.val ||| p.mask
      if w = e then
        if (g.atToken tok).any (fun q => q.stack != p.stack) then
          .trap .illegalConvergence (lowLane e) 0 0
        else
          .placed ((s.setGroup (g.setPath { p with park := some (.rcv tok) })).fuse g.id tok (some p.id))
      else
        let g := { g with tokW := SMap.set 0 g.tokW tok.val w }
        let s := s.sched g 1 p.mask p.pc 12
        let p := { p with park := some (.rcv tok), windows := [], woken := false }
        let s := s.setGroup (g.setPath p)
        let (s, p) := s.queuePath (g.setPath p) p
        .placed (s.modGroup g.id (fun g => (g.setPath p).noteFrag)))

/-- `exit` (R152). -/
def execExit (gd : Guard) (s : State) : Host.Outcome State Fault Refusal :=
  issue (.exit gd) s (fun s g p =>
    let m := g.active p gd
    .after s (fun s g => s.exitLanes g.id m))

/-! ### Traps, handler, stops (R153 to R157) -/

/-- USER_TRAP or BREAK of the path at its own address (R153). -/
def softTrap (c : Code) (lane code : Nat) (p : Path) (s : State) (g : Group) : State :=
  s.trap g { path := some p.id, code := some c, lane := lane, kind := 0, detail := code, space := 0,
             va := 0, pc := p.pc, wid := none, order := none }

/-- `trap` (R153). -/
def execTrap (gd : Guard) (code : BitVec 16) (s : State) : Host.Outcome State Fault Refusal :=
  issue (.trap gd code) s (fun s g p =>
    let m := g.active p gd
    if m = 0 then .done s else .after s (softTrap .userTrap (lowLane m) code.toNat p))

/-- `trap.break` (R153). -/
def execTrapBreak (gd : Guard) (code : BitVec 16) (s : State) : Host.Outcome State Fault Refusal :=
  issue (.trapBreak gd code) s (fun s g p =>
    let m := g.active p gd
    if m = 0 then .done s else .after s (softTrap .brk (lowLane m) code.toNat p))

/-- `tret` (R155). -/
def execTret (s : State) : Host.Outcome State Fault Refusal :=
  issue .tret s (fun s g p =>
    match g.frame with
    | none => .trap .illegalOpcode (lowLane p.mask) 0 0
    | some f =>
      if g.paths.length > 1 then .trap .illegalConvergence (lowLane p.mask) 0 0
      else .after s (fun s g =>
        let s := (s.sched g 7 p.mask p.pc 0).setGroup (g.leaveHandler f)
        (f.paths.foldl (fun (s : State) p => s.keepDeep g p) s).fuseAll g.id))

/-- A debugger is attached to the context (R157, R427). -/
def State.attached (s : State) (c : Nat) : Bool := (s.ctx? c).any (·.debug)

/-- `halt` (R157). -/
def execHalt (gd : Guard) (s : State) : Host.Outcome State Fault Refusal :=
  issue (.halt gd) s (fun s g p =>
    if !g.guard gd then .done s
    else if s.attached g.ctx then .after s (fun s g => s.debugStop g .halt)
    else .after s (softTrap .brk (lowLane p.mask) 0xFFFF p))

/-- A safe point with live octets: under a pending pre-emption the path parks behind it (R156). -/
def safeptBody (live : Word) (s : State) (g : Group) (p : Path) : Res :=
  if s.preempting g.ctx then
    .after s (fun s h => (s.sched h 1 p.mask p.pc 15).modGroup h.id (fun h => match h.path? p.id with
      | some q => h.setPath { q with park := some (.safept live), woken := false }
      | none => h))
  else .done s

/-- `safept` in its 64-bit form: every declared octet is live (R156). -/
def execSafept (s : State) : Host.Outcome State Fault Refusal :=
  issue .safept s (safeptBody 0xFFFFFFFF)

/-- `safept` with a live mask (R117, R156). -/
def execSafeptMask (mask : Word) (s : State) : Host.Outcome State Fault Refusal :=
  issue (.safeptMask mask) s (safeptBody mask)

/-- `yield` (R158). -/
def execYield (gd : Guard) (s : State) : Host.Outcome State Fault Refusal :=
  issue (.yield gd) s (fun s g p =>
    if !g.guard gd then .done s
    else .after s (fun s g => match g.path? p.id with
      | some q => s.setGroup (g.setPath { q with park := some (.yield (s.clock + 16)) })
      | none => s))

/-- A pad word: zero above LEN goes on at the next 32-byte boundary, else PAD_NONZERO (R125). It is no
instruction: nothing counts it. -/
def execPadWord (w : Word) (s : State) : Host.Outcome State Fault Refusal :=
  match s.issuer with
  | none => .fault .noIssuer
  | some (gid, pid) =>
    match s.group? gid with
    | none => .fault .noIssuer
    | some g => match g.path? pid with
      | none => .fault .noIssuer
      | some p =>
        let s := { s with issuer := none }
        if w = 3 then
          .next (s.setGroup (g.setPath { p with pc := BitVec.ofNat 64 ((p.pc.toNat / 32 + 1) * 32) }))
        else .next (s.trapAt g p .padNonzero 0)

/-! ### State registers (R106, R159, R160) -/

/-- Field widths in a state register (R106). -/
def Header.widf (h : Header) : Nat :=
  sumNat ((List.range 6).map (fun k => h.w.getD k 0 * 2 ^ (8 * k)))

/-- The value of a state register for a lane (R106) (log 15, DESIGN CHOICE). -/
def State.sreg (s : State) (g : Group) (r : SReg) (lane : Nat) : DWord :=
  let nat := fun (n : Nat) => BitVec.ofNat 64 n
  match r with
  | .wid => nat (g.widOf lane)
  | .widf => nat g.hdr.widf
  | .lane => nat lane
  | .group => g.gval.zeroExtend 64
  | .team => nat (match g.thread? lane with
    | some t => t.team
    | none => 0)
  | .crew => nat g.crew
  | .core => nat g.id.core
  | .cluster => nat g.id.cluster
  | .ctx => nat g.ctx
  | .time => nat (s.coreTime g.id.cluster g.id.core)
  | .energy => nat (match s.launch? g.kid with
    | some l => l.energy / 1000
    | none => 0)
  | .throttle => nat (s.throttle (quadOf g.id.cluster g.id.core))
  | .pathcnt => g.pathcnt
  | .handler => g.handler
  | .trapinfo => g.trapinfo
  | .stall n => (SMap.get 0 g.stall n.val).zeroExtend 64

/-- `getsr` (R159). -/
def execGetsr (f : GetsrForm) (s : State) : Host.Outcome State Fault Refusal :=
  issue (.getsr f) s (fun s g p =>
    .done (s.setGroup (g.setLanes f.sel.regs f.d (g.acting p f.g f.gd) (fun l => s.sreg g f.sel l))))

/-- `setsr HANDLER` (R160). -/
def execSetsr (gd : Guard) (a : Fin 64) (s : State) : Host.Outcome State Fault Refusal :=
  issue (.setsr gd a) s (fun s g p =>
    let v := g.rd64 p (192 + a.val) 0
    if !g.guard gd then .done s
    else if oddTarget v then .trap .misalignedTarget (lowLane p.mask) 0 0
    else .done (s.setGroup { g with handler := v }))

/-! ### Moves (R161) -/

/-- `mov` (R161). -/
def execMov (f : MovForm) (s : State) : Host.Outcome State Fault Refusal :=
  issue (.mov f) s (lanewise f.g f.gd (wregs f.w64) f.d (fun g p l => g.rdN p (wregs f.w64) f.a l))

/-- `movi.b32` (R161). -/
def execMovi32 (f : Movi32Form) (s : State) : Host.Outcome State Fault Refusal :=
  issue (.movi32 f) s (lanewise f.g f.gd 1 f.d (fun _ _ _ => f.imm.zeroExtend 64))

/-- `movi.b64` (R161). -/
def execMovi64 (f : Movi64Form) (s : State) : Host.Outcome State Fault Refusal :=
  issue (.movi64 f) s (lanewise f.g f.gd 2 f.d (fun _ _ _ => f.imm))

/-- `sel` (R161). -/
def execSel (f : SelForm) (s : State) : Host.Outcome State Fault Refusal :=
  issue (.sel f) s (lanewise f.g f.gd (wregs f.w64) f.d (fun g p l =>
    if g.predIn f.g f.c l then g.rdN p (wregs f.w64) f.a l else g.rdN p (wregs f.w64) f.b l))

/-! ### Group predicates, votes, masks (R162 to R165) -/

/-- An instruction that acts once under its q guard. -/
def once (gd : Guard) (f : Group → Path → Group) (s : State) (g : Group) (p : Path) : Res :=
  .done (if g.guard gd then s.setGroup (f g p) else s)

/-- Write a group-wide register. -/
def Group.setS (g : Group) (d : Fin 64) (w : Word) : Group := g.setReg (192 + d.val) 0 w

/-- Read a group-wide register. -/
def Group.rdS (g : Group) (p : Path) (a : Fin 64) : Word := g.rd p (192 + a.val) 0

/-- `setq` (R162). -/
def execSetq (gd : Guard) (d : Fin 8) (a : Fin 64) (s : State) : Host.Outcome State Fault Refusal :=
  issue (.setq gd d a) s (once gd (fun g p => g.setQ d.val (g.rdS p a != 0)))

/-- `qand` (R162). -/
def execQand (gd : Guard) (d a b : Fin 8) (s : State) : Host.Outcome State Fault Refusal :=
  issue (.qand gd d a b) s (once gd (fun g _ => g.setQ d.val (g.qpred a.val && g.qpred b.val)))

/-- `qor` (R162). -/
def execQor (gd : Guard) (d a b : Fin 8) (s : State) : Host.Outcome State Fault Refusal :=
  issue (.qor gd d a b) s (once gd (fun g _ => g.setQ d.val (g.qpred a.val || g.qpred b.val)))

/-- `qnot` (R162). -/
def execQnot (gd : Guard) (d a : Fin 8) (s : State) : Host.Outcome State Fault Refusal :=
  issue (.qnot gd d a) s (once gd (fun g _ => g.setQ d.val (!g.qpred a.val)))

/-- The effect of a `vote` form over the path's mask (R163). -/
def voteApply (v : VoteForm) (g : Group) (p : Path) : Group :=
  let ls := lanesOf p.mask
  match v with
  | .ballot d b => g.setS d (p.mask &&& g.pred b.val)
  | .any d b => g.setQ d.val ((p.mask &&& g.pred b.val) != 0)
  | .all d b => g.setQ d.val ((p.mask &&& ~~~(g.pred b.val)) == 0)
  | .eq d a => g.setQ d.val (ls.all (fun l => g.rd p a.val l == g.rd p a.val (lowLane p.mask)))

/-- `vote` (R163). -/
def execVote (gd : Guard) (v : VoteForm) (s : State) : Host.Outcome State Fault Refusal :=
  issue (.vote gd v) s (once gd (fun g p => voteApply v g p))

/-- Copy a lane of a vector register or pair to a group-wide one (R164). -/
def Group.bcastFrom (g : Group) (p : Path) (w64 : Bool) (d : Fin 64) (a : Fin 192) (lane : Nat) : Group :=
  g.wrN (wregs w64) (.s d) 0 (g.rdN p (wregs w64) (.v a) lane)

/-- `bcast` in its 64-bit form: the lane from a register, or the path's lowest (R164). -/
def execBcast (gd : Guard) (w64 : Bool) (d : Fin 64) (a : Fin 192) (l : Option (Fin 64)) (s : State) :
    Host.Outcome State Fault Refusal :=
  issue (.bcast gd w64 d a l) s (once gd (fun g p =>
    g.bcastFrom p w64 d a (match l with
      | some b => (g.rdS p b).toNat % 32
      | none => lowLane p.mask)))

/-- `bcast` in its 96-bit form (R164). -/
def execBcastImm (gd : Guard) (w64 : Bool) (d : Fin 64) (a : Fin 192) (l : Fin 32) (s : State) :
    Host.Outcome State Fault Refusal :=
  issue (.bcastImm gd w64 d a l) s (once gd (fun g p => g.bcastFrom p w64 d a l.val))

/-- `actm` (R165). -/
def execActm (gd : Guard) (d : Fin 64) (s : State) : Host.Outcome State Fault Refusal :=
  issue (.actm gd d) s (once gd (fun g p => g.setS d p.mask))

/-- `popc` (R165). -/
def execPopc (gd : Guard) (d a : Fin 64) (s : State) : Host.Outcome State Fault Refusal :=
  issue (.popc gd d a) s (once gd (fun g p =>
    g.setS d (BitVec.ofNat 32 (lanesOf (g.rdS p a)).length)))

/-- `ffs` (R165). -/
def execFfs (gd : Guard) (d a : Fin 64) (s : State) : Host.Outcome State Fault Refusal :=
  issue (.ffs gd d a) s (once gd (fun g p =>
    g.setS d (BitVec.ofNat 32 (match (lanesOf (g.rdS p a)).head? with
      | some k => k
      | none => 32))))

end Sys2Proof.Machine
end

