-- ==== Sys2Proof/Machine/Copy.lean ====
section
/-! DEFINITION. Asynchronous copies, completion cells and block compress (R202 to R209, R217, R218):
the instructions, and the steps of the engine operations that they fork. -/

namespace Sys2Proof.Machine

/-! ### Engine operations (R90) -/

/-- Every store that the issuing group issued before the fork has been acknowledged (R90). -/
def State.forkReady (s : State) (o : Op) : Bool :=
  s.ops.all (fun x => !(x.gid == o.gid && x.gval == o.gval && x.kid == o.kid && decide (x.id < o.after)) ||
    !x.kind.isStore || x.parts.all (·.done))

/-- The launch header of a kernel. -/
def State.hdrOf (s : State) (kid : Nat) : Header :=
  match s.launch? kid with
  | some l => l.hdr
  | none => .empty

/-- A handle is still current for an engine transfer (R357). -/
def State.tileLive (s : State) (t : TileRef) : Bool :=
  match s.crew? t.kid t.crew with
  | none => false
  | some c => match c.part? t.pool with
    | none => false
    | some p => (p.tile t.index).st == .held && (p.tile t.index).gen == t.gen

/-! ### Cells (R204 to R209) -/

/-- Signed 32-bit value of COUNT. -/
def countInt (n : Nat) : Int := if n < 2 ^ 31 then n else (n : Int) - 2 ^ 32

def countNat (i : Int) : Nat := (i % 2 ^ 32).toNat

/-- COUNT after adding, if it stays in range (R205, R207). -/
def Cell.addCount (c : Cell) (d : Int) : Option Nat :=
  let n := countInt c.count + d
  if n < -(2 ^ 31) ∨ n ≥ 2 ^ 31 then none else some (countNat n)

/-- FAULT takes a code if it is 0. -/
def Cell.setFault (c : Cell) (code : Code) : Cell :=
  if c.fault = 0 then { c with fault := code.num } else c

/-- A pending interrupt as TRAPINFO shows it, but for the program counter (R259). -/
def CellRef.info (r : CellRef) : DWord := BitVec.ofNat 64 (trapInfo 0 0 1 (bit01 r.k) (r.off / 32) 0)

/-- Drop a requested interrupt of a cell from a list. -/
def lessReq (key : Nat) (l : List CellRef) : List CellRef := l.filter (fun r => r.key != key)

/-- A record that carries a requested interrupt of the cell makes it pending. -/
def Record.pend (x : Record) (r : CellRef) : Record :=
  if x.intReq.any (fun c => c.key == r.key) then
    { x with intReq := lessReq r.key x.intReq, intPend := x.intPend ++ [r.info] }
  else x

/-- The interrupt becomes pending for the arming group, or for the thread that carries it through a
reorder (R205, R209, R219). -/
def State.pendInterrupt (s : State) (r : CellRef) (c : Cell) : State :=
  let binned := s.crews.any (fun x => x.insts.any (fun i =>
    (i.recs ++ i.ready.flatten).any (fun y => y.intReq.any (fun q => q.key == r.key))))
  if binned then
    { s with crews := s.crews.map (fun (x : Crew) => { x with insts := x.insts.map (fun (i : RInst) => { i with
        recs := i.recs.map (fun (y : Record) => y.pend r)
        ready := i.ready.map (fun (l : List Record) => l.map (fun (y : Record) => y.pend r)) }) }) }
  else s.modGroup { cluster := r.cluster, core := c.armCore, slot := c.armSlot } (fun g =>
    { g with intReq := lessReq r.key g.intReq, intPend := g.intPend ++ [r.info] })

/-- Clear the chunk counts of a cell's table entry. -/
def State.clearChunks (s : State) (key : Nat) : State :=
  { s with cells := s.cells.map (fun (e : CellEntry) => if e.key == key then { e with counts := [] } else e) }

/-- Store a cell after a step, and complete its phase when the step leaves every arrival made and the
count zero (R205). -/
def State.cellStep (s : State) (r : CellRef) (c : Cell) : State :=
  if c.arrived == c.target && c.count == 0 then
    let s := (s.setCell r { c with phase := !c.phase, arrived := 0, bitmap := 0, arm := false }).clearChunks r.key
    if c.arm then s.pendInterrupt r c else s
  else s.setCell r c

/-- A delivery of `n` bytes to chunk `i`, if chunks are counted (R205). -/
def State.chunkAdd (s : State) (r : CellRef) (c : Cell) (i n : Nat) : State × Cell :=
  if !c.track || decide (i ≥ 64) then (s, c)
  else match s.cells.find? (fun e => e.key == r.key) with
    | none => (s, c)
    | some e =>
      let k := SMap.get 0 e.counts i + n
      let s := { s with cells := s.cells.map (fun (x : CellEntry) =>
        if x.key == r.key then { x with counts := SMap.set 0 x.counts i k } else x) }
      (s, if k ≥ 512 ∧ SMap.get 0 e.counts i < 512 then { c with bitmap := c.bitmap ||| 2 ^ i } else c)

/-- The cell at an offset of .c or .k for a group (R204, R331). -/
def State.cellRef (s : State) (g : Group) (k : Bool) (off : Nat) : CellRef where
  key := s.localKey g true 0 (if k then .k else .c) off
  cluster := g.id.cluster
  core := (s.localKey g true 0 (if k then .k else .c) off - 2 ^ 52) / 2 ^ 20 % 24
  k := k
  off := off

/-- The checks of a cell's address: MISALIGNED, then SPACE_BOUNDS (R197, R202). -/
def State.cellCheck (s : State) (g : Group) (k : Bool) (off : Nat) : Option Code :=
  if off % 32 != 0 then some .misaligned
  else if off + 32 > s.regionSize g (if k then .k else .c) then some .spaceBounds
  else none

/-- The path of a cell's space, as DETAIL (R259). -/
def cellPath (k : Bool) : Nat := if k then 3 else 2

/-- Bank parts of the group that must be performed before an access to the bytes: those that overlap
them, and those that overlap a later one of these (R77) (log 11, DEDUCED). -/
def pullParts (key size : Nat) (ops : List Op) : List (Nat × Nat) :=
  (ops.foldr (fun o (acc : List (Nat × Nat) × List (Nat × Nat)) =>
    o.parts.zipIdx.foldr (fun x (acc : List (Nat × Nat) × List (Nat × Nat)) =>
      let p := x.1
      if p.via == .bank && p.got.isNone && !p.done && acc.1.any (fun r => overlap r.1 r.2 p.key p.size) then
        ((p.key, p.size) :: acc.1, (o.id, x.2) :: acc.2)
      else acc) acc) ([(key, size)], [])).2

/-- Perform the group's own earlier bank accesses to the bytes. -/
def State.pullOwn (s : State) (g : Group) (key size : Nat) : State :=
  (pullParts key size ((s.opsOf g).filter (fun o => o.kind.ordinary))).foldl (fun (s : State) x =>
    match s.op? x.1 with
    | none => s
    | some o =>
      let (s, o) := s.performParts o (fun i _ => i == x.2)
      s.putOp o) s

/-- The body of a cell instruction: guard, address checks, and the step on the cell. The address is checked before
the operands of `cell.init` (log 77, DESIGN CHOICE). -/
def cellBody (gd : Guard) (k : Bool) (a : Fin 64) (write : Bool) (f : State → Group → Path → CellRef → Cell → Res)
    (s0 : State) (g : Group) (p : Path) : Res :=
  if !g.guard gd then .done s0
  else
    let s := s0
    let off := (g.rdS p a).toNat
    match s.cellCheck g k off with
    | some c => .trap c (lowLane p.mask) (cellPath k) 0
    | none =>
      let r := s.cellRef g k off
      let s := s.pullOwn g r.key 32
      let s := s.recordMem g { space := if k then .k else .c, a := off, handle := 0 } (cellPath k) write
      match s.group? g.id with
      | some g => match f s g p r (s.cell r) with
        | .wait _ k => .wait s0 k
        | x => x
      | none => .done s

/-- A requested interrupt of a cell that is initialised again is cancelled (R206). -/
def State.cancelArm (s : State) (r : CellRef) : State :=
  { s with
    groups := s.groups.map (fun (g : Group) => { g with intReq := lessReq r.key g.intReq })
    crews := s.crews.map (fun (x : Crew) => { x with insts := x.insts.map (fun (i : RInst) => { i with
      recs := i.recs.map (fun (y : Record) => { y with intReq := lessReq r.key y.intReq })
      ready := i.ready.map (fun (l : List Record) =>
        l.map (fun (y : Record) => { y with intReq := lessReq r.key y.intReq })) }) }) }

/-- `cell.init` (R206, R205). -/
def execCellInit (f : CellInitForm) (s : State) : Host.Outcome State Fault Refusal :=
  issue (.cellInit f) s (cellBody f.gd f.k f.a true (fun s g p r c =>
    let t := (g.rdS p f.b).toNat
    if t = 0 ∨ t > 65535 then .trap .cellOverflow (lowLane p.mask) 0 0
    else
      let s := if c.arm then s.cancelArm r else s
      let rest := s.cells.filter (fun e => e.key != r.key)
      let free := decide ((rest.filter (fun e => e.cluster == r.cluster && e.core == r.core)).length < 128)
      let entry : CellEntry := { kid := g.kid, cluster := r.cluster, core := r.core, key := r.key, counts := [] }
      let s := { s with cells := if free then rest ++ [entry] else rest }
      .done (s.setCell r { packed := 0, bitmap := 0, chunkBase := (g.rdS p f.c).toNat, armCore := 0,
                           armSlot := 0, fault := 0, track := free, arm := false, phase := false,
                           arrived := 0, target := t, count := 0 })))

/-- `cell.arrive` (R207). -/
def execCellArrive (f : CellArriveForm) (s : State) : Host.Outcome State Fault Refusal :=
  issue (.cellArrive f) s (cellBody f.gd f.k f.a true (fun s g p r c =>
    match c.addCount (g.rdS p f.b).toInt with
    | none => .trap .cellOverflow (lowLane p.mask) 0 0
    | some n =>
      if c.arrived + 1 > c.target then .trap .cellOverflow (lowLane p.mask) 0 0
      else
        let s := s.setGroup (g.setS f.d (if c.phase then 1 else 0))
        .done (s.cellStep r { c with count := n, arrived := c.arrived + 1 })))

/-- The mask of `.chunk` (R208). -/
def chunkMask (g : Group) (p : Path) (b : Option (Fin 64)) : Option Nat :=
  b.map (fun b => (g.rd64 p (192 + b.val) 0).toNat)

/-- The code held in FAULT, raised by a wait or test that finds its condition met (R208). -/
def Cell.raised (c : Cell) : Option Code := if c.fault = 0 then none else some (Code.ofNum c.fault)

/-- `cell.wait` (R208). -/
def execCellWait (f : CellWaitForm) (s : State) : Host.Outcome State Fault Refusal :=
  issue (.cellWait f) s (cellBody f.gd f.k f.a false (fun s g p r c =>
    let m := chunkMask g p f.b
    if c.met f.phase m then
      match c.raised with
      | some code => .trap code (lowLane p.mask) 0 0
      | none => .done s
    else .wait s (.cell r f.phase m f.ext)))

/-- `cell.test` (R208). -/
def execCellTest (f : CellTestForm) (s : State) : Host.Outcome State Fault Refusal :=
  issue (.cellTest f) s (cellBody f.gd f.k f.a false (fun s g p _ c =>
    let m := c.met f.phase (chunkMask g p f.b)
    match if m then c.raised else none with
    | some code => .trap code (lowLane p.mask) 0 0
    | none => .done (s.setGroup (g.setQ f.d.val m))))

/-- `cell.arm` (R209). -/
def execCellArm (f : CellArmForm) (s : State) : Host.Outcome State Fault Refusal :=
  issue (.cellArm f) s (cellBody f.gd f.k f.a true (fun s g p r c =>
    if c.arm || decide (g.intReq.length + g.intPend.length ≥ 4) then .trap .cellOverflow (lowLane p.mask) 0 0
    else if c.phase != f.phase then .done (s.setGroup { g with intPend := g.intPend ++ [r.info] })
    else
      let s := s.setGroup { g with intReq := g.intReq ++ [r] }
      .done (s.setCell r { c with arm := true, armCore := g.id.core, armSlot := g.id.slot })))

/-- A pending interrupt vectors the group, once HANDLER is set and the group is outside its handler (R209,
R154). The program counter is that of the slot of R300. -/
def State.vector (s : State) (g : Group) : State :=
  match g.intPend with
  | [] => s
  | w :: rest =>
    if g.handler == 0 || g.frame.isSome || g.phase != .live || g.trapping.isSome then s
    else
      let pc := match g.slotPath? g.cs with
        | some p => p.pc
        | none => match g.paths with
          | p :: _ => p.pc
          | [] => 0
      let s := s.setGroup { g with intPend := rest }
      s.trap { g with intPend := rest }
        { path := none, code := none, lane := 0, kind := 1, detail := bits w.toNat 47 28,
          space := bits w.toNat 48 48, va := 0, pc := pc, wid := none, order := none }

/-- COMPLETION_INTERRUPT (R209). -/
def execCompletionInterrupt (i : GroupId) (s : State) : Host.Outcome State Fault Refusal :=
  match s.group? i with
  | none => .next s
  | some g => .next (s.vector g)

/-! ### cpa (R202, R203) -/

/-- The location that a copy operand names in a lane (R202). -/
def copyLoc (g : Group) (p : Path) (r : Reg) (sp : Space) (lane : Nat) : Loc :=
  match sp with
  | .g => { space := .g, a := (g.rd64 p r.code lane).toNat, handle := 0 }
  | .h => { space := .h, a := (g.rd p (r.code + 1) lane).toNat, handle := (g.rd p r.code lane).toNat }
  | sp => { space := sp, a := (g.rd p r.code lane).toNat, handle := 0 }

def copyWant (k : Acc) (n : Nat) : Want where
  kind := k
  bytes := n
  unit := n
  misaligned := .misaligned
  window := false
  wide := false
  noReg := true

/-- Element sizes. -/
def esizeBytes : ESize → Nat
  | .e4 => 4
  | .e8 => 8
  | .e16 => 16

/-- Destination and source pieces of a lane, in one result. -/
def pairRes (a b : LaneRes) : LaneRes := joinRes [a, b]

/-- The tile that a location names. -/
def Group.tileOf? (g : Group) (l : Loc) : Option TileRef :=
  if l.space = .h then some (g.tileRef l.handle) else none

/-- The copy of one lane from its checked pieces: the last is the source, the others the destination
images. -/
def laneCopy (g : Group) (lane : Nat) (d sr : Loc) (size : Nat) (ps : List Piece) : Copy where
  lane := lane
  xfer := 0
  src := (ps.getLast?.map (·.key)).getD 0
  dst := ps.dropLast.map (·.key)
  size := size
  chunkAddr := if d.space = .h then d.a else d.a % 2 ^ 32
  chunkOff := d.space == .h
  got := none
  tileSrc := g.tileOf? sr
  tileDst := g.tileOf? d

/-- Number the transfers: lanes whose source and destination lie in the same aligned 128-byte blocks
share one (R203). -/
def numberCopies (cs : List Copy) : List Copy :=
  cs.foldl (fun acc c =>
    let n := match acc.find? (fun x => lineOf x.src == lineOf c.src &&
        lineOf (x.dst.headD 0) == lineOf (c.dst.headD 0)) with
      | some x => x.xfer
      | none => acc.foldl (fun m x => Nat.max m (x.xfer + 1)) 0
    acc ++ [{ c with xfer := n }]) []

/-- `cpa` (R202, R203). -/
def execCpa (f : CpaForm) (s : State) : Host.Outcome State Fault Refusal :=
  issue (.cpa f) s (fun s g p =>
    let act := g.active p f.gd
    if act = 0 then .done s
    else
      let off := (g.rdS p f.c).toNat
      match s.cellCheck g f.ck off with
      | some c => .trap c (lowLane act) 5 0
      | none =>
        let n := esizeBytes f.size
        let ls := (lanesOf act).map (fun l => (l, copyLoc g p f.a f.dspace l, copyLoc g p f.b f.sspace l))
        let rs := ls.map (fun x => (x.1, pairRes (s.laneAccess g p (copyWant .store n) x.1 x.2.1)
          (s.laneAccess g p (copyWant .load n) x.1 x.2.2)))
        match joinLanes rs with
        | .ok ps =>
          if g.full [5] then .hold 2 true
          else
            let cs := numberCopies (ls.map (fun x => laneCopy g x.1 x.2.1 x.2.2 n
              ((ps.filter (fun y => y.1 == x.1)).map (·.2))))
            let xs := cs.foldl (fun acc c => addNew c.xfer acc) []
            let o := s.newOp g p act (.cpa (s.cellRef g f.ck off) cs xs []) [] [5] []
            let s := s.startOp g o [] []
            match ls with
            | x :: _ => .done (s.recordMem g x.2.1 5 true)
            | [] => .done s
        | r => s.refuseAs g p (fun page => if ls.any (fun x => pageOf x.2.1.a == page && f.dspace == .g) then .store else .load) 5 r)

/-- Write a lane's bytes to one image, but for the bytes that a higher lane of the copy writes. -/
def State.copyWrite (s : State) (ctx : Nat) (cs : List Copy) (c : Copy) (key v : Nat) : State :=
  let cover := sumNat ((List.range c.size).map (fun k =>
    if cs.any (fun x => decide (x.lane > c.lane) && x.dst.any (fun d => decide (d ≤ key + k ∧ key + k < d + x.size)))
    then 0 else 2 ^ k))
  (((s.writeMasked key cover c.size v).breakResv (engineOwner ctx) key c.size).wakeTimelines key c.size).markDirty ctx key

/-- Lanes read before they write (R53): a copy whose source bytes a transfer is about to write, and that has
not been read, is read first. -/
def State.readFirst (s : State) (mine : List Copy) (c : Copy) : Copy :=
  if c.got.isSome then c
  else if mine.any (fun m => m.lane == c.lane || m.dst.any (fun d => overlap d m.size c.src c.size)) then
    { c with got := some (s.read c.src c.size) }
  else c

/-- Perform the copies of one transfer, once their sources are read (R53). A transfer whose handle is no
longer current is not performed (R357). -/
def State.copyAll (s : State) (ctx : Nat) (cs mine : List Copy) : State :=
  mine.foldl (fun (s : State) (c : Copy) =>
    c.dst.foldl (fun (s : State) d => s.copyWrite ctx cs c d (c.got.getD (s.read c.src c.size))) s) s

/-- Deliver a transfer to its cell: bytes leave COUNT, chunks rise, a stale handle is recorded (R203,
R205, R357). A delivery that would carry COUNT out of range leaves COUNT as it is and sets FAULT. -/
def State.cellDeliver (s : State) (r : CellRef) (mine : List Copy) (stale : Bool) : State :=
  let c := s.cell r
  let c := if stale then c.setFault .tileStale else c
  let n := sumNat (mine.map (·.size))
  let c := match c.addCount (-(n : Int)) with
    | none => c.setFault .cellOverflow
    | some k => { c with count := k }
  let (s, c) := if stale then (s, c) else mine.foldl (fun (acc : State × Cell) x =>
    let i := if x.chunkOff then x.chunkAddr / 512
      else if x.chunkAddr < acc.2.chunkBase then 64 else (x.chunkAddr - acc.2.chunkBase) / 512
    acc.1.chunkAdd r acc.2 i x.size) (s, c)
  s.cellStep r c

/-- An engine operation ends: its counters fall. -/
def State.endOp (s : State) (o : Op) : State :=
  ((s.completeOp o).replyTo (fun r => r.op == o.id)).delOp o.id

/-- CPA_TRANSFER: transfer `x` of a copy is performed, its requests sent (R19), and, once TIME has reached its T_w, reported to
the cell (R92, R203). -/
def execCpaTransfer (op x : Nat) (s : State) : Host.Outcome State Fault Refusal :=
  match s.op? op with
  | none => .next s
  | some o =>
    match o.kind with
    | .cpa cell cs left wrote =>
      let mine := cs.filter (fun c => c.xfer == x)
      let stale := mine.any (fun c => (c.tileSrc.any (fun t => !s.tileLive t)) || (c.tileDst.any (fun t => !s.tileLive t)))
      let report := fun (s : State) (left : List Nat) (wrote : List (Nat × Nat)) (stale : Bool) =>
        let s := s.cellDeliver cell mine stale
        if left.isEmpty && wrote.isEmpty then s.endOp o
        else s.putOp { o with kind := .cpa cell cs left wrote }
      if left.contains x then
        let keys := (transferKeys cs x).1 ++ (transferKeys cs x).2
        if !s.forkReady o || !s.carried o.id keys then .next s
        else
          let left := left.filter (· != x)
          let others := left.flatMap (fun y => (transferKeys cs y).1 ++ (transferKeys cs y).2)
          let tw := if stale then 0 else maxNat ((mine.flatMap (·.dst)).map s.writeTime)
          let cs := if stale then cs else cs.map (s.readFirst mine)
          let s := if stale then s else s.copyAll o.ctx cs (cs.filter (fun c => c.xfer == x))
          let s := ((s.noteTw o tw).servedAbroad o.id keys others).putOp { o with kind := .cpa cell cs left wrote }
          if tw ≤ s.time then .next (report s left wrote stale)
          else .next (s.putOp { o with kind := .cpa cell cs left (wrote ++ [(x, tw)]) })
      else match wrote.find? (fun w => w.1 == x) with
        | some w =>
          if w.2 ≤ s.time then .next (report s left (wrote.filter (fun y => y.1 != x)) false)
          else .next s
        | none => .next s
    | _ => .next s

/-! ### bcomp (R217, R218) -/

/-- `bcomp`: the cell is checked, then the addresses' alignment; the rest is tested as it runs (R217,
R218). -/
def execBcomp (f : BcompForm) (s : State) : Host.Outcome State Fault Refusal :=
  issue (.bcomp f) s (fun s g p =>
    let act := g.active p f.gd
    if act = 0 then .done s
    else
      let off := (g.rdS p f.c).toNat
      let reg := fun (r : Fin 64) (sp : Space) =>
        ({ space := sp
           base := if sp = .g then (g.rd64 p (192 + r.val) 0).toNat else (g.rdS p r).toNat
           team := g.cTeam true 0 } : Region)
      let src := reg f.a f.sspace
      let dst := reg f.b f.dspace
      match s.cellCheck g f.ck off with
      | some c => .trap c (lowLane act) 5 0
      | none =>
        if src.base % 16 != 0 || dst.base % 16 != 0 then .trap .misaligned (lowLane act) 5 0
        else if g.full [5] then .hold 2 true
        else
          let o := s.newOp g p act (.bcomp (s.cellRef g f.ck off) src dst (f.n.val + 1) f.big f.two f.q.val
            false [] 0 none) [] [5] []
          let s := s.startOp g o [] []
          .done (s.recordMem g { space := f.sspace, a := src.base, handle := 0 } 5 false))

/-- Storage key of an aligned 16-byte part of a region, or the code that its use raises (R218). -/
def State.regionPart (s : State) (o : Op) (k : Acc) (r : Region) (off : Nat) : Except Code Nat :=
  let hd := s.hdrOf o.kid
  let a := r.base + off
  match r.space with
  | .g => match s.devXlate o.ctx k (a % 2 ^ 64) 16 with
    | .error c => .error (if c == .privileged then .protection else c)
    | .ok t => match t.key? with
      | some key => .ok key
      | none => .error .protection
  | .c => if a + 16 > hd.cscr * 256 then .error .spaceBounds
    else match s.crew? o.kid o.crew with
      | some c => .ok (c.cKey r.team a)
      | none => .error .spaceBounds
  | .k => if a + 16 > 24 * 65536 * hd.kshare then .error .spaceBounds
    else match s.crew? o.kid o.crew with
      | some c => .ok (kKey c.cluster c.kbase a)
      | none => .error .spaceBounds
  | _ => if a + 16 > 96 * 1024 * (s.desc o.ctx).xshare then .error .spaceBounds
    else .ok (xKey (s.xbase o.ctx) a)

/-- Read parts at a list of offsets. -/
def State.readParts (s : State) (o : Op) (r : Region) : List Nat → Except Code (List Nat)
  | [] => .ok []
  | off :: rest => match s.regionPart o .load r off with
    | .error c => .error c
    | .ok key => match State.readParts s o r rest with
      | .error c => .error c
      | .ok vs => .ok (s.read key 16 :: vs)

/-- Write parts from an offset on; the largest T_w. -/
def State.writeParts (s : State) (o : Op) (r : Region) (off tw : Nat) : List Nat → Except (State × Code) (State × Nat)
  | [] => .ok (s, tw)
  | v :: rest => match s.regionPart o .store r off with
    | .error c => .error (s, c)
    | .ok key => State.writeParts (s.applyStore (engineOwner o.ctx) key 16 v) o r (off + 16)
        (Nat.max tw (s.writeTime key)) rest

/-- A run of `bcomp`: what it has written and the entries so far. -/
structure Pack where
  s : State
  off : Nat
  tw : Nat
  /-- BITMAP of each K step. -/
  maps : SMap Nat
  code : Option Code
  /-- Some part has been written. -/
  wrote : Bool := false

/-- Offsets of the 16-byte parts of a block, row-major (R217). -/
def blockParts (kb : Nat) (e bs row col : Nat) : List Nat :=
  (List.range bs).flatMap (fun r => (List.range (bs * e / 16)).map (fun j =>
    (row * bs + r) * kb + col * e + 16 * j))

/-- One block: read it, and append it if it is present. -/
def Pack.block (x : Pack) (o : Op) (src dst : Region) (kb e bs t row c : Nat) : Pack :=
  if x.code.isSome then x
  else match x.s.readParts o src (blockParts kb e bs row (96 * t + c * bs)) with
    | .error code => { x with code := some code }
    | .ok vs =>
      if vs.all (· == 0) then x
      else
        let began := x.wrote || (match x.s.regionPart o .store dst x.off with
          | .ok _ => true
          | .error _ => false)
        match x.s.writeParts o dst x.off x.tw vs with
        | .error (s, code) => { x with s := s, code := some code, wrote := began }
        | .ok (s, tw) =>
          let m := SMap.get 0 x.maps t ||| 2 ^ (96 / bs * row + c)
          { x with s := s, off := x.off + 16 * vs.length, tw := tw, maps := SMap.set 0 x.maps t m, wrote := began }

/-- The whole run, block by block in R217's order (log 23, DESIGN CHOICE). -/
def State.pack (s : State) (o : Op) (src dst : Region) (steps : Nat) (big two : Bool) : Pack :=
  let e := if two then 2 else 1
  let bs := if big then 32 else 16
  (List.range steps).foldl (fun x t => (List.range (64 / bs)).foldl (fun x row =>
    (List.range (96 / bs)).foldl (fun (x : Pack) c => x.block o src dst (96 * steps * e) e bs t row c) x) x)
    { s := s, off := 0, tw := 0, maps := [], code := none }

/-- The metadata queue of a kernel on an engine (R237). -/
def Engine.queue (e : Engine) (kid q : Nat) : MetaQ :=
  match e.metas.find? (fun m => m.kid == kid && m.q == q) with
  | some m => m
  | none => { kid := kid, q := q, entries := [], poisoned := false }

def Engine.setQueue (e : Engine) (m : MetaQ) : Engine :=
  { e with metas := upsert (fun x => x.kid == m.kid && x.q == m.q) m e.metas }

/-- The engine of an operation's group. -/
def Op.engineNum (o : Op) : Nat := Machine.engineNum o.gid.cluster o.gid.core

/-- An earlier `mqinit` of the queue has words to append first (R238). -/
def State.mqinitBefore (s : State) (o : Op) (q : Nat) : Bool :=
  s.ops.any (fun x => decide (x.id < o.id) && x.kid == o.kid && x.engineNum == o.engineNum &&
    (match x.kind with
    | .mqinit r _ _ => r == q
    | _ => false))

/-- Words of an `mqinit` of the queue are still to be appended: a push comes after those of every one that has
issued (R238). -/
def State.mqinitOpen (s : State) (o : Op) (q : Nat) : Bool :=
  s.ops.any (fun x => x.kid == o.kid && x.engineNum == o.engineNum &&
    (match x.kind with
    | .mqinit r _ _ => r == q
    | _ => false))

/-- Push waiting entries while the queue has room (R237). -/
def State.pushMeta (s : State) (o : Op) (q : Nat) : List Nat → State × List Nat
  | [] => (s, [])
  | v :: rest =>
    let e := s.engine o.engineNum
    let m := e.queue o.kid q
    if m.entries.length ≥ 64 || s.mqinitOpen o q then (s, v :: rest)
    else State.pushMeta (s.setEngine o.engineNum (e.setQueue { m with entries := m.entries ++ [v] })) o q rest

/-- The arrival that ends a `bcomp`: PACKED, FAULT and one arrival of no bytes (R217, R218). -/
def State.bcompArrive (s : State) (cell : CellRef) (packed : Nat) (code : Option Code) : State :=
  let c := s.cell cell
  let c := match code with
    | some k => c.setFault k
    | none => { c with packed := packed % 2 ^ 32 }
  if c.arrived + 1 > c.target then s.setCell cell (c.setFault .cellOverflow)
  else s.cellStep cell { c with arrived := c.arrived + 1 }

/-- End a `bcomp` whose entries are pushed, once TIME has reached its T_w. -/
def State.bcompEnd (s : State) (o : Op) : State :=
  match o.kind with
  | .bcomp cell _ _ _ _ _ _ true [] packed code =>
    if o.tw ≤ s.time then (s.bcompArrive cell packed code).endOp o else s.putOp o
  | _ => s.putOp o

/-- The destination region of a faulted `bcomp` (R218). -/
def State.spoil (s : State) (o : Op) (dst : Region) (n : Nat) : State :=
  (List.range (n / 16)).foldl (fun (s : State) j => match s.regionPart o .store dst (16 * j) with
    | .ok key => s.freeBytes key 16
    | .error _ => s) s

/-- Storage keys that a run of `bcomp` reads and writes, as far as its regions translate; `x` is the run. -/
def State.packKeys (s : State) (o : Op) (src dst : Region) (steps e : Nat) (x : Pack) : List Nat :=
  let keys := fun (k : Acc) (r : Region) (n : Nat) => (List.range n).filterMap (fun j => match s.regionPart o k r (16 * j) with
    | .ok key => some key
    | .error _ => none)
  keys .load src (384 * steps * e) ++ keys .store dst ((x.off + 15) / 16)

/-- A `bcomp` has sent the requests of its run (R19), or makes those that it lacks. -/
def State.packAsk (s : State) (o : Op) (src dst : Region) (steps e : Nat) (x : Pack) : Option State :=
  let keys := s.packKeys o src dst steps e x
  if s.reached o.id keys then none else some (s.askFor o.id o.gid.cluster o.gid.core keys)

/-- BCOMP_FINISH: once the requests of the run have been sent, the blocks are written and the entries pushed; when all are in the queue, the cell
takes PACKED and the arrival (R217) (log 23, DESIGN CHOICE). -/
def execBcompFinish (op : Nat) (s : State) : Host.Outcome State Fault Refusal :=
  match s.op? op with
  | none => .next s
  | some o =>
    match o.kind with
    | .bcomp cell src dst steps big two q false _ _ _ =>
      let x := s.pack o src dst steps big two
      if !s.forkReady o || x.code.isSome then .next s
      else match s.packAsk o src dst steps (if two then 2 else 1) x with
      | some s => .next s
      | none =>
        let es := (List.range steps).map (fun t => SMap.get 0 x.maps t + bit01 big * 2 ^ 24)
        let s := x.s.noteTw o x.tw
        let (s, es) := s.pushMeta o q es
        .next (s.bcompEnd { o with kind := .bcomp cell src dst steps big two q true es x.off none, tw := x.tw })
    | .bcomp _ _ _ _ _ _ _ true _ _ _ => .next (s.bcompEnd o)
    | _ => .next s

/-- BCOMP_FAULT: a fault of the run; what it had begun to write is undefined, and a poison entry
stands for its entries (R218). A run that faults before it has written ends in the same way, with its
destination unchanged (log 23, DESIGN CHOICE). -/
def execBcompFault (op : Nat) (s : State) : Host.Outcome State Fault Refusal :=
  match s.op? op with
  | none => .next s
  | some o =>
    match o.kind with
    | .bcomp cell src dst steps big two q false _ _ _ =>
      let x := s.pack o src dst steps big two
      match x.code with
      | none => .next s
      | some code =>
        if !s.forkReady o then .next s
        else match s.packAsk o src dst steps (if two then 2 else 1) x with
        | some s => .next s
        | none =>
          let s := x.s.noteTw o x.tw
          let s := if !x.wrote then s else s.spoil o dst (64 * 96 * steps * (if two then 2 else 1))
          let (s, es) := s.pushMeta o q [2 ^ 31]
          .next (s.bcompEnd { o with kind := .bcomp cell src dst steps big two q true es 0 (some code), tw := x.tw })
    | _ => .next s

/-- METADATA_PUSH: a waiting entry enters the queue (R237). -/
def execMetadataPush (op : Nat) (s : State) : Host.Outcome State Fault Refusal :=
  match s.op? op with
  | none => .next s
  | some o =>
    match o.kind with
    | .bcomp cell src dst steps big two q true es packed code =>
      let (s, es) := s.pushMeta o q es
      .next (s.putOp { o with kind := .bcomp cell src dst steps big two q true es packed code })
    | _ => .next s

end Sys2Proof.Machine
end

