-- ==== Sys2Proof/Machine/Atomic.lean ====
section
/-! DEFINITION. Path-counter waits and fences (R210, R211, R84 to R88), atomics and reservations (R212
to R214), prefetch and private lines (R215, R216). -/

namespace Sys2Proof.Machine

/-! ### waitc and fences -/

/-- `waitc` (R210). -/
def execWaitc (gd : Guard) (path : Fin 8) (thr : Threshold) (s : State) : Host.Outcome State Fault Refusal :=
  issue (.waitc gd path thr) s (fun s g p =>
    let t := match thr with
      | .reg r => (g.rdS p r).toNat
      | .imm t => t.val
    if !g.guard gd || decide (g.count path.val ≤ t) then .done s else .hold 2 true)

/-- What a completed fence leaves: the time of a `fence.sc` of team scope or wider (R86). -/
def Group.fenceDone (g : Group) (f : Fence) (time order : Nat) : Group :=
  { g with
    fences := g.fences.filter (fun x => x.id != f.id)
    scTime := if f.sc && f.scope != .group then some (time, order) else g.scTime }

/-- The condition of a fence (R84 to R87). -/
def State.fenceMet (s : State) (g : Group) (f : Fence) : Bool :=
  (!f.rel || s.released g f.scope f.upTo) && (!f.acq || s.loadsDone g f.upTo)

/-- A fence issues for the whole group, whatever its guard (R88); it stays pending until its
condition holds. -/
def fenceBody (rel acq sc : Bool) (scope : Scope) (s : State) (g : Group) (_ : Path) : Res :=
  let f : Fence := { id := s.nextId, rel := rel, acq := acq, sc := sc, scope := scope, upTo := s.nextId }
  let s := { s with nextId := s.nextId + 1 }
  if s.fenceMet g f then .done (s.setGroup (g.fenceDone f s.time s.nextId))
  else .done (s.setGroup { g with fences := g.fences ++ [f] })

/-- `fence.rel` (R84). -/
def execFenceRel (gd : Guard) (scope : Scope) (s : State) : Host.Outcome State Fault Refusal :=
  issue (.fenceRel gd scope) s (fenceBody true false false scope)

/-- `fence.acq` (R85). -/
def execFenceAcq (gd : Guard) (scope : Scope) (s : State) : Host.Outcome State Fault Refusal :=
  issue (.fenceAcq gd scope) s (fenceBody false true false scope)

/-- `fence.sc` (R86). -/
def execFenceSc (gd : Guard) (scope : Scope) (s : State) : Host.Outcome State Fault Refusal :=
  issue (.fenceSc gd scope) s (fenceBody true true true scope)

/-- FENCE_COMPLETE: a pending fence whose condition holds completes (R87). -/
def execFenceComplete (i : GroupId) (fence : Nat) (s : State) : Host.Outcome State Fault Refusal :=
  match s.group? i with
  | none => .next s
  | some g => match g.fences.find? (fun f => f.id == fence) with
    | none => .next s
    | some f => .next (if s.fenceMet g f then s.setGroup (g.fenceDone f s.time s.nextId) else s)

/-! ### Atomics and reservations (R212, R214) -/

/-- Base and displacement of an atomic in .g or .x. -/
def atomLoc (g : Group) (p : Path) (x : Bool) (base : Reg) (disp : Option Word) (lane : Nat) : Loc :=
  if x then { space := .x, a := (g.rd p base.code lane + disp32 disp).toNat, handle := 0 }
  else { space := .g, a := (g.rd64 p base.code lane + disp64 disp).toNat, handle := 0 }

def atomWant (k : Acc) (n : Nat) (wide : Bool) (mis : Code) : Want where
  kind := k
  bytes := n
  unit := n
  misaligned := mis
  window := false
  wide := wide
  noReg := true

/-- The destination of a result of one or two registers. -/
def resultDest (wide : Bool) (d : Reg) (regs : Nat) (lanes : Mask) : Dest where
  g := wide
  reg := d.code
  regs := regs
  width := 4 * regs
  sext := false
  lanes := lanes

/-- What an access at the home forks: kind, path, whether the result is long-latency. -/
structure HomeAcc where
  want : Want
  kind : OpKind
  path : Nat
  /-- Operand and new value of a lane. -/
  b : Nat → Nat
  c : Nat → Nat
  long : Bool

/-- Issue an access that is performed at its home: checks, counters, requests (R200, R213). -/
def homeAccess (a : HomeAcc) (lanes : List Nat) (loc : Nat → Loc) (s : State) (g : Group) (p : Path) : Res :=
  let fin := fun (s : State) (o : Option Nat) => if a.long then Res.long s o else Res.done s
  match lanes with
  | [] => fin s none
  | l0 :: _ =>
    match s.access g p a.want false (lanes.map (fun l => (l, loc l))) with
    | .ok ps =>
      if g.full [a.path] then .hold 2 true
      else
        let parts := ps.map (fun x => x.2.part x.1 (g.owner a.want.wide x.1) (a.b x.1) (a.c x.1))
        let o := s.newOp g p (lanes.foldl (fun m l => m ||| laneBit l) 0) a.kind parts [a.path] []
        let leases := ps.map (fun _ => 0)
        if s.overWindow g o leases then .hold 9 false
        else
          let s := s.startOp g o leases []
          fin (s.recordMem g (loc l0) a.path (a.want.kind != .load)) (some o.id)
    | r => s.refuse g p a.want.kind a.path r

/-- The mask of a list of lanes. -/
def maskOf (ls : List Nat) : Mask := ls.foldl (fun m l => m ||| laneBit l) 0

/-- An operand of one register or a pair, as a number. -/
def Group.num (g : Group) (p : Path) (w64 : Bool) (r : Reg) (lane : Nat) : Nat :=
  (g.rdN p (wregs w64) r lane).toNat

/-- `atom` (R212, R213). -/
def execAtom (f : AtomForm) (s : State) : Host.Outcome State Fault Refusal :=
  issue (.atom f) s (fun s g p =>
    let ls := g.acting p f.g f.gd
    let n := if f.w64 then 8 else 4
    homeAccess
      { want := atomWant .atomic n f.g .misalignedAtomic
        kind := .atom f.op f.w64 (some (resultDest f.g f.d (wregs f.w64) (maskOf ls)))
        path := if f.x then 4 else 0
        b := g.num p f.w64 f.b
        c := fun l => match f.c with
          | some r => g.num p f.w64 r l
          | none => 0
        long := true } ls (atomLoc g p f.x f.base f.disp) s g p)

/-- `red` (R212, R213). -/
def execRed (f : RedAtForm) (s : State) : Host.Outcome State Fault Refusal :=
  issue (.red f) s (fun s g p =>
    homeAccess
      { want := atomWant .atomic (if f.w64 then 8 else 4) f.g .misalignedAtomic
        kind := .atom f.op f.w64 none
        path := if f.x then 4 else 1
        b := g.num p f.w64 f.b
        c := fun _ => 0
        long := false } (g.acting p f.g f.gd) (atomLoc g p f.x f.base f.disp) s g p)

/-- `ldr` (R214). -/
def execLdr (f : LdrForm) (s : State) : Host.Outcome State Fault Refusal :=
  issue (.ldr f) s (fun s g p =>
    let ls := g.acting p f.g f.gd
    homeAccess
      { want := atomWant .load (if f.w64 then 8 else 4) f.g .misaligned
        kind := .ldr (resultDest f.g f.d (wregs f.w64) (maskOf ls)) f.g
        path := if f.x then 4 else 0
        b := fun _ => 0
        c := fun _ => 0
        long := true } ls (atomLoc g p f.x f.base f.disp) s g p)

/-- `stc` (R214): D receives 0 or 1. -/
def execStc (f : StcForm) (s : State) : Host.Outcome State Fault Refusal :=
  issue (.stc f) s (fun s g p =>
    let ls := g.acting p f.g f.gd
    homeAccess
      { want := atomWant .store (if f.w64 then 8 else 4) f.g .misaligned
        kind := .stc (resultDest f.g f.d 1 (maskOf ls)) f.g
        path := if f.x then 4 else 0
        b := g.num p f.w64 f.b
        c := fun _ => 0
        long := true } ls (atomLoc g p f.x f.base f.disp) s g p)

/-- RESERVATION_EXPIRE: a reservation is cleared 4,096 clocks after its `ldr` (R214). -/
def execReservationExpire (n : Nat) (s : State) : Host.Outcome State Fault Refusal :=
  match s.resv[n]? with
  | none => .next s
  | some r => .next (if s.clock ≥ r.clock + 4096 then { s with resv := s.resv.eraseIdx n } else s)

/-! ### Prefetch and private lines (R215, R216) -/

/-- The line that a prefetch of a context on a cluster requests: key and lease class, if it does anything. -/
def State.prefetchLine (s : State) (cluster ctx va : Nat) : Option (Nat × Nat) :=
  match s.tlb? cluster ctx va with
  | none => none
  | some t => match s.through ctx .load false t.leaf.toNat t.bits va 1 with
    | .ok (.mem pa lease) => if lease = 0 then none else some (lineOf pa, lease)
    | _ => none

/-- The parts of a prefetch: lanes, each with its line and lease class. -/
def State.prefetchParts (s : State) (xs : List (Nat × Nat × Nat)) : List Part :=
  xs.map (fun x =>
    ({ idx := 0, path := 0, key := x.2.1, size := 1, via := .slice (s.slice x.2.1), lease := x.2.2, order := 0 } : Piece).part
      x.1 outsider 0 0)

/-- `prefetch` (R215): a lane whose translation misses goes on when the walk has ended (R377). -/
def execPrefetch (gd : Guard) (addr : Addr) (s : State) : Host.Outcome State Fault Refusal :=
  issue (.prefetch gd addr) s (fun s g p =>
    let ls := lanesOf (g.active p gd)
    let vas := (ls.map (fun l => (l, addrGlobal addr g p l))).filter (fun x => decide (x.2 < 2 ^ 56))
    let todo := vas.filter (fun x => (s.tlb? g.id.cluster g.ctx x.2).isNone)
    let xs := vas.filterMap (fun x => (s.prefetchLine g.id.cluster g.ctx x.2).map (fun y => (x.1, y)))
    let s := match ls with
      | l :: _ => s.recordMem g (addrLoc addr g p .g l) 0 false
      | [] => s
    if xs.isEmpty && todo.isEmpty then .done s
    else
      let o := s.newOp g p (g.active p gd) (.prefetch todo) (s.prefetchParts xs) [] []
      if s.overWindow g o (xs.map (·.2.2)) then .hold 9 false
      else .done (s.startOp g o (xs.map (·.2.2)) []))

/-- The issuing core's private lines that an instruction names. -/
def State.privLines (s : State) (g : Group) (keys : List Nat) : List L1Line :=
  s.l1.filter (fun l => l.cluster == g.id.cluster && l.core == g.id.core && l.kind == .priv g.ctx &&
    keys.contains l.line)

/-- Lines that hold private words of the group's threads. -/
def State.groupLines (s : State) (g : Group) : List Nat :=
  match s.groupCrew g with
  | none => []
  | some c => g.threads.foldl (fun acc t => (List.range g.hdr.privw).foldl (fun acc w =>
      match s.walk g.ctx (c.privAddr g.hdr.privw t.2 w) with
      | .ok (e, b) => addNew (lineOf (bits e 51 12 * 4096 / 2 ^ b * 2 ^ b + c.privAddr g.hdr.privw t.2 w % 2 ^ b)) acc
      | .error _ => acc) acc) []

/-- The checks of the pages of a group's private words: each page once, with the lowest lane of its words, as for a
store (R216, R374). -/
def State.groupPages (s : State) (g : Group) (p : Path) : List (Nat × LaneRes) :=
  match s.groupCrew g with
  | none => []
  | some c =>
    let vas := g.threads.foldl (fun (acc : List (Nat × Nat)) t => (List.range g.hdr.privw).foldl (fun acc w =>
      let va := c.privAddr g.hdr.privw t.2 w
      if acc.any (fun x => pageOf x.2 == pageOf va) then acc else acc ++ [(t.1, va)]) acc) []
    vas.map (fun x => (x.1, s.globalPiece g p (atomWant .store 4 false .misaligned) x.2 0 4))

/-- Write lines back as one operation on path 1, and clean or drop them (R216). Earlier write-backs of the core to
the lines land first (R62) (log 17, DEDUCED). -/
def State.lineOp (s : State) (g : Group) (p : Path) (act : Mask) (lines : List L1Line) (drop : Bool) : Res :=
  let parts := lines.flatMap (fun l => l.dirtyParts (fun _ => g.owner false (lowLane act)) l.dirty (s.slice l.line))
  if !parts.isEmpty && g.full [1] then .hold 2 true
  else
    let leases := parts.map (fun _ => 0)
    if s.overWindow g (s.newOp g p act .writeback parts [1] []) leases then .hold 9 false
    else
      let s := lines.foldl (fun (s : State) (l : L1Line) => s.pullBacks l.cluster l.core l.line 128) s
      let s := lines.foldl (fun (s : State) (l : L1Line) =>
        if drop then s.dropL1 l.cluster l.core l.line else s.setL1 { l with dirty := 0 }) s
      .done (if parts.isEmpty then s else s.startOp g (s.newOp g p act .writeback parts [1] []) leases [])

/-- The body of `flush.p` and `inval.p`. -/
def lineBody (gd : Guard) (arg : LineArg) (drop : Bool) (s : State) (g : Group) (p : Path) : Res :=
  let act := g.active p gd
  if act = 0 then .done s
  else match arg with
    | .all _ =>
      match joinLanes (s.groupPages g p) with
      | .ok _ => s.lineOp g p act (s.privLines g (s.groupLines g)) drop
      | r => s.refuse g p .store 1 r
    | .at a =>
      let ls := (lanesOf act).map (fun l => (l, addrLoc a g p .p l))
      match s.access g p (atomWant .store 4 false .misaligned) false ls with
      | .ok ps =>
        match s.lineOp g p act (s.privLines g (ps.map (fun x => lineOf x.2.key))) drop with
        | .done s => match ls with
          | x :: _ => .done (s.recordMem g x.2 1 true)
          | [] => .done s
        | r => r
      | r => s.refuse g p .store 1 r

/-- `flush.p` (R216). -/
def execFlush (gd : Guard) (arg : LineArg) (s : State) : Host.Outcome State Fault Refusal :=
  issue (.flush gd arg) s (lineBody gd arg false)

/-- `inval.p` (R216). -/
def execInval (gd : Guard) (arg : LineArg) (s : State) : Host.Outcome State Fault Refusal :=
  issue (.inval gd arg) s (lineBody gd arg true)

end Sys2Proof.Machine
end

