-- ==== Sys2Proof/Machine/Flow.lean ====
section
/-! DEFINITION. Steps of the memory system: requests and their tokens (R19), service at the slices
(R68, R77 to R81), delivery and acknowledgement (R70, R82), congestion (R308, R311). -/

namespace Sys2Proof.Machine

/-- Tiles that a load consumes. -/
def OpKind.eats : OpKind → List TileRef
  | .load _ c => c
  | _ => []

/-- LOAD_DELIVERED: every part has its value, and the data reaches the registers; or every part that lies on one
of the paths of a load on several (R70). -/
def execLoadDelivered (op : Delivery) (s : State) : Host.Outcome State Fault Refusal :=
  match op with
  | .whole n => match s.op? n with
    | none => .next s
    | some o => .next (if o.kind.dest.isSome && s.ready o && !s.tileBusy o o.kind.eats then s.deliver o else s)
  | .onPath n k => match s.op? n with
    | none => .next s
    | some o =>
      let here := { o with parts := o.parts.filter (fun p => p.path == k) }
      .next (if o.paths.length ≥ 2 && o.paths.contains k && s.ready here then s.deliverPath o k else s)

/-- Operations that are acknowledged part by part. -/
def OpKind.acked : OpKind → Bool
  | .store | .writeback | .tlsig _ _ => true
  | .atom _ _ d => d.isNone
  | .ratom _ _ d => d.isNone
  | _ => false

/-- The reply packet to the request of a part at a peer has come (R391). -/
def State.partReplied (s : State) (o : Op) (i : Nat) : Bool :=
  s.reqs.all (fun r => r.op != o.id || r.slice != 96 || !r.parts.contains i || r.back)

/-- Acknowledgements of one group for overlapping bytes arrive in the order of its accesses: a part waits for the
earlier ones that write its bytes (R77, R82) (log 55, DEDUCED). -/
def State.ackTurn (s : State) (o : Op) (i : Nat) (p : Part) : Bool :=
  s.ops.all (fun x => !(x.gid == o.gid && x.gval == o.gval && decide (x.id < o.id) && x.kind.ordinary && x.kind.isStore) ||
    x.parts.all (fun y => y.done || !overlap p.key p.size y.key y.size)) &&
  (o.parts.take i).all (fun y => y.done || !overlap p.key p.size y.key y.size)

/-- STORE_ACK: the acknowledgement of a part arrives (R82, R87). -/
def execStoreAck (op part : Nat) (s : State) : Host.Outcome State Fault Refusal :=
  match s.op? op with
  | none => .next s
  | some o =>
    match o.parts[part]? with
    | none => .next s
    | some p =>
      if !o.kind.acked || p.done || !s.partReplied o part || !s.ackTurn o part p || o.paths.isEmpty && o.admitted.isEmpty && o.parts.all (·.done) then .next s
      else if p.got.isSome then .next (s.ackPart o part p)
      else if p.via == .bank && s.partFree o p then
        let (s, o) := s.performParts o (fun i _ => i == part)
        match o.parts[part]? with
        | some p => .next ((s.putOp o).ackPart o part p)
        | none => .next s
      else .next s

/-- Fold a line's expiry record into E_drop of its slice (R80). -/
def State.dropRecord (s : State) (drop : Option Nat) : State :=
  match drop with
  | none => s
  | some line => match s.expiry.find? line with
    | none => s
    | some e =>
      let n := s.slice line
      { s with expiry := s.expiry.del line, eDrop := SMap.set 0 s.eDrop n (Nat.max e (SMap.get 0 s.eDrop n)) }

/-- Lease of a class in ns (R79). -/
def leaseTime : Nat → Option Nat
  | 1 => some 256
  | 2 => some 1000
  | 3 => some 4000
  | 4 => some 16000
  | 5 => some 64000
  | _ => none

/-- What the L1 keeps of a served line: a leased or class 6 copy, or a private line whose own bytes
stand (R62, R67, R79). A private line of the context is not replaced by a copy. A record made for a line that has
none holds E_drop of its slice too, so that no grant of a dropped record outlives a T_w (R80) (log 68, DEDUCED). -/
def State.keepLine (s : State) (r : Req) (ctx kid stamp : Nat) : State :=
  let old := (s.l1? r.cluster r.core r.line).filter (fun l => l.kind == .priv ctx)
  let fresh : L1Line := { cluster := r.cluster, core := r.core, line := r.line, kind := .class6 s.time,
                          ctx := ctx, stamp := stamp, bytes := s.lineBytes r.line, valid := 2 ^ 128 - 1, dirty := 0,
                          kid := kid }
  if r.line ≥ 2 ^ 49 then s
  else if r.lease = 8 then
    match old with
    | some l =>
      let bytes := (List.range 128).foldl (fun m k =>
        SMap.set 0 m k (if l.valid.testBit k then SMap.get 0 l.bytes k else s.byte (r.line + k))) []
      s.setL1 { l with bytes := bytes, valid := 2 ^ 128 - 1, stamp := stamp }
    | none => s.installL1 { fresh with kind := .priv ctx }
  else if old.isSome then s
  else if r.lease = 6 then s.installL1 fresh
  else match leaseTime r.lease with
    | none => s
    | some n =>
      let e := s.time + n
      let s := s.installL1 { fresh with kind := .leased e s.time }
      { s with expiry := s.expiry.put r.line (Nat.max e ((s.expiry.find? r.line).getD (SMap.get 0 s.eDrop (s.slice r.line)))) }

/-- A prefetch ends when nothing of it is left. -/
def State.endPrefetch (s : State) (o : Op) : State :=
  if o.kind == .prefetch [] && o.parts.all (·.done) then (s.replyTo (fun x => x.op == o.id)).delOp o.id else s

/-- SLICE_LOAD: the slice serves a request's line and grants a copy (R79). -/
def execSliceLoad (req : Nat) (drop : Option Nat) (s : State) : Host.Outcome State Fault Refusal :=
  match s.req? req with
  | none => .next s
  | some r => match s.op? r.op with
    | none => .next s
    | some o =>
      let open_ := r.parts.any (fun i => match o.parts[i]? with
        | some p => p.got.isNone
        | none => false)
      if !r.sent || r.slice ≥ 96 || !open_ then .next s
      else
        let s := (s.dropRecord drop).releaseIngress r.line
        match o.kind with
        | .load _ _ =>
          if !(r.parts.all (fun i => match o.parts[i]? with
            | some p => s.partFree o p
            | none => true) && (r.lease != 8 || s.backsDone r.cluster r.core r.line)) then .next s
          else
            let (s, o) := s.performParts o (fun i _ => r.parts.contains i)
            .next ({ s.putOp o with nextId := s.nextId + 1 }.keepLine r o.ctx o.kid s.nextId)
        | .prefetch _ =>
          let s := { s with nextId := s.nextId + 1 }.keepLine r o.ctx o.kid s.nextId
          let o := { o with parts := o.parts.zipIdx.map (fun (x : Part × Nat) =>
            if r.parts.contains x.2 then { x.1 with got := some 0, done := true } else x.1) }
          .next ((s.putOp o).endPrefetch o)
        | _ => .next s

/-- The first part of a request that is still to be performed. -/
def Req.nextPart (r : Req) (o : Op) : Option (Nat × Part) :=
  match r.parts.find? (fun i => match o.parts[i]? with
    | some p => p.got.isNone && !p.done
    | none => false) with
  | none => none
  | some i => o.parts[i]?.map (fun p => (i, p))

/-- The parts of an operation before this one, in other requests, that name its bytes have been
performed: lanes that name one location are applied in ascending order (R53, R213). -/
def Op.turn (o : Op) (i : Nat) (p : Part) : Bool :=
  (o.parts.take i).all (fun q => q.got.isSome || q.done || !overlap p.key p.size q.key q.size)

/-- Serve the next part of a request at its home, if its operation is of a kind and the part's turn has
come (R77). -/
def State.serve (s : State) (req : Nat) (kind : OpKind → Bool) (place : Req → Bool) (drop : Option Nat) : State :=
  match s.req? req with
  | none => s
  | some r => match s.op? r.op with
    | none => s
    | some o => match r.nextPart o with
      | none => s
      | some (i, p) =>
        if !r.sent || !place r || !kind o.kind || !s.partFree o p || !o.turn i p then s
        else
          let s := (s.dropRecord drop).releaseIngress r.line
          let (s, o) := s.performParts o (fun j _ => j == i)
          s.putOp o

def Req.atSlice (r : Req) : Bool := decide (r.slice < 96)

/-- SLICE_STORE: the slice applies the next part of a store request (R77, R80). -/
def execSliceStore (req : Nat) (drop : Option Nat) (s : State) : Host.Outcome State Fault Refusal :=
  .next (s.serve req (fun k => match k with
    | .store | .writeback => true
    | _ => false) Req.atSlice drop)

/-- SLICE_ATOMIC: the slice ALU applies the next part of an atomic or reservation request (R68, R212,
R214). -/
def execSliceAtomic (req : Nat) (drop : Option Nat) (s : State) : Host.Outcome State Fault Refusal :=
  .next (s.serve req (fun k => match k with
    | .atom _ _ _ | .ldr _ _ | .stc _ _ => true
    | _ => false) Req.atSlice drop)

/-- TIMELINE_SIGNAL: a signal is applied at the home location and wakes waiters (R276). -/
def execTimelineSignal (op : Nat) (s : State) : Host.Outcome State Fault Refusal :=
  match s.reqs.find? (fun r => r.op == op) with
  | none => .next s
  | some r => .next (s.serve r.id (fun k => match k with
    | .tlsig _ _ => true
    | _ => false) (fun _ => true) none)

/-- The request waits for the optical token of its slice's channel (R19, R308). -/
def Req.queued (r : Req) (cluster slice : Nat) : Bool :=
  r.cluster == cluster && r.slice == slice && !r.sent && !r.waiting

/-- Requests of a cluster that wait for a slice's token (R308). -/
def State.cq (s : State) (cluster slice : Nat) : Nat :=
  Nat.min 255 ((s.reqs.filter (fun r => r.queued cluster slice)).length)

/-- OPTICAL_TOKEN: the token of a slice's channel visits its next cluster, which sends one request if it has
one for that slice; the token then passes on (R19, R311). -/
def execOpticalToken (slice : Nat) (s : State) : Host.Outcome State Fault Refusal :=
  let c := SMap.get 0 s.token slice
  let mine := fun (r : Req) => decide (slice < 96) && r.queued c slice
  let mark := s.cong.mode == 1 && decide (s.cq c slice ≥ s.cong.markat)
  .next { s with
    token := SMap.set 0 s.token slice ((c + 1) % 24)
    reqs := updFirst mine (fun r => { r with sent := true, mark := mark }) s.reqs }

/-- COMPLETION_REPLY: a peer port or the adapter reports that a store is complete at system scope
(R83). -/
def execCompletionReply (req : Nat) (s : State) : Host.Outcome State Fault Refusal :=
  match s.req? req with
  | none => .next s
  | some r => match s.op? r.op with
    | none => .next s
    | some o =>
      if r.slice < 96 || r.parts.any (fun i => match o.parts[i]? with
          | some p => p.got.isNone
          | none => false) then .next s
      else
        let o := { o with parts := o.parts.zipIdx.map (fun (x : Part × Nat) =>
          if r.parts.contains x.2 then { x.1 with sysDone := true } else x.1) }
        if o.parts.all (fun p => p.done && p.sysDone) then
          .next ((s.replyTo (fun x => x.op == o.id)).delOp o.id)
        else .next (s.putOp o)

/-! ### Congestion (R308 to R311) -/

/-- The allowance for a load level (R308). -/
def allowanceOf (l : Nat) : Nat :=
  if l < 8 then 64 else if l < 16 then 32 else if l < 24 then 16 else if l < 32 then 8 else 4

/-- A cluster samples its queues (R308, R309). -/
def State.sample (s : State) (cluster : Nat) : State :=
  let l := maxNat ((List.range 96).map (s.cq cluster))
  let host := Nat.min 64 (Nat.max 4 (pairGet 64 s.cong.rate cluster))
  { s with cong := { s.cong with
    allow := pairSet s.cong.allow cluster (allowanceOf l)
    allowHost := pairSet s.cong.allowHost cluster host } }

/-- CONGESTION_SAMPLE: every 256 clocks a cluster samples its queues (R308, R309). -/
def execCongestionSample (cluster : Nat) (s : State) : Host.Outcome State Fault Refusal :=
  if s.clock % 256 != 0 then .next s else .next (s.sample cluster)

/-- A reply adjusts its core's window (R311). -/
def Congestion.reply (c : Congestion) (k : Nat) (marked : Bool) : Congestion :=
  let w := pairGet 256 c.win k
  let n := pairGet 64 c.replies k
  if marked && decide (n ≥ 64) then
    { c with win := pairSet c.win k (Nat.max 4 (w / 2)), replies := pairSet c.replies k 1 }
  else
    { c with win := if marked then c.win else pairSet c.win k (Nat.min 256 (w + 1))
             replies := pairSet c.replies k (n + 1) }

/-- Requests of engine transfers leave the coalescer, oldest first, as far as their cores' windows allow; in
allowance mode they all do (R311). -/
def State.coalesce (s : State) : State :=
  s.reqs.foldl (fun (s : State) r =>
    if r.waiting && (s.cong.mode != 1 || decide (s.outstanding r.cluster r.core < s.window r.cluster r.core)) then
      { s with reqs := s.reqs.map (fun (x : Req) => if x.id == r.id then { x with waiting := false } else x) }
    else s) s

/-- CROSSBAR_REPLY: in mark mode the oldest reply that has reached a core, if it bears the mark named or none as
named, adjusts the core's window (R311). -/
def execCrossbarReply (cluster core : Nat) (marked : Bool) (s : State) : Host.Outcome State Fault Refusal :=
  let k := cluster * 24 + core
  if s.cong.echo.find? (fun e => e.1 == k) = some (k, marked) then
    .next { s with cong := { (s.cong.reply k marked) with echo := s.cong.echo.erase (k, marked) } }.coalesce
  else .next s

/-- The replies of a clock adjust their cores' windows (R311). -/
def State.takeReplies (s : State) : State :=
  if s.cong.echo.isEmpty then s
  else { s with cong := { (s.cong.echo.foldl (fun (c : Congestion) e => c.reply e.1 e.2) s.cong) with echo := [] } }

end Sys2Proof.Machine
end

