-- ==== Sys2Proof/Machine/Tile.lean ====
section
/-! DEFINITION. Tile pools and handle queues (R352 to R368): allocation, limits, pushes with their
release, and pops. -/

namespace Sys2Proof.Machine

/-- Change the group's crew. -/
def State.modOwn (s : State) (g : Group) (f : Crew → Crew) : State := s.modCrew g.kid g.crew f

/-! ### Allocation (R359 to R363) -/

/-- The handle of a tile (R352). -/
def handleOf (gen pool index : Nat) : Word := BitVec.ofNat 32 (gen % 256 * 2 ^ 24 + pool % 256 * 2 ^ 16 + index % 65536)

/-- Take tile `i` of a pool with `n` reads owed. -/
def Crew.take (c : Crew) (pool i n : Nat) : Crew :=
  match c.part? pool with
  | none => c
  | some x =>
    let t := { x.tile i with st := .held, count := n, pend := 0 }
    c.setPart pool { (x.setTile i t) with heldn := x.heldn + 1 }

/-- The generation of a tile of the group's crew. -/
def State.tileGen (s : State) (g : Group) (pool i : Nat) : Nat :=
  match s.groupCrew g with
  | none => 0
  | some c => match c.part? pool with
    | some x => (x.tile i).gen
    | none => 0

/-- A `talloc` on a pool, of either form. -/
def Instr.tallocs (pool : Fin 16) : Instr → Bool
  | .talloc _ q _ _ | .tallocImm _ q _ _ => q == pool
  | _ => false

/-- Other paths of the crew, of lower lowest WID, that stand next to issue a `talloc` on the pool on this clock:
they are served before (R360) (log 58, DEDUCED). -/
def State.tallocAhead (s : State) (g : Group) (p : Path) (pool : Fin 16) : Nat :=
  let next := (List.range 24).flatMap (fun k => s.ranked g.id.cluster k [])
  (next.filter (fun x => x.1.kid == g.kid && x.1.crew == g.crew && !(x.2.park.any (fun k => (Park.grantOf pool.val k).isSome)) &&
    decide (x.1.lowWid x.2.mask < g.lowWid p.mask) && (match s.fetch x.1 x.2.pc.toNat with
      | .instr i => Instr.tallocs pool i
      | _ => false))).length

/-- Take tile `i` with `n` reads owed (R359). -/
def tallocTake (pool : Fin 16) (d : Fin 64) (n i : Nat) (s : State) (g : Group) : Res :=
  let h := handleOf (s.tileGen g pool.val i) pool.val i
  .done ((s.setGroup (g.setS d h)).modOwn g (fun c => c.take pool.val i n))

/-- The wait in `talloc` of a path: its reads, and the tile granted. -/
def Path.tallocWait (p : Path) (pool : Nat) : Option (Nat × Option Nat) :=
  match p.park with
  | some (.talloc q n tile) => if q = pool then some (n, tile) else none
  | _ => none

/-- `talloc` of `n` reads (R359, R360). The guard and the count are read once, before the wait. -/
def tallocBody (gd : Guard) (pool : Fin 16) (d : Fin 64) (n : Group → Path → Nat) (s : State) (g : Group) (p : Path) : Res :=
  match p.tallocWait pool.val with
  | some (n, some i) => tallocTake pool d n i s g
  | some (n, none) => .wait s (.talloc pool.val n none)
  | none =>
    if !g.guard gd then .done s
    else
      let n := n g p
      if n = 0 ∨ n > 255 then .trap .illegalOperand (lowLane p.mask) 0 0
      else match s.tallocTile g pool.val (s.tallocAhead g p pool) with
        | some i => tallocTake pool d n i s g
        | none => .wait s (.talloc pool.val n none)

/-- `talloc`, 64-bit form (R359). -/
def execTalloc (gd : Guard) (pool : Fin 16) (d b : Fin 64) (s : State) : Host.Outcome State Fault Refusal :=
  issue (.talloc gd pool d b) s (tallocBody gd pool d (fun g p => (g.rdS p b).toNat))

/-- `talloc`, 96-bit form (R359). -/
def execTallocImm (gd : Guard) (pool : Fin 16) (d : Fin 64) (n : BitVec 8) (s : State) :
    Host.Outcome State Fault Refusal :=
  issue (.tallocImm gd pool d n) s (tallocBody gd pool d (fun _ _ => n.toNat))

def TileState.num : TileState → Nat
  | .free => 0
  | .held => 1
  | .returning => 2

/-- What `tinfo` reads of a handle (R363). -/
def State.tileInfo (s : State) (g : Group) (h : Nat) : Word :=
  if !g.hdr.names h then 0xFFFFFFFF
  else match s.tile? g.kid g.crew h with
    | none => 0xFFFFFFFF
    | some t => BitVec.ofNat 32 (t.count % 256 + t.gen % 256 * 2 ^ 8 + t.st.num * 2 ^ 16 +
        bit01 (s.current g.hdr g.kid g.crew h) * 2 ^ 18)

/-- `tinfo` (R363). -/
def execTinfo (gd : Guard) (d a : Fin 64) (s : State) : Host.Outcome State Fault Refusal :=
  issue (.tinfo gd d a) s (fun s g p =>
    if !g.guard gd then .done s
    else .done (s.setGroup (g.setS d (s.tileInfo g (g.rdS p a).toNat))))

/-- `tpart` (R362). -/
def execTpart (gd : Guard) (pool : Fin 16) (d b : Fin 64) (s : State) : Host.Outcome State Fault Refusal :=
  issue (.tpart gd pool d b) s (fun s g p =>
    if !g.guard gd then .done s
    else
      let v := (g.rdS p b).toNat
      if v > g.hdr.tiles pool.val then .trap .poolPartition (lowLane p.mask) 0 0
      else
        let held := match s.groupCrew g with
          | none => 0
          | some c => match c.part? pool.val with
            | some x => x.heldn
            | none => 0
        let s := s.setGroup (g.setS d (BitVec.ofNat 32 held))
        .done (if v = 0 then s
          else s.modOwn g (fun c => match c.part? pool.val with
            | some x => c.setPart pool.val { x with lim := v }
            | none => c)))

/-! ### Pushes (R364, R365) -/

/-- The first check of a push that fails for a queue (R365). -/
def State.pushCheck (s : State) (g : Group) (h : Nat) (q : Nat) : Option Code :=
  if !s.current g.hdr g.kid g.crew h then some .tileStale
  else if g.hdr.hqs.getD q 0 != handlePool h then some .queueHandle
  else match s.groupCrew g with
    | none => some .queueHandle
    | some c => match c.hqs[q]? with
      | none => some .queueHandle
      | some x => if x.slots.length ≥ g.hdr.tiles (g.hdr.hqs.getD q 0) then some .queueHandle else none

/-- Reserve a tail slot of a queue. -/
def Crew.reserveSlot (c : Crew) (q : Nat) : Crew :=
  { c with hqs := c.hqs.modify q (fun x =>
      { x with slots := x.slots ++ [(x.pushed, none)], pushed := x.pushed + 1 }) }

/-- Set a reserved slot visible. -/
def Crew.showSlot (c : Crew) (h : Word) (place : Nat × Nat) : Crew :=
  { c with hqs := c.hqs.modify place.1 (fun x =>
      { x with slots := x.slots.map (fun (y : Nat × Option Word) => if y.1 == place.2 then (y.1, some h) else y) }) }

/-- Set every slot of a push visible (R95, R365). -/
def State.showSlots (s : State) (g : Group) (h : Word) (places : List (Nat × Nat)) : State :=
  places.foldl (fun (s : State) (x : Nat × Nat) => s.modOwn g (fun c => c.showSlot h x)) s

/-- Put a path of a group into a wait. -/
def State.parkOn (s : State) (i : GroupId) (path : Nat) (k : Park) : State :=
  s.modGroup i (fun g => match g.anyPath? path with
    | some p => g.setAnyPath { p with park := some k }
    | none => g)

/-- End a wait of a path. -/
def State.unpark (s : State) (i : GroupId) (path : Nat) : State :=
  s.modGroup i (fun g => match g.anyPath? path with
    | some p => g.setAnyPath { p with park := none }
    | none => g)

/-- Push a handle into queues: checks of each, a slot in each, and the release (R365). -/
def pushBody (h : Word) (qs : List Nat) (s : State) (g : Group) (p : Path) : Res :=
  match (qs.filterMap (fun q => s.pushCheck g h.toNat q)) with
  | c :: cs => .trap (if (c :: cs).contains .tileStale then .tileStale else c) (lowLane p.mask) 0 0
  | [] =>
    let places := match s.groupCrew g with
      | some c => qs.map (fun q => (q, match c.hqs[q]? with
        | some x => x.pushed
        | none => 0))
      | none => []
    let upTo := s.nextId
    let s := s.modOwn g (fun c => qs.foldl (fun c q => c.reserveSlot q) c)
    .after s (fun s g =>
      if s.released g .crew upTo then s.showSlots g h places
      else s.parkOn g.id p.id (.push upTo h places))

/-- `qpush` (R365). -/
def execQpush (gd : Guard) (q : Fin 16) (a : Fin 64) (s : State) : Host.Outcome State Fault Refusal :=
  issue (.qpush gd q a) s (fun s g p =>
    if !g.guard gd then .done s else pushBody (g.rdS p a) [q.val] s g p)

/-- `qmc` (R365). -/
def execQmc (gd : Guard) (a b : Fin 64) (s : State) : Host.Outcome State Fault Refusal :=
  issue (.qmc gd a b) s (fun s g p =>
    if !g.guard gd then .done s
    else
      let m := (g.rdS p b).toNat
      if m = 0 ∨ m ≥ 2 ^ g.hdr.hqs.length then .trap .illegalOperand (lowLane p.mask) 0 0
      else pushBody (g.rdS p a) ((List.range 16).filter (fun k => m.testBit k)) s g p)

/-- QPUSH_VISIBLE: the release of a push is complete (R365). -/
def execQpushVisible (i : GroupId) (path : Nat) (s : State) : Host.Outcome State Fault Refusal :=
  match s.stalledIn i path with
  | some (g, _, .push upTo h places) =>
    .next (if s.released g .crew upTo then (s.showSlots g h places).unpark i path else s)
  | _ => .next s

/-! ### Pops (R366) -/

/-- Remove the head slot of a queue. -/
def Crew.popSlot (c : Crew) (q : Nat) : Crew :=
  { c with hqs := c.hqs.modify q (fun x => { x with slots := x.slots.tail }) }

/-- `qpop` (R366). -/
def execQpop (gd : Guard) (q : Fin 16) (d : Fin 64) (s : State) : Host.Outcome State Fault Refusal :=
  issue (.qpop gd q d) s (fun s g p =>
    if !g.guard gd then .done s
    else match s.qpopHead g p q.val with
      | none => .wait s (.qpop q.val)
      | some h => .done ((s.setGroup (g.setS d h)).modOwn g (fun c => c.popSlot q.val)))

/-- `qtry` (R366). -/
def execQtry (gd : Guard) (q : Fin 16) (d : Fin 64) (c : Fin 8) (s : State) : Host.Outcome State Fault Refusal :=
  issue (.qtry gd q d c) s (fun s g p =>
    if !g.guard gd then .done s
    else
      let head := if (s.waiters g p (Park.isQpop q.val)).isEmpty then s.qpopHead g p q.val else none
      match head with
      | none => .done (s.setGroup (g.setQ c.val false))
      | some h => .done ((s.setGroup ((g.setS d h).setQ c.val true)).modOwn g (fun x => x.popSlot q.val)))

end Sys2Proof.Machine
end

