-- ==== Sys2Proof/Machine/Barrier.lean ====
section
/-! DEFINITION. The barrier instructions and the steps of the barrier store (R337 to R349). -/

namespace Sys2Proof.Machine

/-! ### Arrivals (R342) -/

/-- Entries changed by the arrivals of one instruction, and the arrival words to set. -/
structure Arrivals where
  entries : List (Option Nat × BarEntry)
  words : List (Nat × Bool)

/-- The entry of a team's barrier as the arrivals so far have left it. -/
def Arrivals.entry? (a : Arrivals) (c : Crew) (team : Option Nat) (b : Nat) : Option BarEntry :=
  match a.entries.find? (fun e => e.1 == team) with
  | some e => some e.2
  | none => c.bar? team b

/-- The barrier at which a thread arrives. -/
def barTeam (crewBar : Bool) (t : Thread) : Option Nat := if crewBar then none else some t.team

/-- Arrive for lanes in ascending order; the lowest lane that raises. -/
def State.arriveLanes (s : State) (g : Group) (c : Crew) (b : Nat) (crewBar : Bool) (cnt : Option Nat) :
    List Nat → Arrivals → Except Nat Arrivals
  | [], a => .ok a
  | l :: ls, a =>
    match g.thread? l with
    | none => State.arriveLanes s g c b crewBar cnt ls a
    | some t => match a.entry? c (barTeam crewBar t) b with
      | none => .error l
      | some e =>
        if s.pending c t crewBar b then .error l
        else match e.arrive cnt with
          | none => .error l
          | some e' => State.arriveLanes s g c b crewBar cnt ls
            { entries := upsert (fun x => x.1 == barTeam crewBar t) (barTeam crewBar t, e') a.entries
              words := a.words ++ [(c.arrivalKey t, e.phase)] }

/-- Apply the arrivals of an instruction of the path: all, or the trap of the lowest lane that raises
(R342). The second component says that it was applied. -/
def State.barApply (s : State) (g : Group) (p : Path) (pc : DWord) (b : Nat) (crewBar : Bool) (lanes : Mask)
    (cnt : Option Nat) : State × Bool :=
  match s.groupCrew g with
  | none => (s, true)
  | some c =>
    match s.arriveLanes g c b crewBar cnt (lanesOf lanes) { entries := [], words := [] } with
    | .error l =>
      let s := s.unpark g.id p.id
      match s.group? g.id with
      | some g => (s.trap g { path := some p.id, code := some .barrierCount, lane := l, kind := 2, detail := 0,
                              space := 0, va := 0, pc := pc, wid := none, order := none }, false)
      | none => (s, false)
    | .ok a =>
      let s := a.words.foldl (fun (s : State) (w : Nat × Bool) => s.setAph w.1 (aphBit crewBar b) w.2) s
      (a.entries.foldl (fun (s : State) (e : Option Nat × BarEntry) => s.barStep g.kid g.crew e.1 b e.2) s, true)

/-- After an applied arrival: `bar.arrive` continues, `bar.sync` waits while an arrival is pending. -/
def State.barGoOn (s : State) (i : GroupId) (p : Path) (b : Nat) (crewBar : Bool) (lanes : Mask) (sync : Bool) : State :=
  match s.group? i with
  | none => s
  | some g =>
    if !(sync && s.anyPending g lanes crewBar b) then s.unpark i p.id
    else if (g.path? p.id).isSome then (s.unpark i p.id).parkPath i p.id (.bar b crewBar lanes) true
    else s.parkOn i p.id (.bar b crewBar lanes)

/-- Scope of a barrier (R96). -/
def barScope (crewBar : Bool) : Scope := if crewBar then .crew else .team

/-- Release, then arrive, then wait under `sync` (R344, R347). -/
def barBody (f : BarForm) (sync : Bool) (s : State) (g : Group) (p : Path) : Res :=
  let act := g.active p f.gd
  if act = 0 then .done s
  else
    let cnt := f.cnt.map (fun r => (g.rdS p r).toNat)
    let upTo := s.nextId
    .after s (fun s g =>
      if s.released g (barScope f.crew) upTo then
        let (s, ok) := s.barApply g p p.pc f.b.val f.crew act cnt
        if ok then s.barGoOn g.id p f.b.val f.crew act sync else s
      else s.parkOn g.id p.id (.barArrive upTo f.b.val f.crew act cnt sync))

/-- `bar.arrive` (R344). -/
def execBarArrive (f : BarForm) (s : State) : Host.Outcome State Fault Refusal :=
  issue (.barArrive f) s (barBody f false)

/-- `bar.sync` (R347). -/
def execBarSync (f : BarForm) (s : State) : Host.Outcome State Fault Refusal :=
  issue (.barSync f) s (barBody f true)

/-- BAR_ARRIVAL_APPLY: a released arrival is applied at the barrier store, that of a path frozen in a handler frame
too (R342, R344); of a saved group it waits for resumption (R256, R350). -/
def execBarArrivalApply (i : GroupId) (path : Nat) (s : State) : Host.Outcome State Fault Refusal :=
  match s.stalledIn i path with
  | some (g, p, .barArrive upTo b crewBar lanes cnt sync) =>
    if !s.released g (barScope crewBar) upTo then .next s
    else
      let (s, ok) := s.barApply g p (p.pc - 8) b crewBar lanes cnt
      .next (if ok then s.barGoOn i p b crewBar lanes sync else s)
  | _ => .next s

/-- `bar.wait` (R345). -/
def execBarWait (f : BarWaitForm) (s : State) : Host.Outcome State Fault Refusal :=
  issue (.barWait f) s (fun s g p =>
    let act := g.active p f.gd
    if s.anyPending g act f.crew f.b.val then .wait s (.bar f.b.val f.crew act) else .done s)

/-! ### Remote arrivals (R346) -/

/-- `bar.arrive.rem`: the target is checked at issue; the arrival is sent after a device release, and counts on
path 1 until it is applied. -/
def execBarArriveRem (f : BarRemForm) (s : State) : Host.Outcome State Fault Refusal :=
  issue (.barArriveRem f) s (fun s g p =>
    let act := g.active p f.gd
    if act = 0 then .done s
    else
      let target := (g.rdS p f.crewReg).toNat
      let team := f.team.map (fun r => (g.rdS p r).toNat)
      let known := match s.crew? g.kid target with
        | none => false
        | some c => match team with
          | none => true
          | some t => decide (t < c.teams.length)
      if !known then .trap .barrierCount (lowLane act) 0 0
      else if g.full [1] then .hold 2 true
      else
        let o := s.newOp g p act (.barRemote target team f.b.val (g.rdS p f.cnt).toNat (lanesOf act).length) [] [1] []
        .done (s.startOp g o [] []))

/-- Arrive `n` times with an explicit count (R342, R346). -/
def BarEntry.arriveMany (e : BarEntry) (cnt : Nat) : Nat → Option BarEntry
  | 0 => some e
  | n + 1 => match e.arrive (some cnt) with
    | none => none
    | some e => e.arriveMany cnt n

/-- BAR_REMOTE_APPLY: once the release holds, the arrivals form one step at the target's store or
image (R346) (log 27, DEDUCED). -/
def execBarRemoteApply (op : Nat) (s : State) : Host.Outcome State Fault Refusal :=
  match s.op? op with
  | none => .next s
  | some o => match o.kind with
    | .barRemote crew team b cnt lanes =>
      let ready := match s.opGroup o with
        | some g => s.released g .device o.id
        | none => true
      if !ready then .next s
      else
        let s := s.endOp o
        match (s.crew? o.kid crew).bind (fun c => c.bar? team b) with
        | none => .next s
        | some e => match e.arriveMany cnt lanes with
          | some e => .next (s.barStep o.kid crew team b e)
          | none => .next (s.fatalCtx o.ctx .barrierCount o.kid)
    | _ => .next s

end Sys2Proof.Machine
end

