-- ==== Sys2Proof/Machine/Reorder.lean ====
section
/-! DEFINITION. Reorder (R317 to R335): arrival and binning, spill, the end of a dissolving group,
emission of rebuilt groups, and `rinfo`; and how a new group is made (R285, R299, R330). -/

namespace Sys2Proof.Machine

/-! ### New groups (R299, R145) -/

/-- A group as it stands when it is created, with zero registers and one path in slot 0. -/
def Group.start (id : GroupId) (ctx kid crew : Nat) (hdr : Header) (gval : Word) (age : Nat)
    (threads : List (Nat × Thread)) (pc : DWord) (stack : List DWord) : Group where
  id := id
  ctx := ctx
  kid := kid
  crew := crew
  hdr := hdr
  gval := gval
  age := age
  phase := .live
  before := .live
  stop := none
  threads := threads
  widLo := match leastBy (fun x => x) (threads.map (·.2.wid)) with
    | some w => w
    | none => 0
  v := []
  s := []
  p := []
  q := 0
  paths := [{ id := 0, pc := pc, mask := maskOf (threads.map (·.1)), stack := stack, place := .slot 0,
              dtime := 0, park := none, windows := [], failed := [], timedOut := false }]
  nextPath := 1
  cs := 0
  run := 0
  tokE := []
  tokW := []
  handler := 0
  trapinfo := 0
  frame := none
  flights := []
  fences := []
  twMax := 0
  scTime := none
  intReq := []
  intPend := []
  stall := []
  history := []
  episode := none
  issued := 0
  maxFrag := 0
  spills := 0
  discarded := 0
  rebuilt := false
  rkey := 0xFFFFFFFF
  rcount := BitVec.ofNat 32 threads.length
  rseq := 0xFFFFFFFF
  mark := none
  markWait := 0
  markFirst := none
  lastIssue := none
  trapping := none
  held := []
  vacant := [1]
  swapDue := false
  stalledAt := none
  savedLive := 0
  stepping := none
  passing := []
  stopping := none
  arrived := false
  rebind := []

/-- The lowest free slot of a core (R299). -/
def State.freeSlot (s : State) (cluster core : Nat) : Option Nat :=
  (List.range 64).find? (fun k => !(s.coreGroups cluster core).any (fun g => g.id.slot == k))

/-- A core has room for `n` groups of a header: slots and register file (R105). -/
def State.coreFits (s : State) (cluster core n : Nat) (hdr : Header) : Bool :=
  let gs := s.coreGroups cluster core
  decide (gs.length + n ≤ 64) &&
    decide (sumNat (gs.map (fun g => 128 * g.hdr.nv)) + n * 128 * hdr.nv ≤ 2 ^ 19)

/-- Take a slot: its GROUP value, and the raised creation count (R299). -/
def State.takeSlot (s : State) (i : GroupId) : State × Word :=
  let n := SMap.get 0 s.gcount i.num
  ({ s with gcount := SMap.set 0 s.gcount i.num ((n + 1) % 2 ^ 26) }, BitVec.ofNat 32 (i.slot + n * 64))

/-! ### Arrival (R321 to R323, R327, R328) -/

/-- Registers named by an octet mask. -/
def octetRegs (mask n : Nat) : List Nat :=
  ((List.range n).filter (fun k => mask.testBit k)).flatMap (fun k => (List.range 8).map (8 * k + ·))

/-- The group-wide payload: s62 and s63 are never part of it (R320). -/
def Group.payloadS (g : Group) (smask : Nat) : SMap Word :=
  ((octetRegs smask 8).filter (· < 62)).foldl (fun m r => SMap.set 0 m r (g.reg (192 + r) 0)) []

/-- The vector payload of a lane, by register. -/
def Group.payloadV (g : Group) (vmask lane : Nat) : SMap Word :=
  (octetRegs vmask 24).foldl (fun m r => SMap.set 0 m r (g.reg r lane)) []

/-- p0 to p6 of a lane. -/
def Group.lanePreds (g : Group) (lane : Nat) : Nat :=
  sumNat ((List.range 7).map (fun k => if (g.pred k).getLsbD lane then 2 ^ k else 0))

/-- What the arrival must agree in (R321). -/
def Group.refOf (g : Group) (p : Path) (f : ReorderForm) : RRef where
  pc := p.pc
  vmask := f.vmask.toNat
  smask := f.smask.toNat
  merge := f.merge
  stream := f.stream
  field := f.a.code
  s := g.payloadS f.smask.toNat
  handler := g.handler
  stack := p.stack

/-- Bytes of a record (R327). -/
def recordBytes (vmask : Nat) : Nat := 32 + 32 * popNat vmask 24

/-- Bytes of the last SRAM in use by a domain: references and records that have not spilled. -/
def Crew.lastUsed (c : Crew) : Nat :=
  sumNat (c.insts.map (fun i =>
    4096 + ((i.recs ++ i.ready.flatten).filter (fun r => !r.spilled)).length *
      (match i.ref with
      | some r => recordBytes r.vmask
      | none => 0)))

/-- A record's header (R327). -/
def Record.header (x : Record) : Nat :=
  let f := x.thread.src.toNat
  x.time * 2 ^ 64 + Nat.min 4 (x.intReq.length + x.intPend.length) * 2 ^ 133 + bits f 15 11 * 2 ^ 136 +
    bits f 10 6 * 2 ^ 141 + bits f 21 16 * 2 ^ 146 + bits f 4 0 * 2 ^ 152 + x.p * 2 ^ 157 + x.key * 2 ^ 164 +
    x.seq * 2 ^ 176 + x.thread.wid * 2 ^ 192

/-- A record as doublewords: header, then the payload octets. -/
def Record.words (x : Record) (vmask : Nat) : List Nat :=
  (List.range 4).map (fun k => bits x.header (64 * k + 63) (64 * k)) ++
  ((List.range 24).filter (fun k => vmask.testBit k)).flatMap (fun k => (List.range 4).map (fun j =>
    (SMap.get 0 x.v (8 * k + 2 * j)).toNat + (SMap.get 0 x.v (8 * k + 2 * j + 1)).toNat * 2 ^ 32))

/-- The number of a thread in its crew. -/
def Thread.number (t : Thread) (team : Nat) : Nat := t.team * team + t.home

/-- Where a record's doubleword spills: through the context's tables, or into the host's buffer (R328,
R329), but not onto live text (R126) (log 26, DESIGN CHOICE). -/
def State.spillKey (s : State) (ctx area rspill off : Nat) : Except Code Nat :=
  if (s.desc ctx).mode 66 then
    let pa := bits rspill 51 31 * 2 ^ 31 + area * 2 ^ 26 + off
    if !rspill.testBit 0 || pa + 8 > localEnd || s.marked pa 8 then .error .protection else .ok pa
  else match s.devXlate ctx .store ((s.desc ctx).spillva * 2 ^ 16 + area * 2 ^ 26 + off) 8 with
    | .error c => .error c
    | .ok t => match t.key? with
      | some k => .ok k
      | none => .error .protection

/-- Storage keys of successive doublewords of the spill area; the code of the first that fails with its
offset. -/
def State.spillKeys (s : State) (ctx area rspill off : Nat) : Nat → Except (Code × Nat) (List Nat)
  | 0 => .ok []
  | n + 1 => match s.spillKey ctx area rspill off, State.spillKeys s ctx area rspill (off + 8) n with
    | .error c, _ => .error (c, off)
    | .ok _, .error e => .error e
    | .ok k, .ok ks => .ok (k :: ks)

/-- One doubleword that a Lasting unit writes. -/
def State.spillPart (s : State) (ctx idx key w : Nat) : Part where
  lane := 0
  who := engineOwner ctx
  idx := idx
  path := 1
  key := key
  size := 8
  via := s.viaOf key
  b := w
  c := 0
  got := none
  fwdMask := 0
  fwd := 0
  done := false
  tw := 0
  sysDone := decide (bits key 51 49 = 0)
  stamp := 0

/-- The Lasting unit's earlier writes to these doublewords land first (R77) (log 26, DESIGN CHOICE). -/
def State.landSpills (s : State) (cluster : Nat) (keys : List Nat) : State :=
  keys.foldl (fun (s : State) k => s.pullBacks cluster 24 k 8) s

/-- Write a record to the spill area over the cluster's crossbar path (R25, R328): the Lasting unit's
requests stand beside those of the cores, as core 24. -/
def State.spillRecord (s : State) (g : Group) (area rspill off : Nat) (ws : List Nat) : Except (Code × Nat) State :=
  match s.spillKeys g.ctx area rspill off ws.length with
  | .error e => .error e
  | .ok ks =>
    let s := s.landSpills g.id.cluster ks
    let parts := (ks.zip ws).zipIdx.map (fun x => s.spillPart g.ctx x.2 x.1.1 x.1.2)
    let o : Op := {
      id := s.nextId
      ctx := g.ctx
      gid := { cluster := g.id.cluster, core := 24, slot := 0 }
      gval := 0
      kid := g.kid
      crew := g.crew
      wid := 0
      pc := 0
      kind := .writeback
      parts := parts
      paths := []
      admitted := []
      after := s.nextId
      tw := 0 }
    .ok (s.startOp g o (parts.map (fun _ => 0)) [])

/-- Writes of spilled records land before the records are read back. -/
def State.landRecords (s : State) (cluster ctx area rspill vmask team : Nat) (xs : List Record) : State :=
  xs.foldl (fun (s : State) x =>
    if x.spilled then
      match s.spillKeys ctx area rspill (8192 + x.thread.number team * recordBytes vmask) (recordBytes vmask / 8) with
      | .ok ks => s.landSpills cluster ks
      | .error _ => s
    else s) s

/-- A spilled record is read back at emission: its payload octets and predicates, from its area (R328). -/
def State.readBack (s : State) (ctx area rspill vmask team : Nat) (x : Record) : Record :=
  let base := 8192 + x.thread.number team * recordBytes vmask
  let word := fun (off : Nat) => match s.spillKey ctx area rspill (base + off / 8 * 8) with
    | .ok k => some (s.read (k + off % 8) 4)
    | .error _ => none
  if !x.spilled then x
  else
    let octets := (List.range 24).filter (fun k => vmask.testBit k)
    let v := octets.zipIdx.foldl (fun (m : SMap Word) o => (List.range 8).foldl (fun (m : SMap Word) j =>
      match word (32 + 32 * o.2 + 4 * j) with
      | some w => SMap.set 0 m (8 * o.1 + j) (BitVec.ofNat 32 w)
      | none => m) m) x.v
    { x with v := v, p := match word 16 with
      | some w => bits w 35 29 + (match word 20 with
        | some h => h % 16 * 8
        | none => 0)
      | none => x.p }

/-- The record of a lane at its arrival. -/
def Group.recordOf (g : Group) (f : ReorderForm) (seq time lane : Nat) (t : Thread) (i : RInst) : Record :=
  let key := (g.reg f.a.code lane).toNat
  let from_ := lane + g.id.core * 2 ^ 6 + g.id.cluster * 2 ^ 11 + g.id.slot * 2 ^ 16
  { thread := { t with
      tkey := BitVec.ofNat 32 key
      src := BitVec.ofNat 32 from_
      rank := BitVec.ofNat 32 (SMap.get 0 i.counts key)
      arrivals := t.arrivals + 1 }
    key := key
    seq := seq
    time := time
    v := g.payloadV f.vmask.toNat lane
    p := g.lanePreds lane
    intReq := []
    intPend := []
    spilled := false }

/-- Binning in progress: the state, the instance, and whether a spill failed. -/
structure Binning where
  s : State
  inst : RInst
  fail : Option (Code × Nat)

/-- Bin one thread: in the last SRAM if it fits, else spilled (R327, R328). -/
def Binning.add (x : Binning) (g : Group) (f : ReorderForm) (c : Crew) (others : Nat) (carry : Bool) (lane : Nat)
    (t : Thread) : Binning :=
  if x.fail.isSome then x
  else
    let i := x.inst
    let r := g.recordOf f i.nextSeq x.s.time lane t i
    let r := if carry then { r with intReq := g.intReq, intPend := g.intPend } else r
    let n := recordBytes f.vmask.toNat
    let used := others + 4096 + (((i.recs ++ i.ready.flatten).filter (fun y => !y.spilled)).length + 1) * n
    let grow := fun (i : RInst) (r : Record) => { i with
      recs := i.recs ++ [r]
      nextSeq := i.nextSeq + 1
      counts := SMap.set 0 i.counts r.key (SMap.get 0 i.counts r.key + 1) }
    if used ≤ 3145728 then { x with inst := grow i r }
    else
      match x.s.spillRecord g c.spillArea i.rspill (8192 + t.number g.hdr.team * n) (r.words f.vmask.toNat) with
      | .error e => { x with fail := some e }
      | .ok s => { x with s := s, inst := grow { i with spilled := i.spilled + 1 } { r with spilled := true } }

/-- Instances of a crew with the one of number `k` (0 emitting, 1 next) present. -/
def ensureInst (rspill k : Nat) (l : List RInst) : List RInst :=
  l ++ (List.range (k + 1 - l.length)).map (fun _ => RInst.start rspill)

/-- The path's threads by ascending WID, with their lanes. -/
def Group.byWid (g : Group) (p : Path) : List (Nat × Thread) :=
  sortBy (fun x => x.2.wid) ((lanesOf p.mask).filterMap (fun l => (g.thread? l).map (fun t => (l, t))))

/-- A spill that fails: in host-assisted page-fault mode the arrival waits for the host and is then made again, else
it traps (R328). The records of the path that were written before it stay written, and nothing of it is binned. -/
def State.spillFault (s : State) (g : Group) (p : Path) (area : Nat) (c : Code) (off : Nat) : Res :=
  let va := (s.desc g.ctx).spillva * 2 ^ 16 + area * 2 ^ 26 + off
  if (s.desc g.ctx).mode 66 then .trap c (lowLane p.mask) 0 0
  else if c == .pageFault && (s.desc g.ctx).mode 64 && !p.failed.any (fun f => f.1 == pageOf va && f.2.2) then
    let level := match s.walk g.ctx va with
      | .error l => l
      | .ok _ => 0
    .wait (s.modGroup g.id (fun g => g.setPath { p with
      failed := p.failed.filter (fun f => f.1 != pageOf va) ++ [(pageOf va, level, false)] }))
      (.hostFault [(pageOf va, level, 1)] [pageOf va] s.time)
  else .trap c (lowLane p.mask) 0 va

/-- The arrival has been binned: the path ceases to exist (R321). -/
def State.arriveEnd (s : State) (g : Group) (p : Path) (f : ReorderForm) (c : Crew) (k : Nat) (inst : RInst) : State :=
  let ts := (g.byWid p).map (·.2)
  let inst := if f.stream then inst.form inst.recs.length else inst
  let s := s.modOwn g (fun x => { x with insts := (ensureInst inst.rspill k x.insts).set k inst })
  let s := ts.foldl (fun (s : State) (t : Thread) => s.dropOwner (.thread g.ctx t.wid)) s
  let s := s.returnPrivate g.ctx c g.hdr.privw ts
  let s := s.sched g 12 p.mask p.pc (g.reg f.a.code (lowLane p.mask)).toNat
  let last := g.live == p.mask
  let s := s.modGroup g.id (fun g =>
    let g := (g.lessLanes p.mask)
    { g with
      arrived := true
      intReq := if last then [] else g.intReq
      intPend := if last then [] else g.intPend
      phase := if last then .dissolving else g.phase })
  let s := if last then s.dropResv g else s
  (s.fuseAll g.id).reorderCheck g.kid g.crew 3

/-- Bin a path whose accesses have drained (R321). Its traps are those of R322 and R328 (log 25, DEDUCED). -/
def State.arrive (s : State) (g : Group) (p : Path) (f : ReorderForm) : Res :=
  match s.groupCrew g with
  | none => .done s
  | some c =>
    let k := match g.byWid p with
      | (_, t) :: _ => t.arrivals - c.instDone
      | [] => 0
    let rspill := match s.ctx? g.ctx with
      | some x => x.rspill
      | none => 0
    let insts := ensureInst rspill k c.insts
    match insts[k]? with
    | none => .done s
    | some i =>
      let ref := g.refOf p f
      if i.ref.any (· != ref) then .trap .reorderNonuniform (lowLane p.mask) 0 0
      else
        let others := { c with insts := insts.eraseIdx k }.lastUsed
        let last := g.live == p.mask
        let x := (g.byWid p).zipIdx.foldl (fun (x : Binning) (y : (Nat × Thread) × Nat) =>
            x.add g f c others (last && y.2 == 0) y.1.1 y.1.2)
          { s := s, inst := { i with ref := some ref }, fail := none }
        match x.fail with
        | some (code, off) => x.s.spillFault g p c.spillArea code off
        | none => .placed (x.s.arriveEnd g p f c k x.inst)

/-- The path has made the checks of its `reorder` and waits. -/
def Path.inReorder (p : Path) : Bool := p.park.any (fun k => match k with
  | .reorder _ => true
  | _ => false)

/-- `reorder` past its checks: the path arrives once its group's accesses have drained (R321). It may arrive after a
pre-emption has been requested, until its group is saved (log 72, DESIGN CHOICE). -/
def reorderArrival (f : ReorderForm) (s : State) (g : Group) (p : Path) : Res :=
  if s.drained g then s.arrive g p f else .wait s (.reorder f)

/-- `reorder` (R319 to R321): the checks, once, then the wait for the group's accesses, then the arrival. A tile
that `mrel` has named and the engine still holds is bound (log 71, DESIGN CHOICE). -/
def execReorder (f : ReorderForm) (s : State) : Host.Outcome State Fault Refusal :=
  issue (.reorder f) s (fun s g p =>
    if p.inReorder then reorderArrival f s g p
    else
      let tiles := (s.engine g.engineNum).tiles.filter (fun t => t.owner == g.id)
      let outside := (lanesOf p.mask).filter (fun l => decide ((g.rd p f.a.code l).toNat ≥ g.hdr.keys))
      if g.frame.isSome then .trap .illegalConvergence (lowLane p.mask) 0 0
      else if !tiles.isEmpty then .trap .matrixReservation (lowLane p.mask) 0 0
      else match outside with
        | l :: _ => .trap .reorderKeyRange l 0 0
        | [] => reorderArrival f s g p)

/-- REORDER_ARRIVE: a path that waits in `reorder`, whose group's counters have drained and from which its core
issues next, arrives, which is its issue (R306, R321). -/
def execReorderArrive (i : GroupId) (path : Nat) (s : State) : Host.Outcome State Fault Refusal :=
  match ((s.group? i).bind (fun g => g.path? path)).bind (·.park) with
  | some (.reorder f) =>
    if s.isNext i path && (s.group? i).any s.drained then execReorder f { s with issuer := some (i, path) } else .next s
  | _ => .next s

/-- DISSOLVE_END: the Lasting unit holds every payload; the group ends (R298, R315). -/
def execDissolveEnd (i : GroupId) (s : State) : Host.Outcome State Fault Refusal :=
  match s.group? i with
  | none => .next s
  | some g =>
    if g.phase != .dissolving then .next s
    else .next ((s.exitRecord g true false).removeGroup g)

/-! ### Emission (R324 to R326, R330) -/

/-- The core that receives the next rebuilt group: free, with the fewest groups of the kernel (R326). -/
def State.emitCore (s : State) (c : Crew) (hdr : Header) : Option Nat :=
  leastBy (fun k => ((s.coreGroups c.cluster k).filter (fun g => g.kid == c.kid)).length)
    ((List.range 24).filter (fun k => s.coreFits c.cluster k 1 hdr))

/-- Vector registers of a rebuilt group. -/
def setVectors (recs : List (Nat × Record)) : SMap Word :=
  recs.foldl (fun m x => x.2.v.foldl (fun m (e : Nat × Word) => SMap.set 0 m (32 * e.1 + x.1) e.2) m) []

/-- Lane predicates of a rebuilt group. -/
def setPredicates (recs : List (Nat × Record)) : SMap Mask :=
  (List.range 7).foldl (fun m k => SMap.set 0 m k
    (maskOf ((recs.filter (fun x => x.2.p.testBit k)).map (·.1)))) []

/-- The rebuilt group of a set of records (R330). As after a `fence.sc`, no copy that stood on its core before serves
its loads, so that they see what its threads have seen (R77, R94) (log 75, DEDUCED). -/
def rebuild (id : GroupId) (ctx : Nat) (c : Crew) (hdr : Header) (gval : Word) (time order : Nat) (r : RRef) (seq : Nat)
    (set : List Record) : Group :=
  let recs := set.zipIdx.map (fun x => (x.2, x.1))
  let keys := set.foldl (fun acc x => addNew x.key acc) []
  let key : Word := match keys with
    | [k] => BitVec.ofNat 32 k
    | _ => 0xFFFF
  let g := Group.start id ctx c.kid c.crew hdr gval time (recs.map (fun x => (x.1, x.2.thread))) (r.pc + 12) r.stack
  let sregs := SMap.set 0 (SMap.set 0 r.s 62 key) 63 (BitVec.ofNat 32 set.length)
  { g with
    v := setVectors recs
    s := sregs
    p := setPredicates recs
    handler := r.handler
    scTime := some (time, order)
    rebuilt := true
    rkey := key
    rseq := BitVec.ofNat 32 seq
    intReq := set.flatMap (·.intReq)
    intPend := set.flatMap (·.intPend) }

/-- The cells of requested interrupts name the rebuilt group (R219). -/
def State.rearm (s : State) (g : Group) : State :=
  g.intReq.foldl (fun (s : State) (r : CellRef) =>
    let c := s.cell r
    if c.arm then s.setCell r { c with armCore := g.id.core, armSlot := g.id.slot } else s) s

/-- What a crew's reorder still awaits before an emission: private write-backs of its kernel on the cluster (R62,
R94), and the end of groups that dissolve, whose slots the emission may take (R442) (log 74, DEDUCED). -/
def State.settling (s : State) (c : Crew) : Bool :=
  s.ops.any (fun o => o.ofCore && o.kid == c.kid && o.gid.cluster == c.cluster) ||
  (s.crewGroups c.kid c.crew).any (fun g => g.phase == .dissolving)

/-- REORDER_EMIT: the Lasting unit places the next rebuilt group of a crew (R326). -/
def execReorderEmit (kid crew : Nat) (s : State) : Host.Outcome State Fault Refusal :=
  match s.crew? kid crew, s.launch? kid with
  | some c, some l =>
    match c.insts with
    | i :: rest =>
      match i.ready, i.ref, s.emitCore c l.hdr with
      | set :: sets, some r, some core =>
        if s.preempting l.ctx || c.image.isSome || s.settling c then .next s
        else match s.freeSlot c.cluster core with
          | none => .next s
          | some slot =>
            let id : GroupId := { cluster := c.cluster, core := core, slot := slot }
            let (s, gval) := s.takeSlot id
            let s := s.landRecords c.cluster l.ctx c.spillArea i.rspill r.vmask l.hdr.team set
            let set := set.map (s.readBack l.ctx c.spillArea i.rspill r.vmask l.hdr.team)
            let g := rebuild id l.ctx c l.hdr gval s.time s.nextId r i.emitted set
            let s := (s.addGroup g).rearm g
            let s := g.paths.foldl (fun (s : State) p => s.keepDeep g p) s
            let keys := sortBy (fun k => k) (set.map (·.key))
            let mixed := (set.foldl (fun acc x => addNew x.key acc) []).length != 1
            let s := s.sched g (if mixed then 15 else 13) g.live (r.pc + 12) (keys.headD 0)
            let s := s.modCrew kid crew (fun c => { c with
              insts := { i with ready := sets, emitted := i.emitted + 1 } :: rest })
            .next (s.reorderCheck kid crew 3)
      | _, _, _ => .next s
    | [] => .next s
  | _, _ => .next s

/-! ### rinfo (R335) -/

/-- The value of an `rinfo` selector for a lane. -/
def State.rinfo (s : State) (g : Group) (sel : RSel) (lane : Nat) : Word :=
  let lane32 := fun (f : Thread → Word) => match g.thread? lane with
    | some t => if t.arrivals = 0 then 0xFFFFFFFF else f t
    | none => 0xFFFFFFFF
  match sel with
  | .key => g.rkey
  | .count => g.rcount
  | .seq => g.rseq
  | .inst => match s.groupCrew g with
    | some c => BitVec.ofNat 32 c.instDone
    | none => 0
  | .spill => match s.groupCrew g with
    | some c => BitVec.ofNat 32 c.lastSpill
    | none => 0
  | .tkey => lane32 (·.tkey)
  | .from => lane32 (·.src)
  | .rank => lane32 (·.rank)

/-- `rinfo` (R335). -/
def execRinfo (f : RinfoForm) (s : State) : Host.Outcome State Fault Refusal :=
  issue (.rinfo f) s (fun s g p =>
    .done (s.setGroup (g.setLanes 1 f.d (g.acting p f.g f.gd) (fun l => (s.rinfo g f.sel l).zeroExtend 64))))

end Sys2Proof.Machine
end

