-- ==== Sys2Proof/Machine/Group.lean ====
section
/-! DEFINITION. The life of a group between instructions: slots and fragments (R300 to R304), progress
(R312), stall counters (R314), and the end of a draining group (R298, R315). -/

namespace Sys2Proof.Machine

/-! ### Slots and fragments (R301 to R303) -/

/-- The slots and the queue move: the group runs, and no trap freezes them (R316). -/
def Group.moving (g : Group) : Bool := g.phase == .live && g.trapping.isNone

/-- Fragments that may enter a slot: in the split table, and not parked in a wait that goes on. -/
def State.readyFragments (s : State) (g : Group) : List Path :=
  g.fragments.filter (fun p => p.inTable && !s.waits g p)

/-- A free slot takes the ready fragment of lowest WID, which keeps its record number (R302, R305). The slot is
not filled again on this clock. -/
def State.fillSlot (s : State) (g : Group) (n : Fin 2) : State :=
  if !g.moving || (g.slotPath? n).isSome then s
  else match leastBy (fun (p : Path) => g.lowWid p.mask) (s.readyFragments g) with
    | some p =>
      let p := { p with place := .slot n, kept := p.record? }
      (s.setGroup { g.setPath p with vacant := g.vacant.filter (· != n) }).keepDeep g p
    | none => s

/-- FRAGMENT_SLOT_FILL: a slot that stood free when the clock began is filled (R302, R304). -/
def execFragmentSlotFill (i : GroupId) (slot : Fin 2) (s : State) : Host.Outcome State Fault Refusal :=
  match s.group? i with
  | none => .next s
  | some g => .next (if g.vacant.contains slot then s.fillSlot g slot else s)

/-- Bring a spilled path back into the table. -/
def Path.unspill (p : Path) : Path :=
  match p.place with
  | .queued r _ => { p with place := .queued r false }
  | _ => p

/-- A split-table entry is free, and the core's oldest spilled fragment takes it (R301). -/
def State.unspillOne (s : State) (cluster core : Nat) : State :=
  if s.splitUsed cluster core ≥ 64 then s
  else match leastBy (fun (x : Group × Path) => x.2.dtime) (s.spilledOn cluster core) with
    | some (g, p) => (s.setGroup (g.setAnyPath p.unspill)).keepDeep g p.unspill
    | none => s

/-- FRAGMENT_UNSPILL (R301). -/
def execFragmentUnspill (cluster core : Nat) (s : State) : Host.Outcome State Fault Refusal :=
  .next (s.unspillOne cluster core)

/-- Every free entry of every core takes a spilled fragment, while there are both. -/
def State.unspillAll (s : State) : State :=
  s.groups.foldl (fun (s : State) g => (g.allPaths.filter Path.spilledFrag).foldl (fun (s : State) _ =>
    s.unspillOne g.id.cluster g.id.core) s) s

/-! ### Eligible slots (R300) and the swap of R303 -/

/-- The run of R300 ends: its slot has issued 64 times, or is not eligible. A run that ended with the last issue
has left `swapDue`. -/
def State.runOver (s : State) (g : Group) : Bool :=
  g.swapDue || decide (g.run ≥ 64) || (match g.slotPath? g.cs with
    | some p => !s.slotReady g p
    | none => true)

/-- The path that gives up its slot when the lowest live WID lies in a ready fragment (R303). -/
def State.swapOut (s : State) (g : Group) : Option Path :=
  match g.slotPath? 0, g.slotPath? 1 with
  | some a, some b =>
    if g.moving && (s.readyFragments g).any (fun p => g.lowWid p.mask == g.lowWid g.live) then
      some (if g.lowWid a.mask ≥ g.lowWid b.mask then a else b)
    else none
  | _, _ => none

/-- The swap of R303: once the current run has ended, the path gives up its slot at the first issue boundary at
which it holds no window; the free slot then takes the fragment (R302). -/
def State.swapStep (s : State) (g : Group) : State :=
  match s.swapOut g with
  | none => if g.swapDue then s.setGroup { g with swapDue := false } else s
  | some out =>
    if !s.runOver g then s
    else if out.windows.isEmpty then
      let (s, out) := s.queuePath { g with swapDue := false } out
      s.modGroup g.id (fun g => (g.setPath out).noteFrag)
    else if g.swapDue then s else s.setGroup { g with swapDue := true }

/-- PATH_SWAP: the swap of R303, where it is due. -/
def execPathSwap (i : GroupId) (s : State) : Host.Outcome State Fault Refusal :=
  match s.group? i with
  | none => .next s
  | some g => .next (s.swapStep g)

/-! ### The end of a group -/

/-- Counters of paths 0 to 4, 6 and 7 are zero, no matrix instruction is left, and no fault mark waits
for its trap (R298, R227). -/
def State.ended (s : State) (g : Group) : Bool :=
  g.phase == .draining && g.trapping.isNone && g.flights.all (fun f => f.path == 5) &&
    !(s.engine g.engineNum).entries.any (fun x => x.gid == g.id) && (s.marks g).isEmpty

/-- GROUP_END: a draining group ends: its tiles are unbound, its exit record is written and its slot is
free (R227, R298, R315). -/
def execGroupEnd (i : GroupId) (s : State) : Host.Outcome State Fault Refusal :=
  match s.group? i with
  | none => .next s
  | some g =>
    if !s.ended g then .next s
    else
      let e := s.engine g.engineNum
      let s := if e.tiles.any (fun t => t.owner == i) then
          s.setEngine g.engineNum { e with tiles := e.tiles.filter (fun t => t.owner != i) }
        else s
      .next ((s.exitRecord g false false).removeGroup g)

/-! ### Progress (R312) -/

/-- A path whose threads are runnable: not halted, and in no wait whose condition is unmet. -/
def State.runnable (s : State) (g : Group) (p : Path) : Bool :=
  g.phase == .live && !(match p.park with
    | some (.yield _) => false
    | some k => !s.waitOver g p k
    | none => false)

/-- Lowest WIDs of the runnable paths of a kernel, with their groups. -/
def State.runnables (s : State) (kid : Nat) : List (Nat × GroupId × Nat) :=
  (s.groups.filter (fun g => g.kid == kid)).flatMap (fun g =>
    (g.paths.filter (s.runnable g)).map (fun p => (g.lowWid p.mask, g.id, p.id)))

/-- The group and path that carry the kernel's progress mark. -/
def State.progressMark (s : State) (kid : Nat) : Option (GroupId × Nat) :=
  (leastBy (fun (x : Nat × GroupId × Nat) => x.1) (s.runnables kid)).map (·.2)

/-- The mark's holder, when it is this thread's group, or no longer. -/
def Group.takeMark (g : Group) (wid time : Nat) : Group :=
  match g.mark with
  | some (w, t) => if w = wid then g else { g with mark := some (wid, t), markWait := 0, markFirst := none }
  | none => { g with mark := some (wid, time), markWait := 0, markFirst := none }

def Group.dropMark (g : Group) : Group := { g with mark := none, markWait := 0, markFirst := none }

/-- The marks move with the clock: in each kernel of a RESIDENT context, to the group of the runnable
thread of lowest WID (R312). -/
def State.moveMarks (s : State) : State :=
  let mark := fun (g : Group) => leastBy (fun (x : Nat × GroupId × Nat) => x.1) (s.runnables g.kid)
  { s with groups := s.groups.map (fun (g : Group) =>
      if !(s.ctx? g.ctx).any (fun c => c.st == .resident) then g
      else match mark g with
        | some (w, i, _) => if i = g.id then g.takeMark w s.time else if g.mark.isSome then g.dropMark else g
        | none => if g.mark.isSome then g.dropMark else g) }

/-- The marked thread's slot has been eligible on 256 clocks without issuing: its group ranks first, in the
order in which the marks were received (R306, R312). -/
def Group.rankFirst (g : Group) : Group :=
  match g.mark with
  | some (_, t) => if g.markFirst.isNone && decide (g.markWait ≥ 256) then { g with markFirst := some t } else g
  | none => g

/-- PROGRESS_MARK_FIRST (R312). -/
def execProgressMarkFirst (i : GroupId) (s : State) : Host.Outcome State Fault Refusal :=
  match s.group? i with
  | none => .next s
  | some g => .next (s.setGroup g.rankFirst)

/-! ### Stall counters (R314) -/

/-- The path is in a `yield` (R158). -/
def Path.yields (p : Path) : Bool := p.park.any (fun k => match k with
  | .yield _ => true
  | _ => false)

/-- Why a slot's path does not issue on this clock, and whether the wait is a memory one (R310). 13
stands for a path that was eligible, or in a `yield`. -/
def State.slotReason (s : State) (g : Group) (p : Path) : Nat × Bool :=
  match p.park with
  | some k =>
    if s.waitOver g p k then (s.heldBack g p).getD (s.issueReason g p)
    else (k.reason, k.reason == 2 || k.reason == 3)
  | none => (s.heldBack g p).getD (s.issueReason g p)

/-- The slot's path was eligible on this clock, whatever kept it from issuing (R306, R314). -/
def State.wasEligible (s : State) (g : Group) (p : Path) : Bool :=
  !s.waits g p && [9, 10, 13].contains (s.slotReason g p).1

/-- The first of some reasons that the slots give. -/
def firstReason (order : List Nat) (rs : List (Nat × Bool)) : Option (Nat × Bool) :=
  order.findSome? (fun n => rs.find? (fun r => r.1 == n))

/-- Every fragment is parked at a receive (R151). -/
def Group.allReceive (g : Group) : Bool :=
  g.fragments.all (fun p => p.park.any (fun k => match k with
    | .rcv _ => true
    | _ => false))

/-- The reason that a group counts on a clock on which it does not issue (R314). With no path in a slot it is 0
while a fragment is queued, but 12 where every fragment is parked at `rcv`, which counts 12 until its fusion
(R151) (log 52, DEDUCED). A group that rebinds its tiles waits in R221's table (R247). -/
def State.stallReason (s : State) (g : Group) : Nat × Bool :=
  if g.phase == .halted then (15, false)
  else if g.trapping.isSome || g.vectorDue then (14, false)
  else if g.phase == .draining then (2, true)
  else if g.phase == .dissolving then (11, false)
  else if !g.rebind.isEmpty then (7, false)
  else if s.hostHeld g then (15, false)
  else
    let rs := ([0, 1].filterMap (fun (n : Fin 2) => g.slotPath? n)).map (s.slotReason g)
    match rs with
    | [] => if g.allReceive then (12, false) else (0, false)
    | rs =>
      let rs := if g.arrived then rs ++ [(11, false)] else rs
      match firstReason [13, 10, 9, 1, 2, 3, 7, 8, 0, 5, 6, 4, 11, 12, 15] rs with
      | some r => r
      | none => (15, false)

/-- Count a clock without an issue: one counter, and the open episode. -/
def State.stallOne (s : State) (i : GroupId) : State :=
  match s.group? i with
  | none => s
  | some g =>
    if g.phase == .saved || g.lastIssue == some s.clock || g.stalledAt == some s.clock then s
    else
      let (r, m) := s.stallReason g
      let n := SMap.get 0 g.stall r
      s.setGroup { g with
        stall := SMap.set 0 g.stall r (if n = 0xFFFFFFFF then n else n + 1)
        episode := some (r, m)
        stalledAt := some s.clock }

/-- The slot that holds the marked thread was eligible on this clock and did not issue (R312). -/
def State.markStalled (s : State) (g : Group) : Bool :=
  g.phase == .live && [0, 1].any (fun (n : Fin 2) => match g.slotPath? n with
    | some p => g.markedPath p && s.wasEligible g p && !(g.lastIssue == some s.clock && g.cs == n)
    | none => false)

/-- Count such a clock. -/
def State.countMark (s : State) (g : Group) : State :=
  if s.markStalled g then s.setGroup { g with markWait := g.markWait + 1 } else s

/-- STALL_CLOCK: the group issues nothing on this clock (R314). -/
def execStallClock (i : GroupId) (s : State) : Host.Outcome State Fault Refusal := .next (s.stallOne i)

/-- YIELD_EXPIRE: the clock has come from which the path of the `yield` is eligible again (R158). -/
def execYieldExpire (i : GroupId) (path : Nat) (s : State) : Host.Outcome State Fault Refusal :=
  match s.group? i with
  | none => .next s
  | some g => match g.path? path with
    | none => .next s
    | some p => match p.park with
      | some (.yield n) => if s.clock ≥ n then .next (s.setGroup (g.setPath { p with park := none })) else .next s
      | _ => .next s

end Sys2Proof.Machine
end

