-- ==== Sys2Proof/Machine/Queue.lean ====
section
/-! DEFINITION. Queues (R266 to R279): kicks, packets and their seals, the dispatcher's readiness
rules, completion, timelines, and the header checks of R280 to R283 and R289 to R291. -/

namespace Sys2Proof.Machine

/-! ### Context status -/

/-- A context table entry of a number never used. -/
def Ctx.blank (n : Nat) : Ctx where
  num := n
  st := .free
  err := false
  lastcode := 0
  desc := .none
  xbase := 0
  wins := []
  queues := []
  preempt := none
  saveTime := 0
  sliceStart := 0
  timeSaved := false
  killTw := 0
  faultKid := none
  watchStart := none
  fabjob := 0
  rspill := 0
  trace := { trcbase := 0, trchead := 0, rplctl := 0, rplbase := 0, lastCkpt := 0, ckpt := false, log := [] }
  debug := false
  bp := 0
  dispatchWait := []
  msgImage := []

/-- The table entry of a context. -/
def State.ctxOf (s : State) (c : Nat) : Ctx :=
  match s.ctx? c with
  | some x => x
  | none => .blank c

def State.putCtx (s : State) (c : Nat) (f : Ctx → Ctx) : State := s.setCtx (f (s.ctxOf c))

/-- Set ERR in CTXSTAT (R253) (log 30, DEDUCED). -/
def State.err (s : State) (c : Nat) : State := if c < 256 then s.putCtx c (fun x => { x with err := true }) else s

/-- Append to a context's log. -/
def State.addLog (s : State) (c src : Nat) (item : List Nat) : State :=
  s.modCtx c (fun x => { x with trace := { x.trace with log := x.trace.log ++ [(src, item)] } })

/-- Sources: slices 0 to 95, ingress controllers 96, the adapter 97, clusters, cores, the dispatcher. -/
def srcCluster (c : Nat) : Nat := 100 + c
def srcCore (cluster core : Nat) : Nat := 200 + 24 * cluster + core
def srcDispatch : Nat := 1000

/-! ### Queues (R268) -/

/-- A queue that has never been enabled: the spec gives its registers no value, and QRD reads 1, as after an
ENABLE (log 5, DESIGN CHOICE). -/
def Queue.off : Queue where
  st := .disabled
  before := .idle
  logn := 4
  base := 0
  drop := false
  k := 0
  qrd := 1
  code := 0
  misses := 0
  reread := none

def Ctx.queue (c : Ctx) (q : Nat) : Queue :=
  match c.queues.find? (fun x => x.1 == q) with
  | some x => x.2
  | none => .off

def Ctx.setQueue (c : Ctx) (q : Nat) (x : Queue) : Ctx :=
  { c with queues := upsert (fun y => y.1 == q) (q, x) c.queues }

def State.queue (s : State) (c q : Nat) : Queue := (s.ctxOf c).queue q

def State.setQueueOf (s : State) (c q : Nat) (x : Queue) : State := s.modCtx c (fun y => y.setQueue q x)

/-- The context runs: its queues may read and dispatch. -/
def State.running (s : State) (c : Nat) : Bool :=
  match s.ctx? c with
  | some x => (x.st == .idle || x.st == .resident) && x.preempt.isNone
  | none => false

/-- A queue stops, and the host is interrupted (R268). -/
def State.stopQueue (s : State) (c q : Nat) (x : Queue) (code : Code) : State :=
  (s.setQueueOf c q { x with code := code.num, reread := none, st := .stopped }).cause 0

/-- A write of `v` to KICK (R267, R270). A HELD or STOPPED queue only records it (R268). -/
def State.kick (s : State) (c q v : Nat) : State :=
  let x := s.ctxOf c
  if x.st == .free || q ≥ x.desc.nq then s.err c
  else if x.st == .killing || x.st == .killed then s
  else
    let y := x.queue q
    if y.st == .disabled || v ≤ y.k then s
    else
      let y := { y with k := v }
      if y.st == .held || y.st == .stopped then s.setQueueOf c q y
      else if v ≥ y.qrd + 2 ^ y.logn then s.stopQueue c q y .queueTorn
      else if y.st == .idle && v ≥ y.qrd then s.setQueueOf c q { y with st := .reading }
      else s.setQueueOf c q y

/-- The operation of a `launch` whose kick is on its way. -/
def Op.sentKick (o : Op) (c q v : Nat) : Bool :=
  o.kind == .kick c q v && o.parts.any (·.got.isSome)

/-- KICK: a write to a kick register reaches the queue engine: that of a `launch`, which completes on
path 1, or one from the host (R267, R270, R295). -/
def execKick (c q : Nat) (v : DWord) (s : State) : Host.Outcome State Fault Refusal :=
  let s' := s.kick c q v.toNat
  match s.ops.find? (fun o => o.sentKick c q v.toNat) with
  | some o => .next ((s'.completeOp o).delOp o.id)
  | none => .next s'

/-- TIME has reached the largest T_w of the host writes of a Waent link (R99). -/
def State.linkReady (s : State) (link : Nat) : Bool :=
  decide ((match s.links.linkTw.find? (fun x => x.1 == link) with
    | some x => x.2
    | none => 0) ≤ s.time)

/-- Deliver the doorbell kicks whose link's writes have reached their T_w, in order (R99). -/
def State.ringBells (s : State) : State :=
  let due := s.links.bells.filter (fun b => s.linkReady b.1)
  let s := { s with links := { s.links with bells := s.links.bells.filter (fun b => !s.linkReady b.1) } }
  due.foldl (fun s b => s.kick b.2.1 b.2.2.1 b.2.2.2) s

/-- DOORBELL: an aligned 8-byte host write to a doorbell page is a kick once the link's earlier writes
are applied and TIME has reached their T_w; other writes have no effect (R99, R409). -/
def execDoorbell (link page off size : Nat) (v : DWord) (s : State) : Host.Outcome State Fault Refusal :=
  let s := s.ringBells
  if size != 8 || off % 8 != 0 || off ≥ 0x200 || page ≥ 256 || link ≥ 2 then .next s
  else
    let s := { s with links := { s.links with bells := s.links.bells ++ [(link, page, off / 8, v.toNat)] } }
    .next s.ringBells

/-- What a host read of a doorbell page returns (R409). -/
def doorbellRead (_page _off _size : Nat) : Nat := 0

/-! ### Completion (R275) -/

/-- Check of a timeline that the device signals: its key, or the code of SIGFAULT (R275, R374). -/
def State.timelineKey (s : State) (ctx va : Nat) : Except Code Nat :=
  if va % 8 != 0 then .error .misaligned
  else match s.devXlate ctx .atomic va 8 with
    | .error .spaceBounds => .error .pageFault
    | .error c => .error c
    | .ok t => match t.key? with
      | some k => .ok k
      | none => .error .protection

/-- Write an aligned 8-byte word of a context's memory on the device's behalf. -/
def State.devWrite (s : State) (ctx va v : Nat) : State :=
  match s.devXlate ctx .store va 8 with
  | .error _ => s
  | .ok t => match t.key? with
    | some k => s.applyStore (engineOwner ctx) k 8 v
    | none => s

/-- Both words of a status record can be written (R269) (log 31, DEDUCED). -/
def State.statusOk (s : State) (ctx va : Nat) : Bool :=
  va % 8 == 0 && [va, va + 8].all (fun a => match s.devXlate ctx .store a 8 with
    | .ok t => t.key?.isSome
    | .error _ => false)

/-- No deadline (R269). -/
def noDeadline : Nat := 2 ^ 64 - 1

/-- A packet completes (R275). `code` is its status code. -/
def State.completePacket (s : State) (l : Launch) (code : Nat) : State :=
  let x := s.ctxOf l.ctx
  let killed := x.st == .killing || x.st == .killed
  let late := l.deadline != noDeadline && decide (s.time > l.deadline)
  let s := { s with launches := s.launches.filter (fun y => y.kid != l.kid) }
  let y := x.queue l.q
  let s := if late then s.setQueueOf l.ctx l.q { y with misses := Nat.min (2 ^ 32 - 1) (y.misses + 1) } else s
  let sig : Option (Except Code Nat) := if l.sigen && !killed then some (s.timelineKey l.ctx l.sigtl) else none
  let sigfault := match sig with
    | some (.error c) => 2 ^ 9 + c.num * 2 ^ 16
    | _ => 0
  let s := if l.sten && s.statusOk l.ctx l.status then
      (s.devWrite l.ctx l.status (code + bit01 late * 2 ^ 8 + sigfault)).devWrite l.ctx (l.status + 8) s.time
    else s
  match sig with
  | some (.ok k) => s.applyStore (engineOwner l.ctx) k 8 (Nat.max (s.read k 8) l.sigval)
  | _ => s

/-! ### Launch headers (R280 to R282) -/

/-- A pool entry (R281), or none where it is malformed. -/
def poolOf (w : Nat) : Option PoolDecl :=
  let sp := bits w 1 0
  let m := bits w 44 21
  if sp = 3 || bits w 63 45 != 0 || (m != 0 && sp != 0) || decide (popNat m 24 > 8) then none
  else some { space := sp, tsize := 4096 * 2 ^ bits w 3 2, afault := w.testBit 4, tiles := bits w 20 5 + 1, mcast := m }

/-- A launch header from its 256 bytes, before its limits are checked. -/
def headerOf (b : Nat) : Header :=
  let f := fun (o hi lo : Nat) => bits (b / 256 ^ o) hi lo
  let np := f 0x38 4 0
  let nh := f 0x38 12 8
  { w := (List.range 6).map (fun k => f 0 (8 * k + 6) (8 * k))
    nv := f 0x08 7 0
    ns := f 0x08 15 8
    team := f 0x08 26 16
    crew := f 0x08 33 27
    privw := f 0x08 46 34
    cscr := f 0x10 12 0
    kshare := f 0x10 20 16
    tbar := f 0x10 28 24
    cbar := f 0x10 36 32
    keys := f 0x18 12 0
    octets := f 0x18 20 16
    merge := f 0x18 24 24 == 1
    stream := f 0x18 25 25 == 1
    text := f 0x20 63 0
    textlen := f 0x28 63 0
    data := f 0x30 63 0
    nargs := f 0x38 22 16
    pools := (List.range np).filterMap (fun p => poolOf (f (0x40 + 8 * p) 63 0))
    hqs := (List.range nh).map (fun h => f (0xC0 + h) 7 0) }

/-- The 256 bytes that a header of legal field values has, but for its pool entries (R280). -/
def Header.words (h : Header) : Nat :=
  sumNat (h.w.zipIdx.map (fun x => x.1 * 256 ^ x.2)) +
  (h.nv + h.ns * 2 ^ 8 + h.team * 2 ^ 16 + h.crew * 2 ^ 27 + h.privw * 2 ^ 34) * 256 ^ 0x08 +
  (h.cscr + h.kshare * 2 ^ 16 + h.tbar * 2 ^ 24 + h.cbar * 2 ^ 32) * 256 ^ 0x10 +
  (h.keys + h.octets * 2 ^ 16 + bit01 h.merge * 2 ^ 24 + bit01 h.stream * 2 ^ 25) * 256 ^ 0x18 +
  h.text * 256 ^ 0x20 + h.textlen * 256 ^ 0x28 + h.data * 256 ^ 0x30 +
  (h.pools.length + h.hqs.length * 2 ^ 8 + h.nargs * 2 ^ 16) * 256 ^ 0x38 +
  sumNat (h.hqs.zipIdx.map (fun x => x.1 * 256 ^ (0xC0 + x.2)))

/-- The pool words of a header's bytes. -/
def poolBytes (b np : Nat) : Nat := b / 256 ^ 0x40 % 256 ^ (8 * np) * 256 ^ 0x40

/-- The ranges and limits of R280 and R282. -/
def Header.legal (h : Header) : Bool :=
  decide (h.team ≥ 1 ∧ h.team ≤ 1024 ∧ h.crew ≥ 1 ∧ h.crew ≤ 64 ∧ h.privw ≤ 4096 ∧ h.cscr ≤ 4096 ∧ h.kshare ≤ 16 ∧
    h.tbar ≤ 16 ∧ h.cbar ≤ 16 ∧ h.keys ≤ 4096 ∧ h.text % 32 = 0 ∧ h.textlen ≥ 32 ∧ h.textlen ≤ 2 ^ 30 ∧
    h.data % 4096 = 0 ∧ h.pools.length ≤ 16 ∧ h.hqs.length ≤ 16 ∧ h.nargs ≤ h.ns) &&
  decide (h.w.getD 0 0 ≤ 10 ∧ h.w.getD 1 0 ≤ 6 ∧ sumNat h.w ≤ 64 ∧ h.team ≤ 2 ^ h.w.getD 0 0 ∧
    h.crew ≤ 2 ^ h.w.getD 1 0) &&
  decide (h.nv % 8 = 0 ∧ h.nv ≥ 8 ∧ h.nv ≤ 192 ∧ h.ns % 8 = 0 ∧ h.ns ≥ 8 ∧ h.ns ≤ 64) &&
  (if h.keys = 0 then h.octets == 0 && !h.merge && !h.stream
   else h.ns == 64 && decide (h.octets ≥ 1 ∧ h.octets ≤ 24)) &&
  h.hqs.all (fun p => decide (p < h.pools.length)) &&
  decide ((h.team + 31) / 32 ≤ Nat.min 64 (4096 / h.nv))

/-- A launch header, or none where it is malformed (R282). -/
def parseHeader (b : Nat) : Option Header :=
  let h := headerOf b
  let np := bits (b / 256 ^ 0x38) 4 0
  if h.pools.length = np ∧ np ≤ 16 ∧ h.words + poolBytes b np = b ∧ h.legal = true then some h else none

/-! ### Packets (R269, R283, R289) -/

/-- A region descriptor (R289). -/
def regionOf (b : Nat) : Option RegionDecl :=
  let base := bits b 63 0
  let w := bits b 127 64
  let len := bits w 40 0
  if base ≥ 2 ^ 56 || len = 0 || decide (len > 2 ^ 40) || bits w 63 42 != 0 then none
  else some { base := base, len := len, write := w.testBit 41 }

/-- Every region of a packet, or none where one cannot be read or is malformed. -/
def State.regionsOf (s : State) (ctx va : Nat) : Nat → Option (List RegionDecl)
  | 0 => some []
  | n + 1 => match s.devBytes ctx va 16 with
    | .error _ => none
    | .ok bs => match regionOf (leNat bs), State.regionsOf s ctx (va + 16) n with
      | some r, some rs => some (r :: rs)
      | _, _ => none

/-- A header read for a packet, with the check of its extents (R282, R283). -/
def State.headerAt (s : State) (ctx va : Nat) (ext : List Nat) : Option Header :=
  match s.devBytes ctx va 256 with
  | .error _ => none
  | .ok bs => match parseHeader (leNat bs) with
    | none => none
    | some h =>
      if (List.range 4).all (fun k => decide (ext.getD k 0 ≥ 1 ∧ ext.getD k 0 ≤ 2 ^ h.w.getD (k + 2) 0)) &&
          decide (ext.foldl (· * ·) 1 ≤ 2 ^ 40) then some h
      else none

/-- A packet's launch entry from its 128 bytes, before its regions and header. -/
def packetOf (b kid c q n : Nat) : Launch :=
  let w := fun k => bits (b / 2 ^ (64 * k)) 63 0
  { kid := kid
    ctx := c
    q := q
    seq := n
    marker := bits (w 0) 7 0 == 2
    hdr := .empty
    deadline := w 2
    args := w 3
    waiten := (w 0).testBit 12
    waittl := w 4
    waitval := w 5
    sigen := (w 0).testBit 13
    sigtl := w 6
    sigval := w 7
    sten := (w 0).testBit 14
    status := w 9
    ext := [w 10, w 11, w 12, w 13]
    clmask := bits (w 14) 23 0
    regions := []
    st := .read
    ready := !(w 0).testBit 12
    dispatched := none
    nextCrew := 0
    retired := 0
    tw := 0
    abandoned := 0
    abandonFault := false
    hostChoice := none
    code := none
    energy := 0
    marks := []
    argWait := none }

/-- The field checks of a packet that need no read (R269, R283) (log 29, DEDUCED). -/
def packetBad (b : Nat) : Bool :=
  let w := fun k => bits (b / 2 ^ (64 * k)) 63 0
  let typ := bits (w 0) 7 0
  (typ != 1 && typ != 2) || decide (bits (w 0) 11 8 > 8) || bits (w 0) 63 15 != 0 ||
  w 1 % 64 != 0 || w 4 % 8 != 0 || w 8 % 16 != 0 || w 9 % 8 != 0 || bits (w 14) 63 24 != 0 ||
  (typ == 2 && (w 1 != 0 || w 3 != 0 || [10, 11, 12, 13, 14].any (fun k => w k != 0)))

/-- The launch that a packet gives; none where it is malformed. -/
def State.parsePacket (s : State) (b c q n : Nat) : Launch × Bool :=
  let l := packetOf b s.nextId c q n
  if packetBad b then (l, false)
  else
    let w := fun k => bits (b / 2 ^ (64 * k)) 63 0
    match s.regionsOf c (w 8) (bits (w 0) 11 8) with
    | none => (l, false)
    | some rs =>
      let l := { l with regions := rs }
      if l.marker then (l, true)
      else match s.headerAt c (w 1) l.ext with
        | none => (l, false)
        | some h => ({ l with hdr := h }, true)

/-- Region entries that the matcher holds (R290). -/
def State.matcherUsed (s : State) : Nat := sumNat (s.launches.map (fun l => l.regions.length))

/-- QRD passes the packet (R268, R271). -/
def Queue.passed (x : Queue) : Queue :=
  { x with qrd := x.qrd + 1, reread := none, st := if x.qrd + 1 > x.k then .idle else .reading }

/-- A sealed packet reaches the dispatcher (R269, R271, R291) (log 29, DEDUCED). -/
def State.acceptPacket (s : State) (c q : Nat) (x : Queue) (b : Nat) : State :=
  let (l, ok) := s.parsePacket b c q x.qrd
  let mine := fun (d : Nat × Nat × Nat) => d.1 == q && d.2.1 == x.qrd % 65536
  let read := fun (s : State) => (s.setQueueOf c q x.passed).modCtx c (fun y => { y with
    dispatchWait := y.dispatchWait.filter (fun d => !mine d) })
  if !ok then (read s).completePacket l 3
  else if s.matcherUsed + l.regions.length > 1024 then s.stopQueue c q x .dependenceOverflow
  else
    let l := match (s.ctxOf c).dispatchWait.find? mine with
      | some d => { l with dispatched := some d.2.2 }
      | none => l
    let s := read s
    { s with launches := s.launches ++ [l], nextId := s.nextId + 1 }

/-- The 128 bytes of a packet in its slot. -/
def State.packetBytes (s : State) (c : Nat) (x : Queue) : Except Code Nat :=
  match s.devXlate c .load (x.base + 128 * (x.qrd % 2 ^ x.logn)) 128 with
  | .error e => .error e
  | .ok t => match t.key? with
    | some k => .ok (s.read k 128)
    | none => .error .protection

/-- One read of packet QRD: accepted, stopped, or to be read again as re-read `i` (R271). -/
def State.readPacket (s : State) (c q : Nat) (x : Queue) (i : Nat) : State :=
  match s.packetBytes c x with
  | .error _ => s.stopQueue c q x .queueTorn
  | .ok b =>
    if bits (b / 2 ^ 960) 63 0 = x.qrd then s.acceptPacket c q x b
    else if i > 8 then s.stopQueue c q x .queueTorn
    else s.setQueueOf c q { x with reread := some (i, s.time + 256 * 2 ^ (i - 1)) }

/-- PACKET_READ: the queue engine reads packet QRD (R271). -/
def execPacketRead (c q : Nat) (s : State) : Host.Outcome State Fault Refusal :=
  let x := s.queue c q
  if x.st == .reading && s.running c && x.reread.isNone then .next (s.readPacket c q x 1) else .next s

/-- SEAL_REREAD: the next re-read of a packet starts (R271). -/
def execSealReread (c q : Nat) (s : State) : Host.Outcome State Fault Refusal :=
  let x := s.queue c q
  match x.reread with
  | some (i, t) =>
    if x.st == .reading && s.running c && decide (t ≤ s.time) then .next (s.readPacket c q x (i + 1)) else .next s
  | none => .next s

/-! ### Queue commands (R268, R274) -/

/-- A queue descriptor (R266): ring, or none where it is not valid. -/
def queueDesc (d : Nat) : Option Queue :=
  let logn := bits d 68 64
  if bits d 511 72 != 0 || bits d 70 69 != 0 || bits d 63 56 != 0 || bits d 6 0 != 0 || decide (logn < 4 ∨ logn > 16) then none
  else some { Queue.off with st := .idle, logn := logn, base := bits d 55 7 * 128, drop := d.testBit 71 }

/-- QUEUE_ENABLE (R266, R268). CODE and MISSES of an earlier use of the queue stay (log 61, DESIGN CHOICE). -/
def execQueueEnable (c q : Nat) (s : State) : Host.Outcome State Fault Refusal :=
  let x := s.ctxOf c
  let y := x.queue q
  if x.st == .free || q ≥ x.desc.nq || y.st != .disabled then .next (s.err c)
  else match queueDesc (s.read (x.desc.save + 0x1000 + 64 * q) 64) with
    | none => .next (s.err c)
    | some d => .next (s.setQueueOf c q { d with code := y.code, misses := y.misses })

/-- QUEUE_DISABLE: packets read and not started are discarded without status (R268). DISPATCH commands that wait
for packets still unread stay (log 78, DESIGN CHOICE). -/
def execQueueDisable (c q : Nat) (s : State) : Host.Outcome State Fault Refusal :=
  let x := s.ctxOf c
  let y := x.queue q
  if q ≥ x.desc.nq || x.st == .free || y.st == .disabled then .next (s.err c)
  else
    let s := s.setQueueOf c q { y with st := .disabled, reread := none }
    .next { s with launches := s.launches.filter (fun l => !(l.ctx == c && l.q == q && l.st == .read)) }

/-- QUEUE_RESTART (R268). -/
def execQueueRestart (c q : Nat) (s : State) : Host.Outcome State Fault Refusal :=
  let x := s.ctxOf c
  let y := x.queue q
  if q ≥ x.desc.nq || x.st == .free || y.st != .stopped then .next (s.err c)
  else .next (s.setQueueOf c q { y with st := if y.k ≥ y.qrd then .reading else .idle, reread := none })

/-- The low 16 bits of a packet number name one that is still to be read: the nearer of the two that they may
name, or the only one (R274) (log 56, DEDUCED). -/
def Queue.names (y : Queue) (seq : Nat) : Bool :=
  let ahead := (seq + 65536 - y.qrd % 65536) % 65536
  decide (ahead < 32768) || decide (y.qrd + ahead ≤ 65536)

/-- QUEUE_DISPATCH: name a packet to start (R274). -/
def execQueueDispatch (c q seq : Nat) (s : State) : Host.Outcome State Fault Refusal :=
  let x := s.ctxOf c
  let y := x.queue q
  let seq := seq % 65536
  if q ≥ x.desc.nq || x.st == .free then .next (s.err c)
  else
    let n := s.nextId
    let s' := { s with nextId := n + 1 }
    match s.launches.find? (fun l => l.ctx == c && l.q == q && l.seq % 65536 == seq && l.st == .read) with
    | some l =>
      if l.dispatched.isSome then .next s
      else .next (s'.modLaunch l.kid (fun l => { l with dispatched := some n }))
    | none =>
      if y.names seq then
        .next (s'.modCtx c (fun x => { x with dispatchWait := x.dispatchWait ++ [(q, seq, n)] }))
      else .next (s.err c)

/-! ### Readiness (R272) -/

/-- Every earlier packet of its queue has started. -/
def State.earlierStarted (s : State) (l : Launch) : Bool :=
  s.launches.all (fun x => !(x.ctx == l.ctx && x.q == l.q && decide (x.seq < l.seq)) || x.st != .read)

/-- Every earlier packet of its queue has completed. -/
def State.earlierDone (s : State) (l : Launch) : Bool :=
  s.launches.all (fun x => !(x.ctx == l.ctx && x.q == l.q && decide (x.seq < l.seq)))

def RegionDecl.conflicts (a b : RegionDecl) : Bool := overlap a.base a.len b.base b.len && (a.write || b.write)

/-- A region of the packet conflicts with one of a packet entered earlier (R290). -/
def State.conflict (s : State) (l : Launch) : Bool :=
  (s.launches.takeWhile (fun x => x.kid != l.kid)).any (fun x => x.ctx == l.ctx &&
    x.regions.any (fun a => l.regions.any (fun b => a.conflicts b)))

/-- A DROP packet has not started by its deadline (R273). -/
def State.lateDrop (s : State) (l : Launch) : Bool :=
  (s.queue l.ctx l.q).drop && l.deadline != noDeadline && decide (s.time > l.deadline)

/-- Nothing holds a packet that has been read but its placement. -/
def State.packetReady (s : State) (l : Launch) : Bool :=
  l.st == .read && l.ready && !s.lateDrop l && s.running l.ctx && (s.queue l.ctx l.q).st != .disabled && s.earlierStarted l &&
    !s.conflict l

/-- In host-assisted mode the dispatcher starts only what the host has named, in the order of the commands that
named packets of contexts that run (R274) (log 56, DEDUCED). -/
def State.hostNamed (s : State) (l : Launch) : Bool :=
  !(s.desc l.ctx).mode 65 || (match l.dispatched with
    | none => false
    | some n => s.launches.all (fun x => x.kid == l.kid || !s.running x.ctx || x.st != .read || (match x.dispatched with
        | some m => decide (n < m)
        | none => true)) &&
      s.ctxs.all (fun c => !s.running c.num || c.dispatchWait.all (fun d => decide (n < d.2.2))))

/-- The context is not contained: its packets complete one by one (R263, R275). -/
def State.alive (s : State) (c : Nat) : Bool :=
  match s.ctx? c with
  | some x => x.st != .killing && x.st != .killed
  | none => false

/-- WAIT_TIMELINE_TEST: the queue engine reads WAITTL (R272). A condition found met stays met, though the
timeline be lowered before the packet starts (log 62, DESIGN CHOICE). -/
def execWaitTimelineTest (kid : Nat) (s : State) : Host.Outcome State Fault Refusal :=
  match s.launch? kid with
  | none => .next s
  | some l =>
    if l.st != .read || l.ready || !s.running l.ctx then .next s
    else match s.devRead l.ctx l.waittl 8 with
      | .error _ => .next (s.completePacket l 3)
      | .ok v => .next (if v ≥ l.waitval then s.modLaunch kid (fun l => { l with ready := true }) else s)

/-- MARKER_COMPLETE (R272). -/
def execMarkerComplete (kid : Nat) (s : State) : Host.Outcome State Fault Refusal :=
  match s.launch? kid with
  | none => .next s
  | some l =>
    if l.marker && l.st == .read && l.ready && !s.lateDrop l && s.running l.ctx && s.earlierDone l && s.hostNamed l then
      .next (s.completePacket l 0)
    else .next s

/-- DEADLINE_DROP: a DROP packet has not started by its deadline (R273). -/
def execDeadlineDrop (kid : Nat) (s : State) : Host.Outcome State Fault Refusal :=
  match s.launch? kid with
  | none => .next s
  | some l =>
    if l.st == .read && s.lateDrop l && s.alive l.ctx then .next (s.completePacket l 0x81)
    else .next s

/-! ### launch, tlsig, tlwait (R277 to R279, R294 to R296) -/

/-- A part of an operation that waits for its release: it is sent when it has a value. -/
def kickPart : Part where
  lane := 0
  who := outsider
  idx := 0
  path := 1
  key := 2 ^ 60
  size := 8
  via := .reg
  b := 0
  c := 0
  got := none
  fwdMask := 0
  fwd := 0
  done := false
  tw := 0
  sysDone := true
  stamp := 0

/-- An operation whose release was stalled over a save counts on path 1 once it is sent (R70, R258). -/
def State.countSent (s : State) (op : Nat) : State :=
  match s.op? op with
  | none => s
  | some o =>
    if !o.paths.isEmpty then s
    else (s.modOp op (fun o => { o with paths := [1] })).modGroup o.gid (fun g => { g with
      flights := g.flights ++ [{ path := 1, op := op, done := false }] })

/-- The kick of a `launch` is sent. -/
def State.sendKick (s : State) (op : Nat) : State :=
  (s.countSent op).modOp op (fun o => { o with parts := o.parts.map (fun (p : Part) => { p with got := some 0 }) })

/-- `launch` (R294 to R296). -/
def execLaunch (f : LaunchForm) (s : State) : Host.Outcome State Fault Refusal :=
  issue (.launch f) s (fun s g p =>
    if !g.guard f.gd then .done s
    else
      let a := (g.rdS p f.a).toNat
      let q := a % 64
      let v := (g.rd64 p (192 + f.b.val) 0).toNat
      let c := match f.c with
        | some r => (g.rdS p r).toNat % 256
        | none => g.ctx
      if a ≥ 64 || q ≥ (s.desc c).nq || (s.ctxOf c).st == .free then .trap .illegalOperand (lowLane p.mask) 0 0
      else if f.c.isSome && !s.priv g.ctx then .trap .privileged (lowLane p.mask) 0 0
      else if g.full [1] then .hold 2 true
      else
        let upTo := s.nextId
        let s := s.startOp g (s.newOp g p p.mask (.kick c q v) [kickPart] [1] []) [] []
        .after s (fun s g =>
          if s.released g (if f.sys then .system else .device) upTo then s.sendKick upTo
          else s.parkOn g.id p.id (.launch upTo f.sys c q v)))

/-- LAUNCH_KICK_SENT: the release of a `launch` is complete (R295). -/
def execLaunchKickSent (i : GroupId) (path : Nat) (s : State) : Host.Outcome State Fault Refusal :=
  match s.stalledIn i path with
  | some (g, _, .launch upTo sys _ _ _) =>
    .next (if s.released g (if sys then .system else .device) upTo then (s.sendKick upTo).unpark i path else s)
  | _ => .next s

/-- The part of a `tlsig` as its request carries it. -/
def State.signalPart (s : State) (p : Part) : Part :=
  { p with via := s.viaOf p.key, sysDone := decide (bits p.key 51 49 = 0) }

/-- The request of a `tlsig` would carry its core past its window (R311). -/
def State.signalHeld (s : State) (g : Group) (op : Nat) : Bool :=
  match s.op? op with
  | some o => s.overWindow g { o with parts := o.parts.map s.signalPart } (o.parts.map (fun _ => 0))
  | none => false

/-- The update of a `tlsig` is sent: its request goes to the home (R278). -/
def State.sendSignal (s : State) (op : Nat) : State :=
  let s := s.countSent op
  match s.op? op with
  | none => s
  | some o =>
    let o := { o with parts := o.parts.map s.signalPart }
    let rs := o.requests s.nextId (o.parts.map (fun _ => 0))
    { s.putOp o with nextId := s.nextId + rs.length, reqs := s.reqs ++ rs }

/-- `tlsig` (R277, R278). -/
def execTlsig (f : TlsigForm) (s : State) : Host.Outcome State Fault Refusal :=
  issue (.tlsig f) s (fun s g p =>
    if !g.guard f.gd then .done s
    else
      let lane := lowLane p.mask
      let loc : Loc := { space := .g, a := (g.rd64 p (192 + f.a.val) 0).toNat, handle := 0 }
      let v := (g.rd64 p (192 + f.b.val) 0).toNat
      match s.access g p (atomWant .atomic 8 true .misaligned) false [(lane, loc)] with
      | .ok ((_, x) :: _) =>
        let part := { x.part lane (g.owner true lane) v 0 with via := .reg }
        if g.full [1] then .hold 2 true
        else if s.overWindow g (s.newOp g p p.mask (.tlsig f.set v) [s.signalPart part] [1] []) [0] then .hold 9 false
        else
          let upTo := s.nextId
          let s := s.startOp g (s.newOp g p p.mask (.tlsig f.set v) [part] [1] []) [] []
          let s := s.recordMem g loc 1 true
          .after s (fun s g =>
            if s.released g (if f.sys then .system else .device) upTo && !s.signalHeld g upTo then s.sendSignal upTo
            else s.parkOn g.id p.id (.tlsig upTo f.sys f.set loc.a x.key v))
      | r => s.refuse g p .atomic 1 r)

/-- TLSIG_SENT: the release of a `tlsig` is complete (R278). -/
def execTlsigSent (i : GroupId) (path : Nat) (s : State) : Host.Outcome State Fault Refusal :=
  match s.stalledIn i path with
  | some (g, _, .tlsig upTo sys _ _ _ _) =>
    .next (if s.released g (if sys then .system else .device) upTo && !s.signalHeld g upTo then
        (s.sendSignal upTo).unpark i path
      else s)
  | _ => .next s

/-- What ends a `tlwait` on the word at a key: its timeout, or the threshold, reached before it (R276, R279). -/
def State.tlwaitEnd (s : State) (p : Path) (key thr : Nat) (deadline : Option Nat) : Option Bool :=
  if p.timedOut then some false
  else if s.tlMet key thr deadline then some true
  else none

/-- The wait of `tlwait` (R279): its address is checked once, and then the wait goes on at the word that it found
(R276) (log 20, DEDUCED); after an invalidation of the page, or a save, it finds the word anew (R379).
A `tlwait` that has been released, or whose timeout has passed, ends whatever its address gives. -/
def tlwaitBody (gd : Guard) (d : Fin 8) (a b : Fin 64) (ext sys : Bool) (us : Option Nat) (s : State) (g : Group)
    (p : Path) : Res :=
  if !g.guard gd then .done s
  else
    let lane := lowLane p.mask
    let loc : Loc := { space := .g, a := (g.rd64 p (192 + a.val) 0).toNat, handle := 0 }
    let end_ := fun (b : Bool) => Res.done ((s.recordMem g loc 0 false).setGroup (g.setQ d.val b))
    let find := fun (thr : Nat) (dl : Option Nat) =>
      match s.access g p (atomWant .load 8 true .misaligned) false [(lane, loc)] with
      | .ok ((_, x) :: _) =>
        if x.lease = 6 then .trap .protection lane 0 loc.a
        else if s.tlMet x.key thr dl then end_ true
        else .wait s (.tlwait x.key loc.a thr ext sys dl)
      | r => s.refuse g p .load 0 r
    match p.park with
    | some (.tlwait k va t e y dl) => match s.tlwaitEnd p k t dl with
      | some b => end_ b
      | none => if k = noKey then find t dl else .wait s (.tlwait k va t e y dl)
    | _ => find (g.rd64 p (192 + b.val) 0).toNat (us.map (fun n => s.time + n * 1000))

/-- `tlwait`, 64-bit form (R277, R279). -/
def execTlwait (f : TlwaitForm) (s : State) : Host.Outcome State Fault Refusal :=
  issue (.tlwait f) s (tlwaitBody f.gd f.d f.a f.b f.ext f.sys none)

/-- `tlwait.ext`, 96-bit form (R277, R279). -/
def execTlwaitExt (f : TlwaitExtForm) (s : State) : Host.Outcome State Fault Refusal :=
  issue (.tlwaitExt f) s (tlwaitBody f.gd f.d f.a f.b true f.sys (some f.us.toNat))

/-- TLWAIT_TIMEOUT: the timeout passes first (R279). -/
def execTlwaitTimeout (i : GroupId) (path : Nat) (s : State) : Host.Outcome State Fault Refusal :=
  match s.group? i with
  | none => .next s
  | some g => match g.path? path with
    | none => .next s
    | some p => match p.park with
      | some (.tlwait k _ t _ _ (some d)) =>
        if d ≤ s.time ∧ s.tlMet k t (some d) = false then .next (s.setGroup (g.setPath { p with timedOut := true })) else .next s
      | _ => .next s

end Sys2Proof.Machine
end

