-- ==== Sys2Proof/Machine/Page.lean ====
section
/-! DEFINITION. Translation caches and walks (R377 to R379), host-assisted page faults (R380, R381) and
shadow windows (R382 to R387). -/

namespace Sys2Proof.Machine

/-! ### Walks (R377, R378) -/

/-- Pages whose walks a wait is for. -/
def Park.walks : Park → List Nat
  | .walk pages => pages
  | .fetch page => [page]
  | _ => []

/-- Pages whose walks a path waits for. -/
def Path.walks (p : Path) : List Nat := (p.park.map Park.walks).getD []

/-- Addresses that an operation prefetches once their page is translated. -/
def OpKind.awaits : OpKind → List (Nat × Nat)
  | .prefetch todo => todo
  | _ => []

/-- Some path of the context on the cluster, or a prefetch, waits for the page, which no cached leaf and no
failed walk has answered. -/
def State.wantsPage (s : State) (c cluster page : Nat) : Bool :=
  (s.tlb? cluster c page).isNone &&
  (s.groups.any (fun g => g.ctx == c && g.id.cluster == cluster && g.paths.any (fun p =>
      p.walks.contains page && !p.failed.any (fun f => f.1 == page))) ||
    s.ops.any (fun o => o.ctx == c && o.gid.cluster == cluster && o.kind.awaits.any (fun t => pageOf t.2 == page)))

/-- TRANSLATION_WALK: a miss joins the walk in flight for its context and page, or starts one in the
walker of its slice (R377). -/
def execTranslationWalk (c cluster va : Nat) (s : State) : Host.Outcome State Fault Refusal :=
  let page := pageOf va
  if !s.wantsPage c cluster page then .next s
  else
    let mine := fun (w : Walk) => w.ctx == c && w.page == page
    if s.page.walks.any mine then
      .next { s with page := { s.page with walks := s.page.walks.map (fun (w : Walk) =>
        if mine w then { w with clusters := addNew cluster w.clusters } else w) } }
    else if (s.page.walks.filter (fun w => w.page / 65536 % 96 == page / 65536 % 96)).length ≥ 64 then .next s
    else .next { s with
      nextId := s.nextId + 1
      page := { s.page with walks := s.page.walks ++ [{ ctx := c, page := page, clusters := [cluster], since := s.nextId }] } }

/-- Bits below the index of a level (R370). -/
def levelBits : Nat → Nat
  | 0 => 16
  | 1 => 21
  | 2 => 30
  | _ => 39

/-- An entry read by a walker: from its own cache of upper-level entries, or from its home. -/
def State.walkerEntry (s : State) (ctx level va table : Nat) : Nat :=
  match s.page.wcache.find? (fun w => w.1 == ctx && w.2.1 == level && w.2.2.1 == va / 2 ^ levelBits level) with
  | some w => w.2.2.2.toNat
  | none => s.read (table + 8 * vaIndex level va) 8

/-- A walker's walk, with the table entries that it read and keeps (R377, R378) (log 32, DEDUCED). -/
def State.cachedWalk (s : State) (ctx va : Nat) : Nat → Nat → Nat → Except Nat (Nat × Nat) × List (Nat × Nat × Nat × DWord)
  | 0, level, _ => (.error level, [])
  | fuel + 1, level, table =>
    let e := s.walkerEntry ctx level va table
    if !pteValid e || pteBad level e then (.error level, [])
    else if pteLeaf e then (.ok (e, pageBits level), [])
    else
      let (r, ws) := State.cachedWalk s ctx va fuel (level - 1) (bits e 51 8 * 256)
      (r, (ctx, level, va / 2 ^ levelBits level, BitVec.ofNat 64 e) :: ws)

/-- Enter a leaf in a cluster's cache of 8,192 entries; the oldest gives way (R377). -/
def State.cacheLeaf (s : State) (t : TlbLeaf) : State :=
  let mine := s.page.tlb.filter (fun x => x.cluster == t.cluster)
  let keep := s.page.tlb.filter (fun x => !(x.cluster == t.cluster && x.ctx == t.ctx && x.page == t.page && x.bits == t.bits))
  let keep := if mine.length ≥ 8192 then
      match mine with
      | old :: _ => keep.erase old
      | [] => keep
    else keep
  { s with page := { s.page with tlb := keep ++ [t] } }

/-- A failed walk, for every path that waits for it (R375, R377). -/
def State.failPage (s : State) (c page level : Nat) (clusters : List Nat) : State :=
  { s with groups := s.groups.map (fun (g : Group) =>
      if g.ctx == c && clusters.contains g.id.cluster then
        { g with paths := g.paths.map (fun (p : Path) =>
            if p.walks.contains page then { p with failed := p.failed ++ [(page, level, false)] } else p) }
      else g) }

/-- A walk has ended: the prefetches that waited for it request their lines, or do nothing (R215). -/
def State.resumePrefetch (s : State) (o : Op) (page : Nat) : State :=
  let now := o.kind.awaits.filter (fun t => pageOf t.2 == page)
  if now.isEmpty then s
  else
    let xs : List (Nat × Nat × Nat) := now.filterMap (fun t => (s.prefetchLine o.gid.cluster o.ctx t.2).map (fun y => (t.1, y)))
    let new := s.prefetchParts xs
    let fresh : Op := { o with parts := o.parts.map (fun (p : Part) => { p with got := some 0 }) ++ new }
    let rs := fresh.requests s.nextId (o.parts.map (fun _ => 0) ++ xs.map (·.2.2))
    let o := { o with kind := .prefetch (o.kind.awaits.filter (fun t => pageOf t.2 != page)), parts := o.parts ++ new }
    ({ s with nextId := s.nextId + rs.length, reqs := s.reqs ++ rs }.putOp o).endPrefetch o

def State.resumePrefetches (s : State) (c page : Nat) (clusters : List Nat) : State :=
  s.ops.foldl (fun (s : State) o =>
    if o.ctx == c && clusters.contains o.gid.cluster then s.resumePrefetch o page else s) s

/-- WALK_COMPLETE: the walk returns a leaf to the clusters that joined it, or fails at a level; the
waiting instructions are evaluated again (R375, R377). -/
def execWalkComplete (c va : Nat) (s : State) : Host.Outcome State Fault Refusal :=
  let page := pageOf va
  match s.page.walks.find? (fun w => w.ctx == c && w.page == page) with
  | none => .next s
  | some w =>
    let (r, ws) := s.cachedWalk c page 4 3 ((s.desc c).root * 4096)
    let known := s.page.wcache.filter (fun x => !ws.any (fun y => y.1 == x.1 && y.2.1 == x.2.1 && y.2.2.1 == x.2.2.1))
    let s := { s with page := { s.page with
      walks := s.page.walks.filter (fun x => !(x.ctx == c && x.page == page))
      wcache := known ++ ws } }
    match r with
    | .error level => .next ((s.failPage c page level w.clusters).resumePrefetches c page w.clusters)
    | .ok (e, b) =>
      .next ((w.clusters.foldl (fun (s : State) k => s.cacheLeaf
        { cluster := k, ctx := c, page := page / 2 ^ b * 2 ^ b, bits := b, leaf := BitVec.ofNat 64 e }) s).resumePrefetches
          c page w.clusters)

/-! ### Invalidation (R379) -/

/-- The context and virtual range of a TLBINV command. -/
def tlbCtx (v : DWord) : Nat := bits v.toNat 15 8

def tlbRange (v : DWord) : Nat × Nat :=
  let va := bits v.toNat 55 16 * 65536
  match bits v.toNat 3 2 with
  | 0 => (va, 2 ^ 16)
  | 1 => (va / 2 ^ 21 * 2 ^ 21, 2 ^ 21)
  | 2 => (va / 2 ^ 30 * 2 ^ 30, 2 ^ 30)
  | _ => (0, 2 ^ 56)

/-- Drop every cached entry of a range. -/
def PageUnit.drop (u : PageUnit) (ctx lo n : Nat) : PageUnit :=
  { u with
    tlb := u.tlb.filter (fun t => !(t.ctx == ctx && overlap t.page (2 ^ t.bits) lo n))
    wcache := u.wcache.filter (fun w => !(w.1 == ctx &&
      overlap (w.2.2.1 * 2 ^ levelBits w.2.1) (2 ^ levelBits w.2.1) lo n)) }

/-- TLBINV: queue one invalidation; with 16 pending, set ERR (R379). -/
def execTlbinv (v : DWord) (s : State) : Host.Outcome State Fault Refusal :=
  if s.page.inv.length ≥ 16 then .next (s.err (tlbCtx v))
  else .next { s with page := { s.page with inv := s.page.inv ++ [(v, none)] } }

/-- A `tlwait` of a context that watches a word of the range is to translate its address again. -/
def State.loseKeys (s : State) (c lo n : Nat) : State :=
  let lose := fun (k : Park) => match k with
    | .tlwait _ va _ _ _ _ => if overlap va 8 lo n then k.retranslate else k
    | k => k
  { s with groups := s.groups.map (fun (g : Group) =>
      if g.ctx == c then { g with paths := g.paths.map (fun (p : Path) => p.mapWait lose)
                                  frame := g.frame.map (fun f => { f with paths := f.paths.map (fun (p : Path) => p.mapWait lose) }) }
      else g) }

/-- TLBINV_COMPLETE: the oldest invalidation drops its entries, and completes when every walk of the range that
was in flight has ended and every access issued before that is delivered or applied (R379) (log 32,
DEDUCED). -/
def execTlbinvComplete (s : State) : Host.Outcome State Fault Refusal :=
  match s.page.inv with
  | [] => .next s
  | (v, at?) :: rest =>
    let c := tlbCtx v
    let (lo, n) := tlbRange v
    let mark := at?.getD s.nextId
    let u := if at?.isNone then s.page.drop c lo n else s.page
    let s := if at?.isNone then s.loseKeys c lo n else s
    if s.ops.any (fun o => o.ctx == c && decide (o.id < mark)) ||
        s.page.walks.any (fun w => w.ctx == c && overlap w.page 65536 lo n && decide (w.since < mark)) then
      .next { s with page := { u with inv := (v, some mark) :: rest } }
    else .next { s with page := { u with inv := rest } }

/-! ### Host-assisted faults (R380, R381) -/

/-- Storage key of host memory (R64). -/
def hostKey (pa : Nat) : Nat := 2 * 2 ^ 49 + pa % 2 ^ 49

/-- Write a fault record unless one stands or the ring is full; whether a record now names the page. -/
def State.faultRecord (s : State) (c page level kind time : Nat) : State × Bool :=
  let u := s.page
  if u.recs.any (fun r => r.ctx == c && r.page == page) then (s, true)
  else if u.pfhead - u.pftail ≥ 4096 then (s, false)
  else
    let k := u.pfhead
    let s := s.writeWords (hostKey (u.pfbase + 32 * (k % 4096)))
      [k, page, c + kind * 2 ^ 8 + level * 2 ^ 10, time]
    let s' : State := { s with page := { u with
      pfhead := (k + 1) % 2 ^ 64
      recs := u.recs ++ [{ seq := k, ctx := c, page := page }] } }
    (s'.cause 1, true)

/-- PAGE_FAULT_RECORD (R380). -/
def execPageFaultRecord (i : GroupId) (path page : Nat) (s : State) : Host.Outcome State Fault Refusal :=
  match s.group? i with
  | none => .next s
  | some g => match g.path? path with
    | none => .next s
    | some p => match p.park with
      | some (.hostFault todo pages time) =>
        match todo.find? (fun t => t.1 == page) with
        | none => .next s
        | some (_, level, kind) =>
          let (s, ok) := s.faultRecord g.ctx page level kind time
          .next (if ok then s.parkOn i path (.hostFault (todo.filter (fun t => t.1 != page)) pages time) else s)
      | _ => .next s

/-- What an answer does to a path that waits on the page (R380). -/
def Path.answered (p : Path) (page : Nat) (fail : Bool) : Path :=
  match p.park with
  | some (.hostFault _ pages _) =>
    if !pages.contains page then p
    else if fail then { p with failed := p.failed.map (fun (f : Nat × Nat × Bool) =>
      if f.1 == page then (f.1, f.2.1, true) else f) }
    else { p with failed := p.failed.filter (fun f => f.1 != page) }
  | _ => p

/-- The lowest-WID resident thread of a kernel, with its group. -/
def State.lowThread (s : State) (kid : Nat) : Option (Nat × Group) :=
  leastBy (fun (x : Nat × Group) => x.1) ((s.groups.filter (fun g => g.kid == kid)).flatMap (fun g =>
    g.threads.map (fun t => (t.2.wid, g))))

/-- A later crew's argument read fails for good (R285). -/
def State.argFatal (s : State) (l : Launch) (c : Code) (va : Nat) : State :=
  let info := trapInfo c.num 0 2 0 0 0
  match s.lowThread l.kid with
  | some (w, g) =>
    s.fatal { ctx := l.ctx, kid := l.kid, cluster := g.id.cluster, core := g.id.core, slot := g.id.slot,
              wid := w, va := va } c info
  | none => s.fatal { ctx := l.ctx, kid := l.kid, cluster := 0, core := 0, slot := 0, wid := 0, va := va } c info

/-- PFRESP: the host answers a record; a crew's placement may wait on it too, and a FAIL is then fatal (R285,
R380, R381). -/
def execPfresp (v : DWord) (s : State) : Host.Outcome State Fault Refusal :=
  let seq := v.toNat / 2
  let fail := v.getLsbD 0
  match s.page.recs.find? (fun r => r.seq == seq) with
  | none => .next s
  | some r =>
    let waits := fun (l : Launch) => l.ctx == r.ctx && l.argWait.any (fun w => pageOf w.1 == r.page)
    let failed := s.launches.filter (fun l => fail && waits l)
    let s := { s with
      page := { s.page with recs := s.page.recs.filter (fun x => x.seq != seq) }
      groups := s.groups.map (fun (g : Group) =>
        if g.ctx == r.ctx then { g with paths := g.paths.map (fun (p : Path) => p.answered r.page fail) } else g)
      launches := s.launches.map (fun (l : Launch) => if waits l then { l with argWait := none } else l) }
    .next (failed.foldl (fun (s : State) l => s.argFatal l .pageFault ((l.argWait.map (·.1)).getD 0)) s)

/-- PFTAIL_WRITE (R381): a record that a crew's placement waits on, and that found no room, is written now (R285). -/
def execPftailWrite (v : DWord) (s : State) : Host.Outcome State Fault Refusal :=
  let s : State := { s with page := { s.page with pftail := v.toNat } }
  .next (s.launches.foldl (fun (s : State) l => match l.argWait with
    | some (va, level, time) => (s.faultRecord l.ctx (pageOf va) level 0 time).1
    | none => s) s)

/-! ### Shadow windows (R382, R386, R387) -/

/-- Bind or unbind a slot. -/
def State.bindSlot (s : State) (c slot : Nat) (b : Option (Nat × Nat × Nat × Nat)) : State :=
  s.modCtx c (fun x =>
    let rest := x.wins.filter (fun w => w.1 != slot)
    match b with
    | some (e, base, index, n) => { x with wins := rest ++ [(slot, { esize := e, base := base, index := index, n := n })] }
    | none => { x with wins := rest })

/-- The release of `bindw` or `unbindw`, and then the slot (R386). -/
def bindBody (slot : Nat) (b : Option (Nat × Nat × Nat × Nat)) (s : State) (p : Path) : Res :=
  let upTo := s.nextId
  .after s (fun s g =>
    if s.released g .device upTo then s.bindSlot g.ctx slot b
    else s.parkOn g.id p.id (.bindw upTo slot b))

/-- `bindw` (R386). -/
def execBindw (f : BindwForm) (s : State) : Host.Outcome State Fault Refusal :=
  issue (.bindw f) s (fun s g p =>
    if !g.guard f.gd then .done s
    else
      let e := esizeBytes f.e
      let base := (g.rd64 p (192 + f.a.val) 0).toNat
      let index := (g.rd64 p (192 + f.b.val) 0).toNat
      let n := (g.rdS p f.c).toNat
      let lane := lowLane p.mask
      if n = 0 ∨ n > 2 ^ 28 then .trap .illegalOperand lane 0 0
      else if base % e != 0 || index % 4 != 0 then .trap .misaligned lane 0 0
      else if base ≥ 2 ^ 56 ∨ index ≥ 2 ^ 56 then .trap .spaceBounds lane 0 0
      else bindBody f.slot.val (some (e, base, index, n)) s p)

/-- `unbindw` (R386). -/
def execUnbindw (gd : Guard) (slot : Fin 64) (s : State) : Host.Outcome State Fault Refusal :=
  issue (.unbindw gd slot) s (fun s g p =>
    if !g.guard gd then .done s else bindBody slot.val none s p)

/-- BINDW_COMPLETE: the release of a `bindw` or `unbindw` is complete (R386). -/
def execBindwComplete (i : GroupId) (path : Nat) (s : State) : Host.Outcome State Fault Refusal :=
  match s.stalledIn i path with
  | some (g, _, .bindw upTo slot b) =>
    .next (if s.released g .device upTo then (s.bindSlot g.ctx slot b).unpark i path else s)
  | _ => .next s

end Sys2Proof.Machine
end

