-- ==== Sys2Proof/Machine/Kernel.lean ====
section
/-! DEFINITION. Kernels (R284 to R293, R471): what a crew needs of a cluster, its placement by the
dispatcher, the kernel boundary (R100), and the retirement of crews and kernels. -/

namespace Sys2Proof.Machine

/-! ### Room on a cluster (R54 to R59, R287, R351) -/

/-- Bytes of a pool's partition. -/
def PoolDecl.bytes (d : PoolDecl) : Nat := d.tiles * d.tsize

/-- Bytes that a .k partition takes on each core (R55). -/
def PoolDecl.kBytes (d : PoolDecl) : Nat := (d.bytes + 6143) / 6144 * 256

/-- Bytes that a .x partition takes beside each slice. -/
def PoolDecl.xBytes (d : PoolDecl) : Nat := (d.bytes + 98303) / 98304 * 1024

/-- Bytes of the arrival words of a team (R339). -/
def Header.wordBytes (h : Header) : Nat := if h.tbar + h.cbar = 0 then 0 else (4 * h.team + 255) / 256 * 256

/-- Bytes of a handle queue (R364). -/
def Header.hqBytes (h : Header) (pool : Nat) : Nat := 64 + 4 * h.tiles pool

/-- The needs of a crew on core 0, its most heavily used core (R55). -/
def Header.kNeed (h : Header) : Nat :=
  65536 * h.kshare + sumNat ((h.pools.filter (fun d => d.sp == .k)).map (·.kBytes)) + sumNat (h.hqs.map h.hqBytes)

/-- Groups of a team (R285). -/
def Header.teamGroups (h : Header) : Nat := (h.team + 31) / 32

/-- Entries of the barrier store that a crew takes (R287). -/
def Header.barriers (h : Header) : Nat := h.crew * h.tbar + h.cbar

/-- Crews resident on a cluster. -/
def State.residents (s : State) (cluster : Nat) : List Crew :=
  s.crews.filter (fun c => c.cluster == cluster && c.image.isNone)

/-- The lowest place of `size` bytes, a multiple of `align`, between two bounds beside the ranges taken
(log 6, DESIGN CHOICE). -/
def gapAt (align : Nat) (taken : List (Nat × Nat)) (lo hi size : Nat) : Option Nat :=
  if size = 0 then some lo
  else
    let starts := lo :: (taken.map (fun r => (r.1 + r.2 + (align - 1)) / align * align)).filter (fun c => decide (lo ≤ c))
    leastBy (fun c => c) (starts.filter (fun c => decide (c + size ≤ hi) && taken.all (fun r => !overlap c size r.1 r.2)))

/-- In 256-byte steps. -/
def gap (taken : List (Nat × Nat)) (lo hi size : Nat) : Option Nat := gapAt 256 taken lo hi size

/-- A crew's placement as it is worked out. -/
structure Plan where
  cluster : Nat
  /-- Bytes of the cluster-shared portion of each core. -/
  split : Nat
  /-- Ranges that resident crews hold, and those of this crew: core, base, size, portion. -/
  others : List (Nat × Nat × Nat × Bool)
  mine : List (Nat × Nat × Nat × Bool)
  kbase : Nat
  /-- Base of each pool placed so far, by pool number. -/
  pools : SMap Nat
  hqs : List Nat
  teams : List Team
deriving DecidableEq, Repr

/-- Ranges taken on some of the cores (log 34, DESIGN CHOICE). -/
def Plan.ranges (p : Plan) (cores : List Nat) : List (Nat × Nat) :=
  ((p.others ++ p.mine).filter (fun x => cores.contains x.1)).map (fun x => (x.2.1, x.2.2.1))

/-- Take `size` bytes at one core-local base, a multiple of `align`, on each of the cores. -/
def Plan.takeAt (p : Plan) (align : Nat) (cores : List Nat) (size : Nat) (shared : Bool) : Option (Plan × Nat) :=
  let c := 2 ^ 20 - p.split
  match gapAt align (p.ranges cores) (if shared then c else 0) (if shared then 2 ^ 20 else c) size with
  | none => none
  | some b => some ({ p with mine := p.mine ++ (if size = 0 then [] else cores.map (fun k => (k, b, size, shared))) }, b)

/-- Take `size` bytes in 256-byte steps. -/
def Plan.take (p : Plan) (cores : List Nat) (size : Nat) (shared : Bool) : Option (Plan × Nat) :=
  p.takeAt 256 cores size shared

/-- Place pool number `i` on cores. -/
def Plan.takePool (p : Plan) (i : Nat) (cores : List Nat) (size : Nat) (shared : Bool) : Option Plan :=
  (p.take cores size shared).map (fun x => { x.1 with pools := SMap.put x.1.pools i x.2 })

/-- At most four kernels use a quad's engine (R220). -/
def State.quadFits (s : State) (kid cluster core : Nat) : Bool :=
  let gs := (s.groups.filter (fun g => quadOf g.id.cluster g.id.core == quadOf cluster core)).map (·.kid)
  let ms := (s.engine (engineNum cluster core)).metas.map (·.kid)
  let kids : List Nat := (gs ++ ms).foldl (fun acc k => addNew k acc) [kid]
  decide (kids.length ≤ 4)

/-- Place team f1 on a core, with the crew's .c pools if it is team 0 (R287, R339, R351)
(log 33, DEDUCED). -/
def State.tryTeam (s : State) (l : Launch) (p : Plan) (f1 core : Nat) : Option Plan :=
  let h := l.hdr
  let here := (p.teams.filter (fun t => t.home == core)).length
  if !s.coreFits p.cluster core ((here + 1) * h.teamGroups) h || !s.quadFits l.kid p.cluster core then none
  else match p.take [core] (h.cscr * 256 + h.wordBytes) false with
    | none => none
    | some (p, b) =>
      let p := { p with teams := p.teams ++ [{ home := core, cbase := b, awbase := b + h.cscr * 256, privbase := 0 }] }
      if f1 = 0 then
        h.pools.zipIdx.foldlM (fun p x =>
          if x.1.sp == .c && x.1.mcast == 0 then p.takePool x.2 [core] x.1.bytes false else some p) p
      else some p

/-- Each team goes to the lowest-numbered core that takes it. -/
def State.placeTeam (s : State) (l : Launch) (p : Plan) (f1 : Nat) : Option Plan :=
  (List.range 24).findSome? (s.tryTeam l p f1)

/-- Slice-local ranges of chip scratchpad in use: contexts' shares and partitions of crews (R59, R351). -/
def State.chipTaken (s : State) : List (Nat × Nat) :=
  (s.ctxs.filter (fun c => c.st != .free && c.st != .killed)).map (fun c => (c.xbase, 1024 * c.desc.xshare)) ++
  s.crews.flatMap (fun c => match s.launch? c.kid with
    | some l => (l.hdr.pools.zip c.parts).filterMap (fun x =>
        if x.1.sp == .x then some (x.2.base, x.1.xBytes) else none)
    | none => [])

/-- Place the .x pools (log 6, DESIGN CHOICE). -/
def State.placeChip (s : State) (l : Launch) (p : Plan) : Option Plan :=
  (l.hdr.pools.zipIdx.foldlM (fun (acc : Plan × List (Nat × Nat)) x =>
    if x.1.sp == .x then
      match gap acc.2 0 (2 ^ 20) x.1.xBytes with
      | none => none
      | some b => some ({ acc.1 with pools := SMap.put acc.1.pools x.2 b }, acc.2 ++ [(b, x.1.xBytes)])
    else some acc) (p, s.chipTaken)).map (·.1)

/-- The placement of the launch's next crew on a cluster, if R287 allows it there. -/
def State.plan (s : State) (l : Launch) (cluster : Nat) : Option Plan :=
  let h := l.hdr
  let rs := s.residents cluster
  let split := if rs.isEmpty then (h.kNeed + 65535) / 65536 * 65536 else SMap.get 0 s.split cluster
  let used := sumNat (rs.map (fun c => c.crewBars.length + sumNat (c.teamBars.map (·.length))))
  let keyed := rs.any (fun c => match s.launch? c.kid with
    | some x => x.hdr.keys != 0
    | none => false)
  if split > 2 ^ 20 || used + h.barriers > 512 || (h.keys != 0 && keyed) then none
  else
    let all := List.range 24
    let p : Plan := { cluster := cluster
                      split := split
                      others := rs.flatMap (·.taken)
                      mine := []
                      kbase := 0
                      pools := []
                      hqs := []
                      teams := [] }
    (p.take all (65536 * h.kshare) true).bind (fun x =>
    (h.pools.zipIdx.foldlM (fun p y =>
      if y.1.sp == .k then p.takePool y.2 all y.1.kBytes true else some p) { x.1 with kbase := x.2 }).bind (fun p =>
    (h.hqs.foldlM (fun (p : Plan) q =>
      (p.takeAt 4 [0] (h.hqBytes q) true).map (fun x => { x.1 with hqs := x.1.hqs ++ [x.2] })) p).bind (fun p =>
    (h.pools.zipIdx.foldlM (fun p y =>
      if y.1.mcast != 0 then p.takePool y.2 y.1.images y.1.bytes false else some p) p).bind (fun p =>
    ((List.range h.crew).foldlM (s.placeTeam l) p).bind (s.placeChip l)))))

/-! ### The dispatcher (R273, R274, R288) -/

/-- Crews of a launch (R284). -/
def Launch.crews (l : Launch) : Nat := l.ext.foldl (· * ·) 1

/-- The launch has a crew that waits for nothing but placement. -/
def State.candidate (s : State) (l : Launch) : Bool :=
  !l.marker && s.running l.ctx && l.argWait.isNone &&
  (match l.st with
  | .read => s.packetReady l && s.hostNamed l
  | .started => decide (l.nextCrew < l.crews)
  | _ => false)

/-- The dispatcher's order: DEADLINE, then PRIO, context and queue (R273). -/
def State.rank (s : State) (l : Launch) : Nat :=
  (((l.deadline * 4 + (3 - (s.desc l.ctx).prio)) * 256 + l.ctx) * 64 + l.q) * 2 ^ 64 + l.seq

/-- Clusters that the launch may use: PLACE, CLMASK, and online (R283, R434). -/
def State.allowed (s : State) (l : Launch) (cluster : Nat) : Bool :=
  (s.desc l.ctx).place.testBit cluster && (l.clmask == 0 || l.clmask.testBit cluster) &&
    pairGet 0 s.svc.clstate cluster == 0

/-- A packet of earlier deadline waits for a cluster of its own PLACE (R273) (log 33, DEDUCED). -/
def State.blocked (s : State) (l : Launch) (cluster : Nat) : Bool :=
  s.launches.any (fun x => s.candidate x && decide (x.deadline < l.deadline) &&
    (s.desc x.ctx).place.testBit cluster)

/-- The lowest-numbered cluster that takes the launch's next crew (R288). -/
def State.placement (s : State) (l : Launch) : Option Plan :=
  (List.range 24).findSome? (fun k => if s.allowed l k && !s.blocked l k then s.plan l k else none)

/-- The launch whose crew the dispatcher places next. -/
def State.chosen (s : State) : Option Launch :=
  leastBy s.rank (s.launches.filter (fun l => s.candidate l && (s.placement l).isSome))

/-! ### Creating a crew (R284, R285, R337, R338, R351) -/

/-- Argument words from ARGS, or the code and address of the first that cannot be read (R285). -/
def State.argWords (s : State) (ctx va n : Nat) : Except (Code × Nat) (List Word) :=
  (List.range n).foldr (fun k acc => match s.devBytes ctx (va + 4 * k) 4 with
    | .error c => .error (c, va + 4 * k)
    | .ok bs => match acc with
      | .error e => .error e
      | .ok ws => .ok (BitVec.ofNat 32 (leNat bs) :: ws)) (.ok [])

/-- The field values f2 to f5 of a crew (R284). -/
def Launch.fields (l : Launch) (n : Nat) : List Nat :=
  let e := fun k => l.ext.getD k 1
  [n % e 0, n / e 0 % e 1, n / (e 0 * e 1) % e 2, n / (e 0 * e 1 * e 2) % e 3]

/-- The WID of a thread (R284). -/
def Launch.wid (l : Launch) (crew f1 f0 : Nat) : Nat :=
  let fs := f0 :: f1 :: l.fields crew
  sumNat (fs.zipIdx.map (fun x => x.1 * 2 ^ sumNat (l.hdr.w.take x.2)))

/-- The thread of a home slot. -/
def Launch.thread (l : Launch) (crew f1 home core : Nat) : Thread where
  wid := l.wid crew f1 home
  home := home
  team := f1
  homeCore := core
  tkey := 0xFFFFFFFF
  src := 0xFFFFFFFF
  rank := 0xFFFFFFFF
  arrivals := 0

/-- Parts of ranges that another context has freed are zeroed, and every listed part of the range is
forgotten (R263, R293). -/
def State.grant (s : State) (key size ctx : Nat) : State :=
  let hit := fun (x : Nat × Nat × Nat) => overlap x.1 x.2.1 key size
  let s := s.scraps.foldl (fun (s : State) x =>
    if hit x && x.2.2 != ctx then
      let lo := Nat.max x.1 key
      s.zero lo (Nat.min (x.1 + x.2.1) (key + size) - lo)
    else s) s
  { s with scraps := s.scraps.flatMap (fun x =>
      if hit x then
        (if x.1 < key then [(x.1, key - x.1, x.2.2)] else []) ++
        (if key + size < x.1 + x.2.1 then [(key + size, x.1 + x.2.1 - (key + size), x.2.2)] else [])
      else [x]) }

/-- Zero the storage of a partition (R351). -/
def State.zeroPool (s : State) (cluster home : Nat) (d : PoolDecl) (base : Nat) : State :=
  match d.sp with
  | .c => (if d.mcast = 0 then [home] else d.images).foldl (fun (s : State) k =>
      s.zero (scratchKey cluster k base) d.bytes) s
  | .k => (List.range 24).foldl (fun (s : State) k => s.zero (scratchKey cluster k base) d.kBytes) s
  | _ => (List.range 96).foldl (fun (s : State) k => s.zero (chipKey k base) d.xBytes) s

/-- A barrier entry at placement (R337). -/
def BarEntry.members (n : Nat) : BarEntry := { BarEntry.empty with live := n }

/-- The lowest spill area that no crew of the context with a domain holds (R328)
(log 6, DESIGN CHOICE). -/
def State.spillArea (s : State) (ctx : Nat) : Nat :=
  let used := (s.crews.filter (fun c => match s.launch? c.kid with
    | some l => l.ctx == ctx && l.hdr.keys != 0
    | none => false)).map (·.spillArea)
  ((List.range 24).find? (fun a => !used.contains a)).getD 0

/-- The crew of a plan. -/
def State.newCrew (s : State) (l : Launch) (p : Plan) (ch : PlaceChoice) : Crew where
  kid := l.kid
  crew := l.nextCrew
  cluster := p.cluster
  teams := p.teams.zipIdx.map (fun x => { x.1 with privbase := ch.privBases.getD x.2 0 / 128 * 128 })
  kbase := p.kbase
  parts := l.hdr.pools.zipIdx.map (fun x => { lim := x.1.tiles, heldn := 0, tiles := [], base := SMap.get 0 p.pools x.2 })
  hqs := p.hqs.map (fun b => { slots := [], pushed := 0, base := b })
  teamBars := p.teams.map (fun _ => List.replicate l.hdr.tbar (BarEntry.members l.hdr.team))
  crewBars := List.replicate l.hdr.cbar (BarEntry.members (l.hdr.crew * l.hdr.team))
  insts := []
  instDone := 0
  lastSpill := 0
  spillArea := if l.hdr.keys = 0 then 0 else s.spillArea l.ctx
  taken := p.mine
  image := none
  stored := []

/-- Create group `n` of a team (R285). -/
def State.newGroup (s : State) (l : Launch) (args : List Word) (cluster core f1 n : Nat) : State :=
  match s.freeSlot cluster core with
  | none => s
  | some slot =>
    let id : GroupId := { cluster := cluster, core := core, slot := slot }
    let (s, gval) := s.takeSlot id
    let homes := (List.range 32).filter (fun k => decide (32 * n + k < l.hdr.team))
    let ts := homes.map (fun k => (k, l.thread l.nextCrew f1 (32 * n + k) core))
    let g := Group.start id l.ctx l.kid l.nextCrew l.hdr gval s.time ts (BitVec.ofNat 64 l.hdr.text) []
    let g := { g with s := args.zipIdx.foldl (fun m x => SMap.set 0 m x.2 x.1) [] }
    (s.addGroup g).sched g 0 g.live (BitVec.ofNat 64 l.hdr.text) f1

/-- Physical bytes of the text, by granule (R126). -/
def State.textMarks (s : State) (l : Launch) : List (Nat × Nat × Nat) :=
  let t := l.hdr.text
  let e := t + l.hdr.textlen
  (List.range ((e - 1) / 4096 - t / 4096 + 1)).filterMap (fun k =>
    let gr := t / 4096 + k
    match s.walk l.ctx (gr * 4096) with
    | .error _ => none
    | .ok (x, b) =>
      let pa := bits x 51 12 * 4096 / 2 ^ b * 2 ^ b + gr * 4096 % 2 ^ b
      if pa < localEnd then some (pa / 4096, Nat.max t (gr * 4096) - gr * 4096, Nat.min e (gr * 4096 + 4096) - gr * 4096)
      else none)

/-- The packet starts (R252, R273, R126). -/
def State.startLaunch (s : State) (l : Launch) : State :=
  let ms := s.textMarks l
  let s := s.modLaunch l.kid (fun l => { l with st := .started, marks := ms })
  s.modCtx l.ctx (fun c => if c.st == .idle then { c with st := .resident, sliceStart := s.time } else c)

/-- Create every group of the crew as one step (R287). -/
def State.placeCrew (s : State) (l : Launch) (p : Plan) (ch : PlaceChoice) (args : List Word) : State :=
  let s := if l.st == .read then s.startLaunch l else s
  let c := s.newCrew l p ch
  let home := c.home0
  let s := p.mine.foldl (fun (s : State) t => s.grant (scratchKey p.cluster t.1 t.2.1) t.2.2.1 l.ctx) s
  let s := (l.hdr.pools.zip c.parts).foldl (fun (s : State) x => s.zeroPool p.cluster home x.1 x.2.base) s
  let s := if l.hdr.tbar + l.hdr.cbar = 0 then s
    else c.teams.foldl (fun (s : State) t =>
      s.write (scratchKey p.cluster t.home t.awbase) (4 * l.hdr.team) (2 ^ (32 * l.hdr.team) - 1)) s
  let s := { s with
    crews := s.crews ++ [c]
    split := SMap.set 0 s.split p.cluster p.split }
  let s := c.teams.zipIdx.foldl (fun (s : State) t => (List.range l.hdr.teamGroups).foldl (fun (s : State) n =>
    s.newGroup l args p.cluster t.1.home t.2 n) s) s
  let s := s.modCtx l.ctx (fun c => { c with watchStart := none })
  s.modLaunch l.kid (fun l => { l with nextCrew := l.nextCrew + 1, argWait := none })

/-- The argument words cannot be read (R285, R376). -/
def State.argFailed (s : State) (l : Launch) (c : Code) (va : Nat) : State :=
  if l.st == .read then s.completePacket l 3
  else if c == .pageFault && (s.desc l.ctx).mode 64 then
    let level := match s.walk l.ctx va with
      | .error n => n
      | .ok _ => 0
    (s.faultRecord l.ctx (pageOf va) level 0 s.time).1.modLaunch l.kid (fun l => { l with argWait := some (va, level, s.time) })
  else s.argFatal l c va

/-- CREW_PLACE: the dispatcher places the next crew of the launch that it ranks first (R273, R287,
R288). -/
def execCrewPlace (kid : Nat) (ch : PlaceChoice) (s : State) : Host.Outcome State Fault Refusal :=
  match s.chosen with
  | none => .next s
  | some l =>
    if l.kid != kid then .next s
    else match s.placement l with
      | none => .next s
      | some p => match s.argWords l.ctx l.args l.hdr.nargs with
        | .error (c, va) => .next (s.argFailed l c va)
        | .ok ws => .next (s.placeCrew l p ch ws)

/-! ### The kernel boundary (R100) -/

/-- A crew's threads have all exited, and its engine operations have completed (R471). -/
def State.crewDone (s : State) (c : Crew) : Bool :=
  c.image.isNone && c.stored.isEmpty && !s.groups.any (fun g => g.kid == c.kid && g.crew == c.crew) &&
  c.insts.all (fun i => i.recs.isEmpty && i.ready.isEmpty) &&
  !s.ops.any (fun o => o.kid == c.kid && o.crew == c.crew)

/-- Every thread of the kernel has exited and every engine operation that it forked has completed. -/
def State.kernelDone (s : State) (l : Launch) : Bool :=
  l.st == .started && l.nextCrew == l.crews && (s.crews.filter (fun c => c.kid == l.kid)).all s.crewDone &&
  !s.groups.any (fun g => g.kid == l.kid) && !s.ops.any (fun o => o.kid == l.kid)

/-- Every L1 writes back its dirty private lines and drops every line (R62, R100). -/
def State.emptyL1 (s : State) : State :=
  let s := s.l1.foldl (fun (s : State) (l : L1Line) => s.evictLine l) s
  { s with l1 := [] }

/-- Leaves of class 6 of a context go at its kernel's boundary (R377). -/
def State.dropClass6 (s : State) (ctx : Nat) : State :=
  { s with page := { s.page with tlb := s.page.tlb.filter (fun t => !(t.ctx == ctx && leafLease t.leaf.toNat == 6)) } }

/-- KERNEL_BOUNDARY: the L1s are emptied, and once the kernel's write-backs are acknowledged and TIME has reached the
largest T_w of its stores the boundary has fallen (R100, R252). -/
def execKernelBoundary (kid : Nat) (s : State) : Host.Outcome State Fault Refusal :=
  match s.launch? kid with
  | none => .next s
  | some l =>
    if !s.kernelDone l || !s.running l.ctx then .next s
    else
      let s := s.emptyL1
      if s.time < l.tw || s.ops.any (fun o => o.kid == kid) then .next s
      else
        let s := (s.modLaunch kid (fun l => { l with st := .boundary, marks := [] })).dropClass6 l.ctx
        let busy := s.launches.any (fun x => x.ctx == l.ctx && x.st == .started)
        .next (s.modCtx l.ctx (fun c => if c.st == .resident && !busy then { c with st := .idle } else c))

/-! ### Retirement (R293, R367, R471) -/

/-- Tiles of a partition still HELD, and among them those with reads owed. -/
def Partition.held (p : Partition) : Nat := (p.tiles.filter (fun t => t.2.st == .held)).length

/-- Reclaim the HELD tiles of a crew: each count goes to the recorder and to the kernel's status (R367)
(log 28, DEDUCED). -/
def State.reclaim (s : State) (l : Launch) (c : Crew) : State :=
  (l.hdr.pools.zip c.parts).zipIdx.foldl (fun (s : State) x =>
    let n := x.1.2.held
    if n = 0 then s
    else
      let s := s.unit c.cluster c.home0 l.ctx 1 (x.2 * 2 ^ 68 + n % 65536 * 2 ^ 52)
      s.modLaunch l.kid (fun l => { l with
        abandoned := l.abandoned + n
        abandonFault := l.abandonFault || x.1.1.afault })) s

/-- A crew leaves the cluster and its storage is freed. -/
def State.removeCrew (s : State) (l : Launch) (c : Crew) : State :=
  let s := (s.reclaim l c).scrapAll l.ctx c
  { s with crews := s.crews.filter (fun x => !(x.kid == c.kid && x.crew == c.crew)) }

/-- CREW_RETIRE (R471). -/
def execCrewRetire (kid crew : Nat) (s : State) : Host.Outcome State Fault Refusal :=
  match s.crew? kid crew, s.launch? kid with
  | some c, some l =>
    if s.crewDone c then .next ((s.removeCrew l c).modLaunch kid (fun l => { l with retired := l.retired + 1 }))
    else .next s
  | _, _ => .next s

/-- The kernel ends with TILE_ABANDONED, or its packet completes (R293). -/
def State.endKernel (s : State) (l : Launch) : State :=
  if l.abandoned != 0 && (l.abandonFault || l.hostChoice == some true) then s.fatalCtx l.ctx .tileAbandoned l.kid
  else
    let s := { s with
      cells := s.cells.filter (fun e => e.kid != l.kid)
      engines := s.engines.map (fun (e : Nat × Engine) =>
        (e.1, { e.2 with metas := e.2.metas.filter (fun m => m.kid != l.kid) })) }
    s.completePacket l 0

/-- KERNEL_RETIRE: after the boundary, what is left is reclaimed, freed, and the packet completes; with
bit 70 of MODES the host first decides about abandoned tiles (R250, R293). -/
def execKernelRetire (kid : Nat) (s : State) : Host.Outcome State Fault Refusal :=
  match s.launch? kid with
  | none => .next s
  | some l =>
    if l.st != .boundary || !s.alive l.ctx then .next s
    else
      let s := (s.crews.filter (fun c => c.kid == kid)).foldl (fun (s : State) c => s.removeCrew l c) s
      match s.launch? kid with
      | none => .next s
      | some l =>
        if l.abandoned != 0 && !l.abandonFault && (s.desc l.ctx).mode 70 && l.hostChoice.isNone then .next s
        else .next (s.endKernel l)

/-- HOST_ABANDON_CHOICE: the host decides what abandoned tiles of a kernel mean (R250, R293). -/
def execHostAbandonChoice (kid : Nat) (fault : Bool) (s : State) : Host.Outcome State Fault Refusal :=
  match s.launch? kid with
  | none => .next s
  | some l =>
    if l.st == .boundary && l.abandoned != 0 && (s.desc l.ctx).mode 70 && l.hostChoice.isNone then
      .next (s.modLaunch kid (fun l => { l with hostChoice := some fault }))
    else .next s

end Sys2Proof.Machine
end

