-- ==== Sys2Proof/Machine/Link.lean ====
section
/-! DEFINITION. Links and messages (R388 to R410): link states, packets and their hops, messages and
posted receives, remote atomics, and what peers and the host do to local memory (R83, R99, R126). -/

namespace Sys2Proof.Machine

/-! ### Link states (R388, R389) -/

/-- STATE of a link: stitch ports 0 to 7, Waent links 8 and 9. -/
def Links.link (l : Links) (n : Nat) : Nat := if n < 8 then l.port n else pairGet 0 l.waent (n - 8)

def Links.setLink (l : Links) (n st : Nat) : Links :=
  if n < 8 then { l with pstate := pairSet l.pstate n st } else { l with waent := pairSet l.waent (n - 8) st }

/-- Move a link to a state: the host is interrupted (R408). -/
def State.moveLink (s : State) (n st : Nat) : State :=
  { s with links := s.links.setLink n st }.cause 4

/-- The context whose FABJOB holds a job with EN set, while it takes fabric traffic (R396, R410). -/
def State.jobCtx (s : State) (job : Nat) : Option Ctx :=
  s.ctxs.find? (fun c => c.fabjob.testBit 16 && c.fabjob % 65536 == job && c.st != .free && c.st != .killing &&
    c.st != .killed)

/-- The context whose host tables a held packet follows: its sender's, or at a later device that of its
job (R394) (log 38, DEDUCED). -/
def State.tableCtx (s : State) (h : Held) : Option Nat :=
  match h.ctx with
  | some c => some c
  | none => (s.jobCtx h.pkt.job).map (·.num)

/-- The kernel of the lowest-WID resident thread of a context. -/
def State.lowKid (s : State) (c : Nat) : Nat :=
  match leastBy (fun (g : Group) => g.lowWid g.live) (s.groups.filter (fun g => g.ctx == c)) with
  | some g => g.kid
  | none => 2 ^ 64

/-- A context takes a fault that belongs to no one group (R260). -/
def State.ctxFault (s : State) (c : Nat) (code : Code) : State := s.fatalCtx c code (s.lowKid c)

/-- Some part of a request is not yet performed; that of an engine transfer goes when it is performed. -/
def State.unserved (s : State) (r : Req) : Bool :=
  match s.op? r.op with
  | some o => r.parts.isEmpty || r.parts.any (fun i => match o.parts[i]? with
    | some p => p.got.isNone
    | none => false)
  | none => false

/-- Requests are lost in flight: the stores among them are never applied (R263, R389). -/
def State.loseReqs (s : State) (f : Req → Bool) : State :=
  let rs := s.reqs.filter f
  let s := rs.foldl (fun (s : State) r => s.modOp r.op (fun o => { o with
    parts := o.parts.zipIdx.map (fun (x : Part × Nat) =>
      if r.parts.contains x.2 && x.1.got.isNone then { x.1 with done := true, sysDone := true } else x.1) })) s
  { s with reqs := s.reqs.filter (fun r => !f r) }

/-- The message of an operation is in flight past one of our ports. -/
def Op.sentBy (o : Op) (n : Nat) : Bool :=
  match o.kind with
  | .msend _ _ gone => gone == some n
  | _ => false

/-- A held packet that has come to its destination here. -/
def Links.atEnd (l : Links) (h : Held) : Bool := h.pkt.dstDev == (l.seen h.port).devnum

/-- The way of a held packet on from this device, if an UP route exists (R394). -/
def State.wayOf (s : State) (h : Held) : Option Hop :=
  (s.links.seen h.port).hop h.port h.pkt.srcDev h.pkt.dstDev h.pkt.route (decide (h.pkt.cls.val ≥ 2))
    (s.tablePort (s.tableCtx h) h.pkt.dstDev)

/-- A held packet is buffered on a link: it stands at the link's input, or has come in by another and leaves by it
(R389, R469). -/
def State.bufferedOn (s : State) (n : Nat) (h : Held) : Bool :=
  decide (h.port < 8) && (h.port == n || (!s.links.atEnd h && (s.wayOf h).any (fun w => w.port == n)))

/-- The operation of ours that a reply or a completion answers. -/
def State.answered? (s : State) (k : PktHeader) : Option Op :=
  if k.typ < 4 then none
  else match s.req? k.op with
    | some r => s.op? r.op
    | none => s.op? k.op

/-- A link leaves UP: the packets buffered on it and those in flight across it are lost, and the contexts that
own them take LINK_DOWN (R389) (log 38, DEDUCED). -/
def State.loseLink (s : State) (n : Nat) : State :=
  let was : State := { s with links := s.links.setLink n 2 }
  let held := s.links.held.filter (was.bufferedOn n)
  let answers := held.filter s.links.atEnd
  let flying := fun (r : Req) => (r.link == some n && s.unserved r) || answers.any (fun h => h.pkt.op == r.id)
  let owners := answers.filterMap (fun h => (s.answered? h.pkt).map (·.ctx)) ++
    (s.reqs.filter flying).filterMap (fun r => (s.op? r.op).map (·.ctx)) ++
    (s.ops.filter (fun o => o.sentBy n)).map (·.ctx)
  let s := if (s.reqs.filter flying).isEmpty then s else s.loseReqs flying
  let s := { s with links := { s.links with
    held := s.links.held.filter (fun h => !was.bufferedOn n h)
    sent := s.links.sent.filter (fun h => h.port != n)
    leftUp := pairSet s.links.leftUp n s.nextId } }
  (owners.foldl (fun acc c => addNew c acc) []).foldl (fun (s : State) c => s.ctxFault c .linkDown) s

/-- What an operation has sent, or its answer, which may come back by any stitch port, may be lost: a link of ours
has left UP since the operation issued, or one of another device is not UP (R389) (log 38, DEDUCED). -/
def State.mayLose (s : State) (o : Op) (link : Option Nat) : Bool :=
  let left := fun (n : Nat) => decide (o.id < pairGet 0 s.links.leftUp n)
  match link with
  | some n => if n = 8 ∨ n = 9 then left n else !s.links.farDown.isEmpty || (List.range 8).any left
  | none => false

/-- A packet of an operation, or its answer, is lost on the way: its context takes LINK_DOWN (R389). -/
def State.losePacket (s : State) (op : Nat) : State :=
  match s.op? op with
  | none => s
  | some o =>
    let lost := fun (r : Req) => r.op == op && s.mayLose o r.link
    let gone := match o.kind with
      | .msend _ _ (some n) => decide (n < 11) && s.mayLose o (some n)
      | _ => false
    if gone || s.reqs.any lost then (s.loseReqs lost).ctxFault o.ctx .linkDown else s

/-- LINK_ENABLE (R388). -/
def execLinkEnable (port : Nat) (s : State) : Host.Outcome State Fault Refusal :=
  let st := s.links.link port
  if port ≥ 10 || (st != 0 && st != 3) then .next s
  else
    let s := s.moveLink port 1
    .next { s with links := { s.links with trainStart := pairSet s.links.trainStart port s.time } }

/-- STITCHCFG takes effect on a port in DOWN, and on the device while every port is (R390) (log 50, DEDUCED). -/
def Links.takeCfg (l : Links) : Links :=
  let down := (List.range 8).filter (fun p => l.port p == 0)
  { l with
    portCfg := down.foldl (fun c p => pairSet c p l.stitchcfg) l.portCfg
    cfgLive := if down.length = 8 then l.stitchcfg else l.cfgLive }

/-- LINK_DISABLE (R388): ROLE and STITCHCFG as written take effect in DOWN (R390). -/
def execLinkDisable (port : Nat) (s : State) : Host.Outcome State Fault Refusal :=
  let st := s.links.link port
  if port ≥ 10 || st == 0 then .next s
  else
    let s := s.moveLink port 0
    let s := if st = 2 then s.loseLink port else s
    .next (if port < 8 then { s with links := { s.links with
      roleLive := pairSet s.links.roleLive port (pairGet 0 s.links.role port) }.takeCfg } else s)

/-- 1 ms of training has passed (R388). -/
def State.trainOver (s : State) (n : Nat) : Bool := decide (pairGet 0 s.links.trainStart n + 1000000 ≤ s.time)

/-- LINK_TRAINED (R388). -/
def execLinkTrained (link : Nat) (s : State) : Host.Outcome State Fault Refusal :=
  if link < 10 && s.links.link link == 1 && !s.trainOver link then .next (s.moveLink link 2) else .next s

/-- LINK_TRAIN_TIMEOUT (R388). -/
def execLinkTrainTimeout (link : Nat) (s : State) : Host.Outcome State Fault Refusal :=
  if link < 10 && s.links.link link == 1 && s.trainOver link then .next (s.moveLink link 3) else .next s

/-- An UP link fails (R388, R389). -/
def State.failLink (s : State) (n : Nat) : State :=
  if n < 10 && s.links.link n == 2 then (s.moveLink n 3).loseLink n else s

/-- LINK_RETRY_FAIL: a flit is still in error after 16 retries (R388). -/
def execLinkRetryFail (link : Nat) (s : State) : Host.Outcome State Fault Refusal := .next (s.failLink link)

/-- FIBRE_LOCK_LOSS: a fibre has lost lock for 10 µs (R388). -/
def execFibreLockLoss (link : Nat) (s : State) : Host.Outcome State Fault Refusal := .next (s.failLink link)

/-- FLIT_RECEIVE: a flit's CRC is checked; a retry changes only latency (R388). -/
def execFlitReceive (_link : Nat) (_crcOk : Bool) (s : State) : Host.Outcome State Fault Refusal := .next s

/-- CREDIT_REPORT: the neighbour of a port reports its free slots (R392) (log 57, DEDUCED). -/
def execCreditReport (port sh e0 e1 : Nat) (s : State) : Host.Outcome State Fault Refusal :=
  if port < 8 && s.links.port port == 2 then
    let f := Nat.min sh 1024 + Nat.min e0 66 * 2 ^ 11 + Nat.min e1 66 * 2 ^ 18
    .next { s with links := { s.links with
      free := pairSet s.links.free port f
      sent := s.links.sent.filter (fun h => h.port != port)
      spent := s.links.spent.filter (fun x => x.1 / 3 != port) } }
  else .next s

/-! ### Packets (R391 to R395) -/

/-- A key for one order of sequence numbers: sending group and destination (R398). -/
def flowKey (flow dstDev dstClu : Nat) : Nat := (flow * 512 + dstDev) * 32 + dstClu

/-- The sending group of a packet, as one number. -/
def Group.flow (g : Group) : Nat := g.id.num * 2 ^ 32 + g.gval.toNat

/-- Storage key of an offset of a buffer of an operation. -/
def State.bufKey (s : State) (kid crew : Nat) (r : Region) (off : Nat) : Nat :=
  match s.crew? kid crew with
  | none => 0
  | some c => match r.space with
    | .k => kKey c.cluster c.kbase (r.base + off)
    | _ => c.cKey r.team (r.base + off)

/-- The payload of a message is read once the group's earlier stores are acknowledged (R90, R401)
(log 39, DEDUCED). -/
def State.payload (s : State) (h : Held) : Option (List Byte) :=
  if !h.unread then some h.pkt.payload
  else match s.op? h.pkt.op with
    | none => none
    | some o => match o.kind with
      | .msend buf len _ =>
        if s.forkReady o then some ((List.range len).map (fun k => s.byte (s.bufKey o.kid o.crew buf k))) else none
      | _ => none

/-- The message of an operation has left by a port, or is answered (11). -/
def State.setGone (s : State) (op n : Nat) : State :=
  s.modOp op (fun o => match o.kind with
    | .msend buf len _ => { o with kind := .msend buf len (some n) }
    | _ => o)

/-- A message sent here has left by a port, or has been delivered here (11). -/
def State.sendGone (s : State) (h : Held) (n : Nat) : State := if h.ctx.isNone then s else s.setGone h.pkt.op n

/-- Take a held packet out. -/
def State.dropHeld (s : State) (n : Nat) : State :=
  { s with links := { s.links with held := s.links.held.eraseIdx n } }

/-- A packet is discarded (R391, R396, R416). -/
def State.discardPacket (s : State) (p : PktHeader) (reason : Nat) : State :=
  s.unit p.dstClu 0 0 2 (p.srcDev % 512 * 2 ^ 63 + p.srcClu % 32 * 2 ^ 58 + reason * 2 ^ 56)

/-- The peer of a request: by the address, or of a `ratom` by the word it names (R64, R405). -/
def Req.peer (r : Req) : Nat := if r.line ≥ 2 ^ 58 then (r.line - 2 ^ 58) / 2 ^ 48 else bits r.line 48 40

/-- Flits of the packet of a request: a store carries its bytes (R391). -/
def State.reqFlits (s : State) (r : Req) : Nat :=
  match s.op? r.op with
  | some o => if o.kind == .store || o.kind == .writeback then
      1 + (sumNat (r.parts.map (fun i => (o.parts[i]?.map (·.size)).getD 0)) + 63) / 64
    else 1
  | none => 1

/-- A request leaves by a link, in a class. -/
def State.departBy (s : State) (r : Req) (link cls : Nat) : State :=
  { s with reqs := s.reqs.map (fun (x : Req) =>
    if x.id == r.id then { x with sent := true, link := some link, cls := cls } else x) }

/-- The packet of a request to a peer, or to the host, leaves: by a port whose neighbour has slots for it, or by
the lowest Waent link that is UP (R389, R392, R394). Without an UP route its context takes LINK_DOWN. -/
def State.depart (s : State) (r : Req) (o : Op) : State :=
  let cut := (s.loseReqs (fun x => x.id == r.id)).ctxFault o.ctx .linkDown
  if r.slice = 97 then
    match [0, 1].find? (fun k => pairGet 0 s.links.waent k == 2) with
    | some k => s.departBy r (8 + k) 0
    | none => cut
  else
    let table := s.tablePort (some o.ctx) r.peer
    let dev := s.links.devnum
    if (s.links.hop 8 dev r.peer .minimal false table).isNone then cut
    else match s.links.moves 8 dev r.peer 0 (s.reqFlits r) .minimal table with
      | none => s
      | some (hop, c) => { s.departBy r hop.port c with links := s.links.spend hop.port c (s.reqFlits r) }

/-- An operation's packets are beyond the next device. -/
def State.sendOn (s : State) (op : Nat) : State :=
  let s : State := { s with
    reqs := s.reqs.map (fun (x : Req) =>
      if x.op == op && x.link.isSome && x.slice == 96 then { x with link := some 10 } else x)
    links := { s.links with sent := s.links.sent.filter (fun h => h.ctx.isNone || h.pkt.op != op) } }
  s.modOp op (fun o => match o.kind with
    | .msend buf len (some n) => if n < 8 then { o with kind := .msend buf len (some 10) } else o
    | _ => o)

/-- A held packet is at the head of its class at its input; packets for this device are taken out of turn by
the ingress, and those sent here wait in no input (R392, R395, R398). -/
def Links.atHead (l : Links) (dev n : Nat) (h : Held) : Bool :=
  decide (h.port ≥ 8) || !(l.held.take n).any (fun x => x.port == h.port && x.pkt.cls == h.pkt.cls &&
    x.pkt.dstDev != dev)

/-- A completion leaves once TIME has reached its T_w (R83). -/
def State.mayLeave (s : State) (h : Held) : Bool :=
  match h.pkt.body with
  | .reply _ tw => h.pkt.typ != 5 || decide (tw ≤ s.time)
  | _ => true

/-- A packet leaves by a port in a class, and takes its slots at the neighbour (R392, R393). -/
def State.leaveBy (s : State) (port cls : Nat) (h : Held) (data : List Byte) : State :=
  let l := s.links.spend port cls (pktFlits h.pkt)
  { s with links := { l with sent := l.sent ++
    [{ port := port, pkt := { h.pkt with cls := Fin.ofNat 4 cls, payload := data }, ctx := h.ctx, unread := false }] } }

/-- PACKET_HOP: a packet comes in by a port, into free slots of its class; or a held packet at the head of its
class moves to the next device once its slots there can take it (R391 to R395). -/
def execPacketHop (a : HopAct) (s : State) : Host.Outcome State Fault Refusal :=
  match a with
  | .enter port pkt =>
    let l := s.links.seen port
    if port ≥ 8 || l.port port != 2 || l.roleOf port == 0 || l.extent ((l.roleOf port - 1) / 2) == 1 then .next s
    else if pkt.typ ≥ 6 || !l.inExtents pkt.dstDev then .next (s.discardPacket pkt 0)
    else if s.links.inputFree port pkt.cls.val < pktFlits pkt then .next s
    else .next { s with links := { s.links with
      held := s.links.held ++ [{ port := port, pkt := pkt, ctx := none, unread := false }] } }
  | .forward n =>
    match s.links.held[n]? with
    | none => .next s
    | some h =>
      let l := s.links.seen h.port
      if h.pkt.dstDev == l.devnum || !l.atHead l.devnum n h || !s.mayLeave h then .next s
      else
        if (s.wayOf h).isNone then
          let s' := s.dropHeld n
          .next (match h.ctx with
            | some c => s'.ctxFault c .linkDown
            | none => s')
        else match l.moves h.port h.pkt.srcDev h.pkt.dstDev h.pkt.cls.val (pktFlits h.pkt) h.pkt.route
            (s.tablePort (s.tableCtx h) h.pkt.dstDev), s.payload h with
          | some (hop, c), some data => .next ((s.sendGone h hop.port).dropHeld n |>.leaveBy hop.port c h data)
          | _, _ => .next s
  | .depart req =>
    match s.req? req with
    | none => .next s
    | some r => match s.op? r.op with
      | none => .next s
      | some o => if r.sent || r.slice < 96 then .next s else .next (s.depart r o)
  | .onward op => .next (s.sendOn op)

/-- An answer to a packet goes back to its sender (R391). -/
def State.answer (s : State) (k : PktHeader) (typ : Nat) (data : List Byte) (code tw : Nat) : State :=
  let pkt : PktHeader := { k with
    seq := 0
    cls := 0
    len := data.length
    typ := typ
    srcClu := k.dstClu
    srcDev := k.dstDev
    dstClu := k.srcClu
    dstDev := k.srcDev
    payload := data
    route := .minimal
    body := .reply code tw }
  { s with links := { s.links with held := s.links.held ++ [{ port := 8, pkt := pkt, ctx := none, unread := false }] } }

/-! ### Messages (R396 to R398) -/

/-- The status word of R403. -/
def pktStatus (p : PktHeader) (trunc : Bool) : Nat :=
  p.len % 4096 + bit01 trunc * 2 ^ 12 + p.srcClu % 32 * 2 ^ 13 + p.srcDev % 512 * 2 ^ 18

/-- A selector and tag match a packet (R397, R399). -/
def selMatches (sel tag : Nat) (p : PktHeader) : Bool :=
  tag == p.tag && (sel == 0x80000000 || sel == p.srcDev + p.srcClu * 512)

/-- Write a payload into a buffer of words, as far as the buffer goes (R398). -/
def State.fillBuffer (s : State) (keys : List Nat) (data : List Byte) : State :=
  keys.zipIdx.foldl (fun (s : State) x => s.writeBytes x.1 ((data.drop (4 * x.2)).take 4)) s

/-- The receive's instruction completes on path 7 (R402) (log 21, DEDUCED). -/
def State.endReceive (s : State) (op : Nat) : State :=
  match s.op? op with
  | some o => (s.completeOp o).delOp op
  | none => s

/-- A receive takes an arrival: the payload is written, then the receive completes (R397). -/
def State.takeMessage (s : State) (p : Posted) (k : PktHeader) : State :=
  let s := s.fillBuffer p.key k.payload
  let st := pktStatus k (decide (k.len > p.len))
  let s := { s with links := { s.links with posted := s.links.posted.map (fun (x : Posted) =>
    if x.cluster == p.cluster && x.entry == p.entry then { x with status := some st } else x) } }
  s.endReceive p.op

/-- An arrival for a context on a cluster: the first posted receive that matches, or the overflow queue
(R397). -/
def State.matchMessage (s : State) (c cluster : Nat) (k : PktHeader) : State :=
  let ps := s.links.posted.filter (fun p => p.cluster == cluster && p.ctx == c && p.status.isNone &&
    selMatches p.sel p.tag k)
  match leastBy (fun (p : Posted) => p.order) ps with
  | some p => s.takeMessage p k
  | none =>
    if (s.links.overflow.filter (fun o => o.cluster == cluster)).length ≥ 64 then s.ctxFault c .linkOverflow
    else { s with links := { s.links with overflow := s.links.overflow ++ [{ cluster := cluster, ctx := c, pkt := k }] } }

/-- A logged arrival. -/
def pktItem (k : PktHeader) : List Nat :=
  [8, k.seq, k.cls.val, k.len, k.job, k.tag, k.typ, k.srcClu, k.srcDev, k.dstClu, k.dstDev, k.flow, k.op] ++
    k.payload.map (·.toNat)

/-- Deliver a message at its destination (R396, R397): a recorded context logs it, and a replayed one
takes no live message (R429, R430). -/
def State.deliverMessage (s : State) (k : PktHeader) : State :=
  match s.jobCtx k.job with
  | none => s.discardPacket k 1
  | some c =>
    if !c.desc.place.testBit k.dstClu then s.discardPacket k 1
    else if c.st == .saved then
      -- a 65th entry stands for the arrivals that found the image full
      let n := (c.msgImage.filter (fun m => m.1 == k.dstClu)).length
      if n > 64 then s
      else (s.setCtx { c with msgImage := c.msgImage ++ [(k.dstClu, k)] }).keepMessage c.desc k.dstClu n k
    else if c.replayMode = 2 then s.discardPacket k 1
    else
      let s := if c.replayMode = 1 then s.addLog c.num (srcCluster k.dstClu) (pktItem k) else s
      s.matchMessage c.num k.dstClu k

/-- A peer reports that a request of ours is complete at system scope (R83). -/
def State.completeReq (s : State) (req : Nat) : State :=
  match execCompletionReply req s with
  | .next t => t
  | _ => s

/-- A reply or a completion reaches what it answers: a message, or a request of ours to that peer (R391,
R401). -/
def State.takeReply (s : State) (k : PktHeader) : State :=
  match s.req? k.op with
  | some r =>
    if r.slice != 96 || r.peer != k.srcDev || s.unserved r then s
    else if k.typ = 5 then s.completeReq r.id
    else { s with reqs := s.reqs.map (fun (x : Req) => if x.id == r.id then { x with back := true } else x) }
  | none => match s.op? k.op with
    | some o => match o.kind with
      | .msend _ _ (some _) => if k.typ = 5 then s.setGone k.op 11 else s
      | _ => s
    | none => s

/-- MESSAGE_ARRIVAL: a message held at its destination here is delivered in its sender's order and answered
(R397, R398, R401); an answer reaches what it answers (R391). -/
def execMessageArrival (n : Nat) (s : State) : Host.Outcome State Fault Refusal :=
  match s.links.held[n]? with
  | none => .next s
  | some h =>
    if !s.links.atEnd h then .next s
    else if h.pkt.typ ≥ 4 then .next ((s.dropHeld n).takeReply h.pkt)
    else if h.pkt.typ != 0 then .next s
    else
      let key := flowKey (h.pkt.flow * 512 + h.pkt.srcDev) h.pkt.dstDev h.pkt.dstClu
      let next := pairGet 0 s.links.seqIn key
      if h.pkt.seq != next then .next s
      else match s.payload h with
        | none => .next s
        | some data =>
          let s := (s.sendGone h 11).dropHeld n
          let s := { s with links := { s.links with seqIn := pairSet s.links.seqIn key ((next + 1) % 2 ^ 32) } }
          let s := s.deliverMessage { h.pkt with payload := data }
          .next (if h.ctx.isSome then s else s.answer h.pkt 5 [] 0 0)

/-- MESSAGE_ANSWER: the destination's answer reaches the sender (R401). -/
def execMessageAnswer (op : Nat) (s : State) : Host.Outcome State Fault Refusal :=
  match s.op? op with
  | none => .next s
  | some o => match o.kind with
    | .msend _ _ (some 11) => .next ((s.completeOp o).delOp op)
    | _ => .next s

/-! ### msend, mrecv, mprobe, mwaitr (R399 to R404) -/

/-- A destination word, or with `sel` a selector, is well formed (R399). -/
def Links.wordOk (l : Links) (w : Nat) (sel : Bool) : Bool :=
  (sel && w == 0x80000000) || decide (w < 2 ^ 14 ∧ w / 512 < 24) && l.inExtents (w % 512)

/-- The checks that `msend` and `mrecv` share, in R401's order (log 38, DEDUCED). -/
def State.bufferTrap (s : State) (g : Group) (sp : Space) (w : Nat) (sel : Bool) (off len tag : Nat) : Option (Code × Nat) :=
  if !s.links.wordOk w sel || len > 2048 || len % 4 != 0 then some (.illegalOperand, 0)
  else if tag ≥ 0x8000 then some (.tagRange, 0)
  else if off % 4 != 0 then some (.misaligned, 7)
  else if off + len > s.regionSize g sp then some (.spaceBounds, 7)
  else none

/-- A buffer of a group (R400). -/
def Group.buffer (g : Group) (k : Bool) (off : Nat) : Region where
  space := if k then .k else .c
  base := off
  team := g.cTeam true 0

/-- `msend` (R401). -/
def execMsend (f : MsendForm) (s : State) : Host.Outcome State Fault Refusal :=
  issue (.msend f) s (fun s g p =>
    if !g.guard f.gd then .done s
    else
      let dst := (g.rdS p f.a).toNat
      let len := (g.rdS p f.c).toNat
      let buf := g.buffer f.k (g.rdS p f.b).toNat
      match s.bufferTrap g buf.space dst false buf.base len f.tag.toNat with
      | some (c, detail) => .trap c (lowLane p.mask) detail 0
      | none =>
        if !s.routeUp g.ctx (dst % 512) f.route then .trap .linkDown (lowLane p.mask) 0 0
        else if g.full [7] then .hold 2 true
        else
          let o := s.newOp g p p.mask (.msend buf len none) [] [7] []
          let key := flowKey g.flow (dst % 512) (dst / 512)
          let seq := pairGet 0 s.links.seqOut key
          let pkt : PktHeader := {
            seq := seq
            cls := 0
            len := len
            job := (s.ctxOf g.ctx).fabjob % 65536
            tag := f.tag.toNat
            typ := 0
            srcClu := g.id.cluster
            srcDev := s.links.devnum
            dstClu := dst / 512
            dstDev := dst % 512
            payload := []
            route := f.route
            flow := g.flow
            op := o.id
            body := .none }
          let s := (s.startOp g o [] []).recordMem g { space := buf.space, a := buf.base, handle := 0 } 7 false
          .done { s with links := { s.links with
            held := s.links.held ++ [{ port := 8, pkt := pkt, ctx := some g.ctx, unread := true }]
            seqOut := pairSet s.links.seqOut key ((seq + 1) % 2 ^ 32) } })

/-- Posted-receive entries of a cluster in use. -/
def State.entriesUsed (s : State) (cluster : Nat) : List Nat :=
  (s.links.posted.filter (fun p => p.cluster == cluster)).map (·.entry)

/-- `mrecv` (R402) (log 21, DEDUCED). -/
def execMrecv (f : MrecvForm) (s : State) : Host.Outcome State Fault Refusal :=
  issue (.mrecv f) s (fun s g p =>
    if !g.guard f.gd then .done s
    else
      let sel := (g.rdS p f.a).toNat
      let len := (g.rdS p f.c).toNat
      let buf := g.buffer f.k (g.rdS p f.b).toNat
      let cl := g.id.cluster
      match s.bufferTrap g buf.space sel true buf.base len f.tag.toNat with
      | some (c, detail) => .trap c (lowLane p.mask) detail 0
      | none => match (List.range 128).find? (fun e => !(s.entriesUsed cl).contains e) with
        | none => .wait s .mrecv
        | some e =>
          if g.full [7] then .hold 2 true
          else
            let gen := (pairGet 0 s.links.rgen (cl * 128 + e) + 1) % 256
            let keys := (List.range (len / 4)).map (fun k => s.bufKey g.kid g.crew buf (4 * k))
            let early := s.links.overflow.find? (fun o => o.cluster == cl && o.ctx == g.ctx &&
              selMatches sel f.tag.toNat o.pkt)
            let rid := gen * 256 + e
            let o := s.newOp g p p.mask (.mrecv rid) [] [7] []
            let post : Posted := {
              cluster := cl
              ctx := g.ctx
              kid := g.kid
              crew := g.crew
              entry := e
              gen := gen
              sel := sel
              tag := f.tag.toNat
              key := keys
              len := len
              op := o.id
              status := none
              order := o.id }
            let s := (s.startOp g o [] []).modGroup g.id (fun g => g.setReg (192 + f.d.val) 0 (BitVec.ofNat 32 rid))
            let s := { s with links := { s.links with
              posted := s.links.posted ++ [post]
              rgen := pairSet s.links.rgen (cl * 128 + e) gen } }
            let s := s.recordMem g { space := buf.space, a := buf.base, handle := 0 } 7 true
            match early with
            | none => .done s
            | some m =>
              let s := { s with links := { s.links with overflow := s.links.overflow.erase m } }
              .done (s.takeMessage post m.pkt))

/-- `mprobe` (R403). -/
def execMprobe (f : MprobeForm) (s : State) : Host.Outcome State Fault Refusal :=
  issue (.mprobe f) s (fun s g p =>
    if !g.guard f.gd then .done s
    else
      let sel := (g.rdS p f.a).toNat
      if !s.links.wordOk sel true then .trap .illegalOperand (lowLane p.mask) 0 0
      else if f.tag.toNat ≥ 0x8000 then .trap .tagRange (lowLane p.mask) 0 0
      else
        let v := match s.links.overflow.find? (fun o => o.cluster == g.id.cluster && o.ctx == g.ctx &&
            selMatches sel f.tag.toNat o.pkt) with
          | some o => pktStatus o.pkt false
          | none => 0xFFFFFFFF
        .done (s.setGroup (g.setReg (192 + f.d.val) 0 (BitVec.ofNat 32 v))))

/-- The wait of `mwaitr` (R404) (log 20, DEDUCED). -/
def mwaitrBody (gd : Guard) (d a : Fin 64) (us : Option Nat) (s : State) (g : Group) (p : Path) : Res :=
  if !g.guard gd then .done s
  else
    let id := (g.rdS p a).toNat
    let bad := id.testBit 7 || decide (id ≥ 65536)
    match (s.posted? g.id.cluster id).filter (fun x => !bad && x.kid == g.kid && x.crew == g.crew) with
    | none => .trap .illegalOperand (lowLane p.mask) 0 0
    | some x => match x.status with
      | some v =>
        let s := { s with links := { s.links with posted := s.links.posted.filter (fun y =>
          !(y.cluster == x.cluster && y.entry == x.entry)) } }
        .done (s.setGroup (g.setReg (192 + d.val) 0 (BitVec.ofNat 32 v)))
      | none =>
        if p.timedOut then .done (s.setGroup (g.setReg (192 + d.val) 0 0xFFFFFFFF))
        else
          let outside := x.sel == 0x80000000 || x.sel % 512 != s.links.devnum
          let deadline := match p.park with
            | some (.mwaitr _ _ dl) => dl
            | _ => us.map (fun n => s.time + n * 1000)
          .wait s (.mwaitr id outside deadline)

/-- `mwaitr`, 64-bit form (R404). -/
def execMwaitr (gd : Guard) (ext : Bool) (d a : Fin 64) (s : State) : Host.Outcome State Fault Refusal :=
  issue (.mwaitr gd ext d a) s (mwaitrBody gd d a none)

/-- `mwaitr.ext`, 96-bit form (R404). -/
def execMwaitrExt (gd : Guard) (d a : Fin 64) (us : Word) (s : State) : Host.Outcome State Fault Refusal :=
  issue (.mwaitrExt gd d a us) s (mwaitrBody gd d a (some us.toNat))

/-- MWAITR_TIMEOUT: the timeout passes first (R404). -/
def execMwaitrTimeout (i : GroupId) (path : Nat) (s : State) : Host.Outcome State Fault Refusal :=
  match s.group? i with
  | none => .next s
  | some g => match g.path? path with
    | none => .next s
    | some p => match p.park with
      | some (.mwaitr rid e (some d)) =>
        if decide (d ≤ s.time) && !s.waitOver g p (.mwaitr rid e (some d)) then
          .next (s.setGroup (g.setPath { p with timedOut := true }))
        else .next s
      | _ => .next s

/-! ### ratom (R405) -/

/-- Storage key of a word of chip scratchpad of another device's context. -/
def remoteKey (dev job off : Nat) : Nat := 2 ^ 58 + (dev * 2 ^ 16 + job) * 2 ^ 32 + off

/-- What the two forms of `ratom` share. -/
structure Remote where
  g : Bool
  gd : Guard
  op : AtomOp
  w64 : Bool
  d : Option Reg
  a : Fin 64
  b : Reg
  c : Fin 64
  e : Option (Fin 64)

/-- `ratom`: on this device an atomic in .x, else a request to the peer's context (R405). -/
def ratomBody (f : Remote) (s : State) (g : Group) (p : Path) : Res :=
  let ls := g.acting p f.g f.gd
  let n := if f.w64 then 8 else 4
  let dev := (g.rdS p f.a).toNat
  let dest := f.d.map (fun d => resultDest f.g d (wregs f.w64) (maskOf ls))
  let fin := fun (s : State) (o : Option Nat) => if f.d.isSome then Res.long s o else Res.done s
  let b := g.num p f.w64 (.s f.c) 0
  let c := match f.e with
    | some e => g.num p f.w64 (.s e) 0
    | none => 0
  let off := fun (l : Nat) => (g.rd p f.b.code l).toNat
  match ls with
  | [] => fin s none
  | l0 :: _ =>
    if !s.links.inExtents dev then .trap .illegalOperand l0 0 0
    else if dev = s.links.devnum then
      homeAccess
        { want := atomWant .atomic n f.g .misalignedAtomic
          kind := .atom f.op f.w64 dest
          path := 4
          b := fun _ => b
          c := fun _ => c
          long := f.d.isSome } ls (fun l => { space := .x, a := off l, handle := 0 }) s g p
    else
      let path := if f.d.isSome then 0 else 1
      match ls.find? (fun l => off l % n != 0) with
      | some l => .trap .misalignedAtomic l path 0
      | none =>
        if !s.routeUp g.ctx dev .minimal then .trap .linkDown l0 path 0
        else if g.full [path] then .hold 2 true
        else
          let job := (s.ctxOf g.ctx).fabjob % 65536
          let parts := ls.map (fun l =>
            let x : Piece := { idx := 0, path := path, key := remoteKey dev job (off l), size := n, via := .peer dev,
                               lease := 0, order := 0 }
            x.part l (g.owner f.g l) b c)
          let o := s.newOp g p (maskOf ls) (.ratom f.op f.w64 dest) parts [path] []
          let s := s.startOp g o (ls.map (fun _ => 0)) []
          fin (s.recordMem g { space := .x, a := off l0, handle := 0 } path true) (some o.id)

/-- `ratom`, 64-bit form (R405). -/
def execRatom (f : RatomForm) (s : State) : Host.Outcome State Fault Refusal :=
  issue (.ratom f) s (ratomBody { g := f.g, gd := f.gd, op := f.op, w64 := f.w64, d := f.d, a := f.a, b := f.b,
                                  c := f.c, e := none })

/-- `ratom.cas`, 128-bit form (R405). -/
def execRatomCas (f : RatomCasForm) (s : State) : Host.Outcome State Fault Refusal :=
  issue (.ratomCas f) s (ratomBody { g := f.g, gd := f.gd, op := .cas, w64 := f.w64, d := f.d, a := f.a, b := f.b,
                                     c := f.c, e := some f.e })

/-! ### Peers and the host (R83, R99, R126, R406, R407) -/

/-- Why another device's context refuses an access of a `ratom` (R405) (log 39, DEDUCED). -/
def State.remoteRefusal (s : State) (p : Part) : Option Code :=
  let k := p.key - 2 ^ 58
  match s.links.peerX.find? (fun x => x.1 == k / 2 ^ 32) with
  | none => some .protection
  | some (_, x) => if k % 2 ^ 32 + p.size > 96 * 1024 * x then some .spaceBounds else none

/-- A `ratom` that the peer refuses: its group takes the fault, with KIND 3 and the instruction's
address (R259, R405). -/
def State.refuseRemote (s : State) (o : Op) (c : Code) : State :=
  let path := o.paths.headD 0
  let s' := { (s.completeOp o) with reqs := s.reqs.filter (fun r => r.op != o.id) }.delOp o.id
  match s'.opGroup o with
  | none => s'
  | some g => s'.trap g { path := none, code := some c, lane := 0, kind := 3, detail := path, space := 0, va := 0,
                          pc := o.pc, wid := some o.low, order := some o.id }

def OpKind.atomic : OpKind → Bool
  | .atom _ _ _ | .ldr _ _ | .stc _ _ | .ratom _ _ _ => true
  | _ => false

/-- Take a word into the cache of an ingress controller, which holds 64 (R406). -/
def Links.cacheWord (l : Links) (pa v order : Nat) : Links :=
  let port := bits pa 9 7
  let rest := l.icache.filter (fun w => !(w.1 == port && w.2.1 == pa / 8 * 8))
  let mine := rest.filter (fun w => w.1 == port)
  let rest := if mine.length ≥ 64 then match mine with
      | w :: _ => rest.erase w
      | [] => rest
    else rest
  { l with icache := rest ++ [(port, pa / 8 * 8, v, order)] }

/-- A write from outside that meets live text is discarded and recorded (R126, R416). -/
def State.textHit (s : State) (pa size : Nat) : Option Nat :=
  (s.launches.find? (fun l => l.marks.any (fun m => overlap (m.1 * 4096 + m.2.1) (m.2.2 - m.2.1) pa size))).map (·.ctx)

/-- A discarded write leaves its UNIT record (R416) (log 40, DEDUCED). -/
def State.discardWrite (s : State) (ctx src pa : Nat) : State :=
  s.unit 0 0 ctx 5 (src * 2 ^ 71 + bits pa 51 2 * 2 ^ 21)

/-- Lines of a range. -/
def linesIn (pa size : Nat) : List Nat := (List.range ((pa + size - 1) / 128 - pa / 128 + 1)).map (fun k => (pa / 128 + k) * 128)

/-- A write of local memory from outside: the state, and its T_w where it is applied (R99, R126). -/
def State.outsideWrite (s : State) (src pa size data : Nat) : State × Nat :=
  if size = 0 || pa + size > localEnd then (s, 0)
  else match s.textHit pa size with
    | some c => (s.discardWrite c src pa, 0)
    | none =>
      let tw := maxNat ((linesIn pa size).map s.writeTime)
      let s := (linesIn pa size).foldl (fun (s : State) l => s.releaseIngress l) s
      (s.applyStore outsider pa size data, tw)

/-- A peer's packet of a TYPE that has come in by a stitch port to its destination here (R26). -/
def State.peerPacket (s : State) (n typ : Nat) : Option PktHeader :=
  match s.links.held[n]? with
  | some h => if h.port < 8 && h.pkt.typ == typ && s.links.atEnd h then some h.pkt else none
  | none => none

/-- Physical place of a word that a peer's atomic names: in local HBM4, or in the share of chip scratchpad of
the context that has the packet's job; or the code of the refusal (R405, R406). -/
def State.peerWord (s : State) (k : PktHeader) (share : Bool) (a n : Nat) : Except Code Nat :=
  if share then
    match s.jobCtx k.job with
    | none => .error .protection
    | some c => if a + n > 96 * 1024 * c.desc.xshare then .error .spaceBounds else .ok (xKey c.xbase a)
  else if a + n > localEnd then .error .protection
  else .ok a

/-- T_w of a write of local memory, or of chip scratchpad, which has no leases (R80). -/
def State.rangeTw (s : State) (key size : Nat) : Nat :=
  if key ≥ 2 ^ 49 then 0 else maxNat ((linesIn key size).map s.writeTime)

/-- Our ingress controller performs a peer's atomic on a word that it takes into its cache; the reply brings
the old value, and the completion the T_w (R405, R406). -/
def State.peerAtomic (s : State) (k : PktHeader) (share : Bool) (a : Nat) (w64 : Bool) (op : AtomOp) (b c : Nat) :
    State :=
  let n := if w64 then 8 else 4
  match s.peerWord k share a n with
  | .error e => s.answer k 4 [] e.num 0
  | .ok key =>
    match if a % n != 0 then some 0 else s.textHit key n with
    | some x => (if a % n != 0 then s else s.discardWrite x 1 key).answer k 4 [] 0 0
    | none =>
      let tw := s.rangeTw key n
      let old := s.read key n
      let s := (s.releaseIngress (lineOf key)).applyStore outsider key n (op.apply w64 old b c)
      let s := { s with
        links := s.links.cacheWord key (s.read (key / 8 * 8) 8) s.nextId
        nextId := s.nextId + 1 }
      (s.answer k 4 ((List.range n).map (fun j => BitVec.ofNat 8 (old / 256 ^ j))) 0 0).answer k 5 [] 0 tw

/-- PEER_INGRESS_ATOMIC: the ingress controller of a peer performs our atomic, ours performs a peer's,
or a word leaves its cache (R405, R406). -/
def execPeerIngressAtomic (a : IngressAtomic) (s : State) : Host.Outcome State Fault Refusal :=
  match a with
  | .outbound req =>
    match (s.req? req).bind (fun r => (s.op? r.op).bind (fun o => (r.nextPart o).map (fun x => (r, o, x.2)))) with
    | none => .next s
    | some (r, o, p) =>
      let remote : Bool := match o.kind with
        | .ratom _ _ _ => true
        | _ => false
      match if remote && r.sent then s.remoteRefusal p else none with
      | some c => .next (s.refuseRemote o c)
      | none => .next (s.serve req OpKind.atomic (fun r => r.slice == 96) none)
  | .inbound n => match s.peerPacket n 3 with
    | none => .next s
    | some k => match k.body with
      | .atomic share at_ w64 op b c => .next ((s.dropHeld n).peerAtomic k share at_ w64 op b c)
      | _ => .next (s.dropHeld n)
  | .evict port =>
    match s.links.icache.find? (fun w => w.1 == port) with
    | none => .next s
    | some w => .next { s with links := { s.links with icache := s.links.icache.erase w } }

/-- HOST_ATOMIC: the Waent adapter performs an atomic on host memory (R407). -/
def execHostAtomic (req : Nat) (s : State) : Host.Outcome State Fault Refusal :=
  .next (s.serve req OpKind.atomic (fun r => r.slice == 97) none)

/-- INGRESS_WRITE: a peer's port or the adapter accepts our store; or a peer's store, which has come in by a
port, is applied here, accepted by a reply and reported complete at its T_w (R83, R126). -/
def execIngressWrite (a : IngressAct) (s : State) : Host.Outcome State Fault Refusal :=
  match a with
  | .outbound req => .next (s.serve req (fun k => match k with
      | .store | .writeback => true
      | _ => false) (fun r => decide (r.slice ≥ 96)) none)
  | .inbound n => match s.peerPacket n 2 with
    | none => .next s
    | some k => match k.body with
      | .addr pa size =>
        let (s, tw) := (s.dropHeld n).outsideWrite 1 pa size (leNat k.payload)
        .next ((s.answer k 4 [] 0 0).answer k 5 [] 0 tw)
      | _ => .next (s.dropHeld n)

/-- INGRESS_READ: our read is served at a peer or in host memory; or a peer's read, which has come in by a port,
is served at the home slice of the line, and a reply packet leaves (R391). -/
def execIngressRead (a : IngressAct) (s : State) : Host.Outcome State Fault Refusal :=
  match a with
  | .outbound req => .next (s.serve req (fun k => match k with
      | .load _ _ => true
      | _ => false) (fun r => decide (r.slice ≥ 96)) none)
  | .inbound n => match s.peerPacket n 1 with
    | none => .next s
    | some k => match k.body with
      | .addr pa size =>
        let s := s.dropHeld n
        if size = 0 || size > 2048 || pa + size > localEnd then .next (s.answer k 4 [] Code.protection.num 0)
        else
          let s := (linesIn pa size).foldl (fun (s : State) l => s.releaseIngress l) s
          .next (s.answer k 4 ((List.range size).map (fun j => s.byte (pa + j))) 0 0)
      | _ => .next (s.dropHeld n)

/-- HOST_WRITE: a host write is applied at the home slice; its T_w returns to the link (R99). -/
def execHostWrite (link pa size data : Nat) (s : State) : Host.Outcome State Fault Refusal :=
  let (s, tw) := s.outsideWrite 0 pa size data
  .next { s with links := { s.links with
    linkTw := pairSet s.links.linkTw link (Nat.max tw (pairGet 0 s.links.linkTw link)) } }

end Sys2Proof.Machine
end

