-- ==== Sys2Proof/Machine/Matrix.lean ====
section
/-! DEFINITION. The matrix engines (R220 to R247): tile binding, the seven instructions, passes and
their arbitration, products (R45 to R50), drains and loads. -/

namespace Sys2Proof.Machine

/-! ### Tiles and fault marks -/

def Engine.modTile (e : Engine) (g : GroupId) (z : Nat) (f : AccTile → AccTile) : Engine :=
  { e with tiles := e.tiles.map (fun (t : AccTile) => if t.owner == g && t.z == z then f t else t) }

def State.modEngine (s : State) (n : Nat) (f : Engine → Engine) : State := s.setEngine n (f (s.engine n))

/-- Engine number of a quad of a cluster. -/
def quadEngine (cluster quad : Nat) : Nat := cluster * 6 + quad

/-- The checks that every matrix instruction makes first: the guard, the full mask (R247), and fault
marks of the tiles that it names (R240). For `mqinit`, whose rule R238 gives its conditions no order, the mask
comes first as well (log 59, DESIGN CHOICE). -/
def matrixBody (gd : Guard) (zs : List Nat) (f : State → Group → Path → Res) (s : State) (g : Group) (p : Path) :
    Res :=
  if !g.guard gd then .done s
  else if p.mask != allLanes then .trap .illegalConvergence (lowLane p.mask) 0 0
  else
    let e := s.engine g.engineNum
    match zs.findSome? (fun z => (e.tile? g.id z).bind (·.mark)) with
    | some (c, pc, wid) => .raise (markTrap c pc wid (some p.id))
    | none => f s g p

/-- A tile is bound for an instruction that names it; one that `mrel` has named is not (R227, R228). -/
def State.bound (s : State) (g : Group) (z : Nat) : Bool :=
  match (s.engine g.engineNum).tile? g.id z with
  | some t => !t.releasing
  | none => false

/-- Bind the tiles of a mask, each element +0 (R226). -/
def State.bindTiles (s : State) (g : Group) (mask : BitVec 4) : State :=
  s.modEngine g.engineNum (fun e => { e with tiles := e.tiles ++ (maskTiles mask).map (fun z =>
    { owner := g.id, z := z, data := [], mark := none, releasing := false }) })

/-- `mres` past its checks: it binds its tiles, or waits (R226). -/
def mresBind (mask : BitVec 4) (s : State) (g : Group) : Res :=
  if s.canBind g mask then .done (s.bindTiles g mask) else .wait s (.mres mask)

/-- A path that waits in `mres`. -/
def Path.inMres (p : Path) : Bool := p.park.any (fun k => match k with
  | .mres _ => true
  | _ => false)

/-- `mres` (R226): the checks are made once, before the wait. -/
def execMres (gd : Guard) (mask : BitVec 4) (s : State) : Host.Outcome State Fault Refusal :=
  issue (.mres gd mask) s (fun s g p =>
    if p.inMres then mresBind mask s g
    else matrixBody gd (maskTiles mask) (fun s g p =>
      if (maskTiles mask).any (s.bound g) then .trap .matrixReservation (lowLane p.mask) 0 0
      else mresBind mask s g) s g p)

/-- Rebind a group's saved tiles when its engine has room (R247); a draining group raises their marks (R240). -/
def State.tryRebind (s : State) (i : GroupId) : State :=
  match s.group? i with
  | none => s
  | some g =>
    let e := s.engine g.engineNum
    if g.rebind.isEmpty || decide (e.tiles.length + g.rebind.length > 32) then s
    else ((s.setEngine g.engineNum { e with tiles := e.tiles ++ g.rebind }).setGroup { g with rebind := [] }).raiseDraining i

/-- MRES_BIND: a restored group rebinds its tiles, or a stalled `mres` that its core issues from next binds its own
and issues (R226, R247, R306). -/
def execMresBind (i : GroupId) (path : Nat) (s : State) : Host.Outcome State Fault Refusal :=
  match s.group? i with
  | none => .next s
  | some g => if !g.rebind.isEmpty then .next (s.tryRebind i) else match (g.path? path).bind (·.park) with
    | some (.mres mask) =>
      if s.isNext i path && s.canBind g mask then
        execMres { grp := true, neg := false, idx := 7 } mask { s with issuer := some (i, path) }
      else .next s
    | _ => .next s

/-- No instruction of the group in the table names the tile. -/
def Engine.free (e : Engine) (g : GroupId) (z : Nat) : Bool :=
  !e.entries.any (fun x => x.gid == g && x.z == z)

def Engine.unbind (e : Engine) (g : GroupId) (z : Nat) : Engine :=
  { e with tiles := e.tiles.filter (fun t => !(t.owner == g && t.z == z)) }

/-- `mrel` (R227): tiles without pending instructions are unbound at once (log 19, DEDUCED). -/
def execMrel (gd : Guard) (mask : BitVec 4) (s : State) : Host.Outcome State Fault Refusal :=
  issue (.mrel gd mask) s (matrixBody gd (maskTiles mask) (fun s g p =>
    if !(maskTiles mask).all (s.bound g) then .trap .matrixReservation (lowLane p.mask) 0 0
    else .done (s.modEngine g.engineNum (fun e => (maskTiles mask).foldl (fun (e : Engine) z =>
      if e.free g.id z then e.unbind g.id z
      else e.modTile g.id z (fun t => { t with releasing := true })) e))))

/-- MREL_UNBIND: every instruction of the group that names a released tile has completed (R227). -/
def execMrelUnbind (i : GroupId) (z : Fin 4) (s : State) : Host.Outcome State Fault Refusal :=
  let n := engineNum i.cluster i.core
  let e := s.engine n
  match e.tile? i z.val with
  | none => .next s
  | some t =>
    if t.releasing && t.mark.isNone && e.free i z.val then .next (s.setEngine n (e.unbind i z.val))
    else .next s

/-! ### The reservation table -/

/-- Check the tile, then the rest, then take an entry (R221, R228, R232). -/
def tableBody (gd : Guard) (z : Nat) (f : State → Group → Path → Res) : State → Group → Path → Res :=
  matrixBody gd [z] (fun s g p =>
    if !s.bound g z then .trap .matrixReservation (lowLane p.mask) 0 0 else f s g p)

/-- A new entry. -/
def State.addEntry (s : State) (g : Group) (p : Path) (z : Nat) (op : MatOp) : State :=
  let x : MatEntry := { id := s.nextId, gid := g.id, gval := g.gval, kid := g.kid, crew := g.crew, ctx := g.ctx,
                        z := z, pc := p.pc, wid := g.lowWid g.live, op := op, clock := s.clock, since := s.clock, ends := 0,
                        promoted := false }
  { s with nextId := s.nextId + 1 }.modEngine g.engineNum (fun e => { e with entries := e.entries ++ [x] })

/-- `mzero` (R228). -/
def execMzero (gd : Guard) (d : Fin 4) (s : State) : Host.Outcome State Fault Refusal :=
  issue (.mzero gd d) s (tableBody gd d.val (fun s g p =>
    match s.tableHold g with
    | some n => .wait s (.table n)
    | none => .done (s.addEntry g p d.val .zero)))

/-! ### mma (R229 to R232) -/

/-- Bytes of an element. -/
def nfmtSize : NFmt → Nat
  | .f32 => 4
  | .bf16 | .f16 => 2
  | _ => 1

/-- Formats of a matrix operand, and of a block scale (R28). -/
def operandFmt : NFmt → Bool
  | .none | .f32 => false
  | _ => true

def scaleFmt : NFmt → Bool
  | .none | .f32 | .bf16 => true
  | _ => false

/-- A descriptor word of the format block (R230): element format, scale format, scale block length,
and scale space. -/
def formatWord (w : Word) : Option (NFmt × NFmt × Nat × Space) :=
  let n := w.toNat
  match nfmt (n % 64), nfmt (bits n 13 8) with
  | some ef, some sf =>
    if bits n 31 16 != 0 || !operandFmt ef || !scaleFmt sf then none
    else match bits n 15 14 with
      | 0 => some (ef, sf, 32 * 2 ^ bits n 7 6, .c)
      | 1 => some (ef, sf, 32 * 2 ^ bits n 7 6, .k)
      | 2 => some (ef, sf, 32 * 2 ^ bits n 7 6, .x)
      | _ => if sf == .none then some (ef, sf, 32 * 2 ^ bits n 7 6, .c) else none
  | _, _ => none

/-- The operand is unscaled (R45). -/
def noScale (f : NFmt) : Bool := f == .none

/-- Bytes of an operand's region, or of its tile. -/
def State.srcLimit (s : State) (g : Group) (r : Region) (tile : Option TileRef) : Nat :=
  match tile with
  | some t => match g.hdr.pools[t.pool]? with
    | some d => d.tsize
    | none => 0
  | none => s.regionSize g r.space

/-- The index of an A row in `.gather` (R234). -/
def gatherIndex (g : Group) (p : Path) (v : Fin 192) (i : Nat) : Nat :=
  (g.rd p (v.val + i / 32) (i % 32)).toNat

/-- Operands A and B from the registers; none where a format is refused (R230, R231, R234). -/
def mmaOf (f : MmaForm) (g : Group) (p : Path) : Option Mma :=
  match formatWord (g.rdS p f.c), formatWord (g.rd p (192 + f.c.val + 1) 0) with
  | some (ea, fa, la, spa), some (eb, fb, lb, spb) =>
    let k := 32 * (f.kq.val + 1)
    let team := g.cTeam true 0
    let src := fun (m : MSpace) (r : Fin 64) =>
      let w := (g.rdS p r).toNat
      (if m == .h then 0 else w, if m == .h then some (g.tileRef w) else none)
    let (a0, ta) := src f.aspace f.a
    let (b0, tb) := src f.bspace f.b
    let astr := match f.var with
      | .dense x | .gather x _ => if x = 0 then k * nfmtSize ea else 16 * x.toNat
      | .sparse _ => 0
    let bstr := if f.bstr = 0 then 64 * nfmtSize eb else 16 * f.bstr.toNat
    let rows := match f.var with
      | .dense _ => (List.range 64).map (fun i => a0 + i * astr)
      | .gather _ v => (List.range 64).map (fun i => a0 + gatherIndex g p v i * astr)
      | .sparse _ => [a0]
    some {
      fresh := f.z
      k := k
      sparse := match f.var with
        | .sparse q => some q.val
        | _ => none
      gather := match f.var with
        | .gather _ _ => true
        | _ => false
      a := { region := { space := f.aspace.toSpace, base := 0, team := team }, tile := ta, rows := rows, fmt := ea,
             sfmt := fa, len := la,
             scale := { space := spa, base := (g.rd p (192 + f.c.val + 2) 0).toNat, team := team } }
      b := { region := { space := f.bspace.toSpace, base := 0, team := team }, tile := tb
             rows := (List.range k).map (fun j => b0 + j * bstr), fmt := eb, sfmt := fb, len := lb,
             scale := { space := spb, base := (g.rd p (192 + f.c.val + 3) 0).toNat, team := team } }
      ca := f.ca
      cb := f.cb
      step := 0
      block := 0
      popped := []
      stream := a0
      av := []
      bv := []
      sa := []
      sb := []
      eaten := false }
  | _, _ => none

/-- Runs of a scaled operand (R231). -/
def MatSrc.runs (x : MatSrc) (k : Nat) : Nat := (k + x.len - 1) / x.len

/-- Misaligned addresses of an operand (R232). -/
def MatSrc.odd (x : MatSrc) : Bool :=
  x.rows.any (fun r => r % 16 != 0) || (!noScale x.sfmt && x.scale.base % 16 != 0)

/-- Some byte of an operand or its scales lies beyond its region (R232): rows of `n` bytes. -/
def State.srcBeyond (s : State) (g : Group) (x : MatSrc) (k n : Nat) : Bool :=
  ((match x.tile with
    | some t => g.hdr.names (t.index + t.pool * 2 ^ 16)
    | none => true) && x.rows.any (fun r => decide (r + n > s.srcLimit g x.region x.tile))) ||
  (!noScale x.sfmt && decide (x.scale.base + x.runs k * 64 * nfmtSize x.sfmt > s.regionSize g x.scale.space))

/-- A handle that is not current (R354). -/
def State.srcStale (s : State) (g : Group) (x : MatSrc) : Bool :=
  match x.tile with
  | some t => !s.current g.hdr g.kid g.crew (t.index + t.pool * 2 ^ 16 + t.gen * 2 ^ 24)
  | none => false

/-- `mma` (R229 to R235). -/
def execMma (f : MmaForm) (s : State) : Host.Outcome State Fault Refusal :=
  issue (.mma f) s (tableBody f.gd f.d.val (fun s g p =>
    match mmaOf f g p with
    | none => .trap .matrixFormat 0 0 0
    | some m =>
      let na := if m.sparse.isSome then 1 else m.k * nfmtSize m.a.fmt
      if m.a.odd || m.b.odd then .trap .misaligned 0 0 0
      else if s.srcBeyond g m.a m.k na || s.srcBeyond g m.b m.k (64 * nfmtSize m.b.fmt) then .trap .spaceBounds 0 0 0
      else if s.srcStale g m.a || s.srcStale g m.b then .trap .tileStale 0 0 0
      else match s.tableHold g with
        | some n => .wait s (.table n)
        | none =>
          let s := s.addEntry g p f.d.val (.mma m)
          .done (s.recordMem g { space := f.aspace.toSpace, a := m.a.rows.headD 0, handle := 0 } 0 false)))

/-! ### mqinit (R238) -/

/-- `mqinit` (R238). Words of an earlier `mqinit` of the queue that are still unread are appended ahead of this
one's (log 59, DESIGN CHOICE). -/
def execMqinit (f : MqinitForm) (s : State) : Host.Outcome State Fault Refusal :=
  issue (.mqinit f) s (matrixBody f.gd [] (fun s g p =>
    let off := (g.rdS p f.a).toNat
    let n := (g.rdS p f.b).toNat
    let sp : Space := if f.k then .k else .c
    if off % 4 != 0 then .trap .misaligned 0 0 0
    else if n > 64 then .trap .matrixFormat 0 0 0
    else if off + 4 * n > s.regionSize g sp then .trap .spaceBounds 0 0 0
    else
      let keys := (List.range n).map (fun j => s.localKey g true 0 sp (off + 4 * j))
      let s := s.modEngine g.engineNum (fun e =>
        e.setQueue { kid := g.kid, q := f.q.val, entries := [], poisoned := false })
      let s := s.recordMem g { space := sp, a := off, handle := 0 } 0 false
      if n = 0 then .done s
      else .done (s.startOp g (s.newOp g p allLanes (.mqinit f.q.val keys 0) [] [] []) [] [])))

/-- MQINIT_WORD: the next word read becomes a poppable entry (R238). -/
def execMqinitWord (op : Nat) (s : State) : Host.Outcome State Fault Refusal :=
  match s.op? op with
  | none => .next s
  | some o => match o.kind with
    | .mqinit q keys n =>
      let m := (s.engine o.engineNum).queue o.kid q
      match keys[n]? with
      | none => .next (s.delOp op)
      | some key =>
        if !s.forkReady o || s.mqinitBefore o q || decide (m.entries.length ≥ 64) then .next s
        else
          let s := s.modEngine o.engineNum (fun e => e.setQueue { m with entries := m.entries ++ [s.read key 4] })
          .next (if n + 1 = keys.length then s.delOp op else s.putOp { o with kind := .mqinit q keys (n + 1) })
    | _ => .next s

/-! ### Passes (R222 to R224, R235 to R240, R244, R245) -/

/-- The region's storage key of an offset, for an operand of an entry. -/
def State.srcKey (s : State) (x : MatEntry) (r : Region) (tile : Option TileRef) (off : Nat) : Nat :=
  match tile with
  | some t => loadImage x.gid.cluster x.gid.core
      (s.tileKeys (s.hdrOf x.kid) x.kid x.crew (t.index + t.pool * 2 ^ 16) off)
  | none => match s.crew? x.kid x.crew with
    | none => 0
    | some c => match r.space with
      | .c => c.cKey r.team off
      | .k => kKey c.cluster c.kbase off
      | _ => xKey (s.xbase x.ctx) off

def State.srcRead (s : State) (x : MatEntry) (m : MatSrc) (off : Nat) : Nat :=
  s.read (s.srcKey x m.region m.tile off) (nfmtSize m.fmt)

/-- Scales of an operand, by 64 × run + row or column. -/
def State.scales (s : State) (x : MatEntry) (m : MatSrc) (k : Nat) : List Nat :=
  if noScale m.sfmt then []
  else (List.range (64 * m.runs k)).map (fun j =>
    s.read (s.srcKey x m.scale none (m.scale.base + j * nfmtSize m.sfmt)) (nfmtSize m.sfmt))

/-- K steps of a product (R245). -/
def Mma.steps (m : Mma) : Nat := (m.k + 95) / 96

/-- Side of the blocks of an entry, and its present blocks (row, column) in stream order; those at or
beyond K are ignored (R235, R236). -/
def entrySide (w : Nat) : Nat := if w.testBit 24 then 32 else 16

def entryBlocks (w k t : Nat) : List (Nat × Nat) :=
  let bs := entrySide w
  (List.range (64 / bs)).flatMap (fun b => (List.range (96 / bs)).filterMap (fun c =>
    if w.testBit (96 / bs * b + c) && decide (96 * t + c * bs < k) then some (b, c) else none))

/-- A malformed entry (R236). -/
def entryBad (w : Nat) : Bool := bits w 30 25 != 0 || (w.testBit 24 && bits w 23 6 != 0)

/-- Some block of 32 output rows `h` is present. -/
def entryHalf (w k t h : Nat) : Bool := (entryBlocks w k t).any (fun b => b.1 * entrySide w / 32 == h)

/-- Output blocks of the current K step that have a pass (R223, R245). -/
def Mma.passes (m : Mma) : List Nat :=
  match m.sparse with
  | none => [0, 1, 2, 3]
  | some _ =>
    let w := m.popped.getLastD 0
    (List.range 4).filter (fun b => entryHalf w m.k m.step (b / 2))

/-- Every instruction of the group that names the tile and issued earlier has completed, but for
drains that have read it when `drains` allows (R222, R241). -/
def State.first (s : State) (e : Engine) (x : MatEntry) (drains : Bool) : Bool :=
  (e.entries.takeWhile (fun y => y.id != x.id)).all (fun y => y.gid != x.gid || y.z != x.z ||
    (drains && (match y.op with
      | .drain o => match s.op? o with
        | some o => match o.kind with
          | .mdrain _ _ _ (some _) _ _ _ => true
          | _ => false
        | none => true
      | _ => false)))

/-- The stores that the group issued before the instruction are acknowledged (R90, R244). -/
def State.entryStores (s : State) (x : MatEntry) : Bool :=
  s.ops.all (fun o => !(o.gid == x.gid && o.gval == x.gval && o.kid == x.kid && decide (o.id < x.id)) ||
    !o.kind.isStore || o.parts.all (·.done))

/-- Tiles that the instruction consumes, once for each operand. -/
def Mma.eats (m : Mma) : List TileRef :=
  (if m.ca then m.a.tile.toList else []) ++ (if m.cb then m.b.tile.toList else [])

/-- No earlier access of the group to these tiles is outstanding (R97). -/
def State.tilesQuiet (s : State) (x : MatEntry) (ts : List TileRef) : Bool :=
  !s.ops.any (fun o => o.gid == x.gid && o.gval == x.gval && decide (o.id < x.id) &&
    o.admitted.any (fun t => ts.contains t))

/-- A product that the arbiter may grant (R222, R223, R235); one with unsent requests for its operands waits for
them (R19). -/
def State.passReady (s : State) (e : Engine) (x : MatEntry) : Bool :=
  match x.op with
  | .mma m => decide (m.step < m.steps) && !e.marked x.gid x.z && s.first e x true && s.entryStores x &&
      s.tilesQuiet x m.eats && decide (x.ends ≤ s.clock) && !s.reqs.any (fun r => r.op == x.id && !r.sent) &&
      (match m.sparse with
        | none => true
        | some q => decide (m.popped.length > m.step) || (e.queue x.kid q).poisoned || !(e.queue x.kid q).entries.isEmpty)
  | _ => false

/-- An entry without a grant for 1,024 clocks goes before every class (R223). -/
def MatEntry.first (x : MatEntry) (clock : Nat) : Bool := x.promoted || decide (x.since + 1024 ≤ clock)

/-- Order of the arbiter: promotion, priority class, age, core, slot (R223). -/
def State.before (s : State) (x y : MatEntry) : Bool :=
  let key := fun (z : MatEntry) => [if z.first s.clock then 0 else 1, 3 - (s.desc z.ctx).prio, z.clock, z.gid.core, z.gid.slot, z.id]
  decide (key x < key y)

/-- The entry to grant. -/
def State.granted (s : State) (e : Engine) : Option MatEntry :=
  (e.entries.filter (s.passReady e)).foldl (fun best x => match best with
    | none => some x
    | some y => if s.before x y then some x else some y) none

/-- Latch the elements of one K index (R231, R234, R235). -/
def State.latchA (s : State) (x : MatEntry) (m : Mma) (k : Nat) : List Nat :=
  let e := nfmtSize m.a.fmt
  (List.range 64).map (fun i =>
    match m.sparse with
    | none => s.srcRead x m.a (m.a.rows.getD i 0 + k * e) + 1
    | some _ =>
      let w := m.popped.getLastD 0
      let bs := entrySide w
      let c := k - 96 * m.step
      match (entryBlocks w m.k m.step).idxOf? (i / bs, c / bs) with
      | none => 0
      | some r => s.srcRead x m.a (m.stream + r * bs * bs * e + (i % bs * bs + c % bs) * e) + 1)

def State.latchB (s : State) (x : MatEntry) (m : Mma) (k : Nat) : List Nat :=
  (List.range 64).map (fun n => s.srcRead x m.b (m.b.rows.getD k 0 + n * nfmtSize m.b.fmt))

/-- K indices of the current step. -/
def Mma.indices (m : Mma) : List Nat :=
  (List.range (Nat.min 96 (m.k - 96 * m.step))).map (96 * m.step + ·)

/-- Latch the operands of the current step, before its first pass: all of a gathered A at once, and the
scales with the first step that is read (log 16, DESIGN CHOICE). -/
def State.latch (s : State) (x : MatEntry) (m : Mma) : Mma :=
  let first := m.sa.isEmpty && m.sb.isEmpty
  let av := if m.gather then (if m.av.isEmpty then (List.range m.k).map (s.latchA x m) else m.av)
    else m.av ++ m.indices.map (s.latchA x m)
  { m with
    av := av
    bv := m.bv ++ m.indices.map (s.latchB x m)
    sa := if first then s.scales x m.a m.k else m.sa
    sb := if first then s.scales x m.b m.k else m.sb }

/-- A step whose every block is absent reads nothing. -/
def Mma.skipStep (m : Mma) : Mma :=
  let none64 := m.indices.map (fun _ => List.replicate 64 0)
  { m with av := m.av ++ none64, bv := m.bv ++ none64, step := m.step + 1, block := 0 }

/-- Bytes of the current step in the stream. -/
def Mma.streamBytes (m : Mma) : Nat :=
  let w := m.popped.getLastD 0
  (entryBlocks w m.k m.step).length * entrySide w * entrySide w * nfmtSize m.a.fmt

/-- All of an operand is latched: nothing more is read through its handle. -/
def Mma.aRead (m : Mma) : Bool := decide (m.av.length ≥ m.k)

def Mma.bRead (m : Mma) : Bool := decide (m.bv.length ≥ m.k)

/-- The consuming decrements that are due: none until every byte of both operands has been read, so that an
instruction abandoned on the way has made none (R240, R244). -/
def Mma.due (m : Mma) : List TileRef :=
  if !m.eaten && m.aRead && m.bRead then m.eats else []

/-- COUNT − PEND of a tile covers the decrements due to it (R239, R244). -/
def State.owed (s : State) (ts : List TileRef) : Bool :=
  ts.all (fun t => match s.tile? t.kid t.crew (t.index + t.pool * 2 ^ 16) with
    | some x => decide (x.count - x.pend ≥ (ts.filter (· == t)).length)
    | none => false)

/-- Make consuming decrements that no admitted access stands for (R97, R353). -/
def State.eat (s : State) (ts : List TileRef) : State :=
  let s := ts.foldl (fun s t => s.modTile t (fun x => { x with pend := x.pend + 1 })) s
  (s.consumeTiles ts).settleTiles ts

/-- Store an entry's product. -/
def Engine.putMma (e : Engine) (x : MatEntry) (m : Mma) : Engine :=
  { e with entries := e.entries.map (fun (y : MatEntry) => if y.id == x.id then { x with op := .mma m } else y) }

/-- Abandon the instruction: its tile takes the fault mark (R240). A draining group raises it; of a group that is
being saved, the instructions queued behind it are discarded (R240, R247) (log 69, DEDUCED). -/
def State.abandon (s : State) (n : Nat) (x : MatEntry) (c : Code) : State :=
  let s := (s.modEngine n (fun e => { e with entries := e.entries.filter (fun y => y.id != x.id) }.modTile x.gid x.z
    (fun t => { t with mark := some (c, x.pc, x.wid) }))).replyTo (fun r => r.op == x.id)
  match s.group? x.gid with
  | some g => if g.phase == .saved then s.dropStuck g else s.raiseDraining x.gid
  | none => s

/-- Pop the entry of the current step (R235, R237, R239): the popped word, or the code that abandons. -/
def State.popMeta (s : State) (n : Nat) (x : MatEntry) (q : Nat) : State × Except Code Nat :=
  let e := s.engine n
  let m := e.queue x.kid q
  if m.poisoned then (s, .error .matrixMetaPoison)
  else match m.entries with
    | [] => (s, .error .matrixMetaPoison)
    | w :: rest =>
      if w.testBit 31 then
        (s.setEngine n (e.setQueue { m with entries := [], poisoned := true }), .error .matrixMetaPoison)
      else
        (s.setEngine n (e.setQueue { m with entries := rest }), if entryBad w then .error .matrixFormat else .ok w)

/-- The handles through which operands are still to be read are current (R239). -/
def State.mmaLive (s : State) (m : Mma) : Bool :=
  (m.aRead || m.a.tile.all s.tileLive) && (m.bRead || m.b.tile.all s.tileLive)

/-- Make the decrements due after operands have been read, or abandon. -/
def State.eatDue (s : State) (n : Nat) (x : MatEntry) (m : Mma) : State × Option Mma :=
  match m.due with
  | [] => (s, some m)
  | ts => if !ts.all s.tileLive then (s.abandon n x .tileStale, none)
    else if s.owed ts then (s.eat ts, some { m with eaten := true }) else (s.abandon n x .tileOverread, none)

/-- Clocks of a pass (R220). -/
def Mma.passClocks (m : Mma) : Nat := if nfmtSize m.a.fmt = 2 ∨ nfmtSize m.b.fmt = 2 then 2 else 1

/-- An operand that lies in chip scratchpad is read by requests to its slices (R19, R59). -/
def State.srcAway (s : State) (x : MatEntry) (r : Region) (tile : Option TileRef) : Bool :=
  decide (s.srcKey x r tile 0 ≥ 2 ^ 53)

/-- Storage keys in chip scratchpad that the latch of the current step reads. -/
def State.stepKeys (s : State) (x : MatEntry) (m : Mma) : List Nat :=
  let first := m.sa.isEmpty && m.sb.isEmpty
  let cols := if m.gather then (if m.av.isEmpty then List.range m.k else []) else m.indices
  let ea := nfmtSize m.a.fmt
  let aOffs := match m.sparse with
    | some _ => (List.range m.streamBytes).map (m.stream + ·)
    | none => m.a.rows.flatMap (fun r => cols.map (fun k => r + k * ea))
  let bOffs := m.indices.flatMap (fun k => (List.range 64).map (fun n => m.b.rows.getD k 0 + n * nfmtSize m.b.fmt))
  let key := fun (r : Region) (tile : Option TileRef) (offs : List Nat) =>
    if s.srcAway x r tile then offs.map (s.srcKey x r tile) else []
  let scale := fun (y : MatSrc) => if !first || noScale y.sfmt then []
    else key y.scale none ((List.range (64 * y.runs m.k)).map (fun j => y.scale.base + j * nfmtSize y.sfmt))
  key m.a.region m.a.tile aOffs ++ key m.b.region m.b.tile bOffs ++ scale m.a ++ scale m.b

/-- One pass: the step's operands are latched before its first one, once the requests for those in chip scratchpad
have been sent. -/
def State.runPass (s : State) (n : Nat) (x : MatEntry) (m : Mma) (b : Nat) : State :=
  let fresh := decide (m.bv.length ≤ 96 * m.step)
  if fresh && !s.mmaLive m then s.abandon n x .tileStale
  else if fresh && !s.reached x.id (s.stepKeys x m) then
    (s.modEngine n (fun e => e.putMma x m)).askFor x.id x.gid.cluster x.gid.core (s.stepKeys x m)
  else
    let (s, r) := if fresh then s.eatDue n x (s.latch x m) else (s, some m)
    match r with
    | none => s
    | some m =>
      let rest := m.passes.filter (fun c => decide (c > b))
      let len := m.passClocks
      let last := rest.isEmpty
      let stream := if last then m.stream + m.streamBytes else m.stream
      let m := { m with
        block := rest.headD 0
        step := if last then m.step + 1 else m.step
        stream := stream }
      let x := { x with since := s.clock, ends := s.clock + len, promoted := false }
      (s.modEngine n (fun e => { e.putMma x m with last := s.clock + len })).slot x.kid n

/-- Advance a granted entry until it has run one pass, waits for metadata, or has no pass left. -/
def State.advance (s : State) (n : Nat) (x : MatEntry) : Nat → Mma → State
  | 0, m => s.modEngine n (fun e => e.putMma x m)
  | fuel + 1, m =>
    if m.step ≥ m.steps then s.modEngine n (fun e => e.putMma x m)
    else
      let (s, r) := match m.sparse with
        | none => (s, Except.ok m)
        | some q =>
          if m.popped.length > m.step then (s, Except.ok m)
          else if !((s.engine n).queue x.kid q).poisoned && ((s.engine n).queue x.kid q).entries.isEmpty
          then (s, Except.error none)
          else match s.popMeta n x q with
            | (s, .error c) => (s, Except.error (some c))
            | (s, .ok w) =>
              let m := { m with popped := m.popped ++ [w] }
              let limit := match s.group? x.gid with
                | some g => s.srcLimit g m.a.region m.a.tile
                | none => 0
              if m.stream + m.streamBytes > limit then (s, Except.error (some .spaceBounds)) else (s, Except.ok m)
      match r with
      | .error none => s.modEngine n (fun e => e.putMma x m)
      | .error (some c) => s.abandon n x c
      | .ok m =>
        match m.passes.filter (fun b => decide (b ≥ m.block)) with
        | b :: _ => s.runPass n x m b
        | [] => match s.eatDue n x m.skipStep with
          | (s, none) => s
          | (s, some m) => s.advance n x fuel m

/-- MATRIX_PASS: the arbiter grants the next pass on a clock that the throttle allows (R223, R245). -/
def execMatrixPass (cluster quad : Nat) (s : State) : Host.Outcome State Fault Refusal :=
  let n := quadEngine cluster quad
  let e := s.engine n
  if !s.throttleClock n || decide (e.last > s.clock) then .next s
  else match s.granted e with
    | none => .next s
    | some x => match x.op with
      | .mma m => .next (s.advance n x (m.steps + 1) m)
      | _ => .next s

/-- ARBITER_PROMOTE: an entry has waited 1,024 clocks without a grant (R223). -/
def execArbiterPromote (cluster quad entry : Nat) (s : State) : Host.Outcome State Fault Refusal :=
  let n := quadEngine cluster quad
  .next (s.modEngine n (fun e => { e with entries := e.entries.map (fun (x : MatEntry) =>
    if x.id == entry && decide (x.since + 1024 ≤ s.clock) then { x with promoted := true } else x) }))

/-! ### The product (R45 to R50, R233) -/

/-- The exact value of an element (R38). -/
def elemVal (f : NFmt) (code : Nat) : FVal :=
  match f with
  | .s8 => .ofInt (if code % 256 ≥ 128 then (code % 256 : Int) - 256 else code % 256)
  | .n8 => .ofInt (code % 256)
  | f => f.fmt.decode code

/-- A scale, 1 for an unscaled operand (R45). -/
def scaleVal (f : NFmt) (sc : List Nat) (i : Nat) : FVal :=
  if noScale f then .fin false 1 0 else f.fmt.decode (sc.getD i 0)

/-- An exact zero sum is +0 (R46). -/
def exactSum (xs : List FVal) : FVal :=
  match xs.foldl FVal.add FVal.zero with
  | .fin _ 0 _ => FVal.zero
  | v => v

/-- Sum block length (R45). -/
def Mma.sumLen (m : Mma) : Nat :=
  match noScale m.a.sfmt, noScale m.b.sfmt with
  | true, true => 32
  | true, false => m.b.len
  | false, true => m.a.len
  | false, false => Nat.min m.a.len m.b.len

/-- Products of the present indices of one sum block for an element (R46, R49). -/
def Mma.products (m : Mma) (i n j : Nat) : List FVal :=
  let len := m.sumLen
  ((List.range (Nat.min len (m.k - j * len))).map (j * len + ·)).filterMap (fun k =>
    let a := (m.av.getD k []).getD i 0
    if a = 0 then none
    else some ((elemVal m.a.fmt (a - 1)).mul (elemVal m.b.fmt ((m.bv.getD k []).getD n 0))))

/-- The contribution of sum block `j` added to an accumulator element (R47 to R49). A zero scale times an
infinite one is NaN, whatever the sum (log 60, DESIGN CHOICE). -/
def Mma.addBlock (m : Mma) (i n : Nat) (acc j : Nat) : Nat :=
  match m.products i n j with
  | [] => acc
  | xs =>
    let k := j * m.sumLen
    let sa := scaleVal m.a.sfmt m.sa (64 * (k / m.a.len) + i)
    let sb := scaleVal m.b.sfmt m.sb (64 * (k / m.b.len) + n)
    fmtF32.addCodes acc (fmtF32.rne false ((exactSum xs).mul (sa.mul sb)))

/-- The new value of an accumulator element (R233). -/
def Mma.element (m : Mma) (z : SMap Word) (i n : Nat) : Nat :=
  (List.range ((m.k + m.sumLen - 1) / m.sumLen)).foldl (m.addBlock i n)
    (if m.fresh then 0 else (SMap.get 0 z (64 * i + n)).toNat)

/-- Tile data from its 4,096 elements in order. -/
def tileOf (f : Nat → Nat) : SMap Word :=
  (List.range 4096).filterMap (fun k =>
    let w : Word := BitVec.ofNat 32 (f k)
    if w = 0 then none else some (k, w))

/-- MMA_COMPLETE: a product or an `mzero` completes and the tile takes its new value (R228, R233). -/
def execMmaComplete (cluster quad entry : Nat) (s : State) : Host.Outcome State Fault Refusal :=
  let n := quadEngine cluster quad
  let e := s.engine n
  match e.entries.find? (fun x => x.id == entry) with
  | none => .next s
  | some x =>
    if e.marked x.gid x.z || !s.first e x false then .next s
    else
      let e' := { e with entries := e.entries.filter (fun y => y.id != x.id) }
      match x.op with
      | .zero => .next (s.setEngine n (e'.modTile x.gid x.z (fun t => { t with data := [] })))
      | .mma m =>
        if m.step < m.steps || decide (x.ends > s.clock) then .next s
        else .next ((s.setEngine n (e'.modTile x.gid x.z (fun t =>
          { t with data := tileOf (fun k => m.element t.data (k / 64) (k % 64)) }))).replyTo (fun r => r.op == x.id))
      | _ => .next s

/-! ### Drains and loads (R241 to R243) -/

/-- The location of an aligned 16-byte part of a drain or load. -/
def partLoc (sp : Space) (base handle off : Nat) : Loc :=
  match sp with
  | .h => { space := .h, a := off, handle := handle }
  | sp => { space := sp, a := base + off, handle := 0 }

/-- Offsets of the 16-byte parts of 64 rows of 64 elements. -/
def rowParts (stride e : Nat) : List Nat :=
  (List.range 64).flatMap (fun i => (List.range (4 * e)).map (fun j => i * stride + 16 * j))

def engineWant (k : Acc) : Want where
  kind := k
  bytes := 16
  unit := 16
  misaligned := .misaligned
  window := false
  wide := true
  noReg := true

/-- The base address and handle that the register names (log 16, DESIGN CHOICE). -/
def matrixBase (g : Group) (p : Path) (sp : Space) (a : Fin 64) : Nat × Nat :=
  match sp with
  | .g => ((g.rd64 p (192 + a.val) 0).toNat, 0)
  | .h => (0, (g.rdS p a).toNat)
  | _ => ((g.rdS p a).toNat, 0)

/-- The checks and pieces of a drain or load (R241). -/
def State.rowsAccess (s : State) (g : Group) (p : Path) (k : Acc) (sp : Space) (base handle stride e : Nat) :
    AccessRes :=
  joinLanes [(0, joinRes ((rowParts stride e).map (fun off =>
    s.laneAccess g p (engineWant k) 0 (partLoc sp base handle off))))]

/-- `mdrain` (R241). -/
def execMdrain (f : MdrainForm) (s : State) : Host.Outcome State Fault Refusal :=
  issue (.mdrain f) s (tableBody f.gd f.c.val (fun s g p =>
    let e := nfmtSize f.fmt
    let (base, handle) := matrixBase g p f.space f.a
    let stride := (g.rdS p f.b).toNat
    if stride < 64 * e then .trap .illegalOperand 0 0 0
    else if base % 16 != 0 || stride % 16 != 0 then .trap .misaligned 0 6 (if f.space = .g then base else 0)
    else match s.rowsAccess g p .store f.space base handle stride e with
      | .ok ps =>
        if g.full [6] then .hold 2 true
        else match s.tableHold g with
          | some n => .wait s (.table n)
          | none =>
            let keys := ps.map (fun x => x.2.key)
            let parts := 256 * e
            let n := keys.length / parts
            let images := (List.range n).map (fun m => (List.range parts).map (fun k => keys.getD (k * n + m) 0))
            let left := List.range (if f.add then n else parts)
            let tile := if f.space = .h then some (g.tileRef handle) else none
            let o := s.newOp g p allLanes (.mdrain f.c.val f.fmt f.add none images left tile) [] [6] []
            let s := s.startOp g o [] []
            let s := if (s.op? o.id).isSome then s.addEntry g p f.c.val (.drain o.id) else s
            .done (s.recordMem g (partLoc f.space base handle 0) 6 true)
      | r => s.refuse g p .store 6 r))

/-- `mload` (R243). -/
def execMload (f : MloadForm) (s : State) : Host.Outcome State Fault Refusal :=
  issue (.mload f) s (tableBody f.gd f.d.val (fun s g p =>
    let e := nfmtSize f.fmt
    let (base, handle) := matrixBase g p f.space f.a
    let stride := (g.rdS p f.b).toNat
    if stride < 64 * e then .trap .illegalOperand 0 0 0
    else if base % 16 != 0 || stride % 16 != 0 then .trap .misaligned 0 0 (if f.space = .g then base else 0)
    else match s.rowsAccess g p .load f.space base handle stride e with
      | .ok ps =>
        match s.tableHold g with
        | some n => .wait s (.table n)
        | none =>
          let tile := if f.space = .h then some (g.tileRef handle) else none
          let o := s.newOp g p allLanes (.mload f.d.val f.fmt (ps.map (fun x => x.2.key)) tile) [] [] []
          let s := s.startOp g o [] []
          let s := if (s.op? o.id).isSome then s.addEntry g p f.d.val (.load o.id) else s
          .done (s.recordMem g (partLoc f.space base handle 0) 0 false)
      | r => s.refuse g p .load 0 r))

/-- The table entry of a drain or load. -/
def Engine.entryOf? (e : Engine) (op : Nat) : Option MatEntry := e.entries.find? (fun x => x.op.op? == some op)

/-- Free the entry of an operation and end it. -/
def State.endMatrix (s : State) (o : Op) : State :=
  (s.modEngine o.engineNum (fun e => { e with entries := e.entries.filter (fun x => x.op.op? != some o.id) })).endOp o

/-- A handle went stale before an engine transfer reached its tile (R357): the fault is taken without
the instruction. -/
def State.staleTransfer (s : State) (o : Op) (detail : Nat) : State :=
  let s := s.endMatrix o
  match s.opGroup o with
  | some g => s.trap g { markTrap .tileStale o.pc o.low none with detail := detail }
  | none => s

/-- The code that a drain writes for an accumulator element, without `.add` (R241). -/
def drainCode (f : NFmt) (x : FVal) : Nat :=
  match f with
  | .s8 => (IType.ofFVal .s8 true x % 256).toNat
  | .n8 => (IType.ofFVal .n8 true x % 256).toNat
  | f => f.fmt.rtz x

/-- The element with `.add`: the exact sum with the old element (R241). -/
def addDrain (f : NFmt) (old : Nat) (v : FVal) : Nat :=
  let o := elemVal f old
  let x := match o.add v with
    | .fin _ 0 _ => if o.isZero && o.neg? && v.isZero && v.neg? then FVal.fin true 0 0 else FVal.zero
    | x => x
  drainCode f x

/-- The new bytes of part `k` of an image, whose old bytes are `old`. -/
def drainPart (f : NFmt) (add : Bool) (data : List Nat) (k old : Nat) : Nat :=
  let e := nfmtSize f
  let n := 16 / e
  sumNat ((List.range n).map (fun j =>
    let v := fmtF32.decode (data.getD (k * n + j) 0)
    (if add then addDrain f (old / 256 ^ (e * j) % 256 ^ e) v else drainCode f v) * 256 ^ (e * j)))

/-- Elements of a tile in order. -/
def AccTile.elements (t : AccTile) : List Nat := (List.range 4096).map (fun k => (SMap.get 0 t.data k).toNat)

/-- An earlier `.add` drain of the group to a common part is not applied yet (R242). -/
def State.addBefore (s : State) (o : Op) (keys : List Nat) : Bool :=
  s.ops.any (fun x => x.gid == o.gid && x.gval == o.gval && decide (x.id < o.id) && (match x.kind with
    | .mdrain _ _ true _ images (_ :: _) _ => images.any (fun l => l.any (fun k => keys.contains k))
    | _ => false))

/-- Write one part of an image. -/
def State.drainWrite (s : State) (ctx : Nat) (f : NFmt) (add : Bool) (data : List Nat) (image : List Nat) (k : Nat) : State :=
  let key := image.getD k 0
  s.applyStore (engineOwner ctx) key 16 (drainPart f add data k (s.read key 16))

/-- MDRAIN_APPLY: the first one reads the tile, once every earlier instruction of the group on it has completed
(R222, R241); part `k` of a plain drain is written in every
image, and image `k` of an `.add` drain is updated in one step (R242). -/
def execMdrainApply (op part : Nat) (s : State) : Host.Outcome State Fault Refusal :=
  match s.op? op with
  | none => .next s
  | some o =>
    let e := s.engine o.engineNum
    match o.kind, e.entryOf? op with
    | .mdrain z f add data images left tile, some x =>
      if !left.contains part || e.marked x.gid z || !s.forkReady o || (data.isNone && !s.first e x false) ||
          (add && s.addBefore o images.flatten) then .next s
      else if tile.any (fun t => !s.tileLive t) then .next (s.staleTransfer o 6)
      else
        let d := match data with
          | some d => d
          | none => match e.tile? x.gid z with
            | some t => t.elements
            | none => []
        let image := images.getD part []
        let keys := if add then image else images.map (fun l => l.getD part 0)
        if !s.carried op keys then .next s else
        let tw := if tile.isNone then maxNat (keys.map s.writeTime) else 0
        let s := if add then (List.range image.length).foldl (fun s k => s.drainWrite o.ctx f true d image k) s
          else images.foldl (fun s l => s.drainWrite o.ctx f false d l part) s
        let rest := left.filter (· != part)
        let s := (s.noteTw o tw).servedAbroad o.id keys
          (if add then rest.flatMap (images.getD · []) else images.flatMap (fun l => rest.map (l.getD · 0)))
        .next (s.putOp { o with kind := .mdrain z f add (some d) images rest tile, tw := Nat.max o.tw tw })
    | _, _ => .next s

/-- MDRAIN_COMPLETE: every byte is written and TIME has reached the largest T_w: path 6 falls and the
entry is freed (R222, R242). -/
def execMdrainComplete (op : Nat) (s : State) : Host.Outcome State Fault Refusal :=
  match s.op? op with
  | none => .next s
  | some o =>
    let e := s.engine o.engineNum
    match o.kind, e.entryOf? op with
    | .mdrain _ _ _ _ _ [] _, some x =>
      if decide (o.tw ≤ s.time) && s.first e x false then .next (s.endMatrix o) else .next s
    | _, _ => .next s

/-- MLOAD_COMPLETE: the elements, converted exactly, reach the tile (R243). All of them are read in this one step
(log 16, DESIGN CHOICE). -/
def execMloadComplete (op : Nat) (s : State) : Host.Outcome State Fault Refusal :=
  match s.op? op with
  | none => .next s
  | some o =>
    let e := s.engine o.engineNum
    match o.kind, e.entryOf? op with
    | .mload z f keys tile, some x =>
      if e.marked x.gid z || !s.forkReady o || !s.first e x false || !s.carried op keys then .next s
      else if tile.any (fun t => !s.tileLive t) then .next (s.staleTransfer o 0)
      else
        let n := 16 / nfmtSize f
        let elem := fun k => s.read (keys.getD (k / n) 0 + k % n * nfmtSize f) (nfmtSize f)
        let data := tileOf (fun k => fmtF32.rne false (f.fmt.decode (elem k)))
        .next ((s.modEngine o.engineNum (fun e => e.modTile x.gid z (fun t => { t with data := data }))).endMatrix o)
    | _, _ => .next s

end Sys2Proof.Machine
end

