-- ==== Sys2Proof/Machine/Context.lean ====
section
/-! DEFINITION. Contexts (R248 to R258, R261 to R264): commands, pre-emption and its saves, resumption,
the watchdog, and the end of a containment. -/

namespace Sys2Proof.Machine

/-! ### Descriptors and CREATE (R248, R254) -/

/-- A descriptor from its 32 bytes, or none where an RSV field is not zero. -/
def descOf (v : Nat) : Option Desc :=
  if bits v 239 232 != 0 || bits v 191 180 != 0 || bits v 76 71 != 0 || bits v 63 52 != 0 || bits v 11 10 != 0 then none
  else some {
    slice := bits v 255 240
    spillva := bits v 231 192
    savebase := bits v 179 144
    savesize := bits v 143 128
    tenant := bits v 127 112
    place := bits v 111 88
    xshare := bits v 87 77
    modes := bits v 70 64
    root := bits v 51 12
    priv := v.testBit 9
    prio := bits v 8 7
    nq := bits v 6 0 }

/-- The conditions of R254 on a descriptor but the room for its share. -/
def Desc.legal (d : Desc) : Bool :=
  decide (d.nq ≤ 64 ∧ d.place ≠ 0 ∧ d.xshare ≤ 1024 ∧ d.savesize ≥ 1 + 2672 * popNat d.place 24)

/-- Install a descriptor: the context is IDLE, its slots are unbound, its queues DISABLED (R252, R268,
R382). -/
def State.install (s : State) (c : Nat) (d : Desc) (xbase : Nat) : State :=
  let s := if d.xshare = 0 then s
    else (List.range 96).foldl (fun (s : State) k => s.grant (chipKey k xbase) (1024 * d.xshare) c) s
  let s := s.putCtx c (fun x => { x with
    st := .idle
    desc := d
    xbase := xbase
    wins := []
    queues := []
    preempt := none
    timeSaved := false
    killTw := 0
    faultKid := none
    watchStart := none
    fabjob := 0
    dispatchWait := []
    msgImage := [] })
  let h := (s.recorder.history ++ [(s.time, c + 256 * d.tenant)])
  let s := { s with recorder := { s.recorder with history := h.drop (h.length - 64) } }
  s.write (d.save + 0x7FF8) 8 0

/-- CTX_CREATE (R254). -/
def execCtxCreate (c : Nat) (s : State) : Host.Outcome State Fault Refusal :=
  if c ≥ 256 then .next s
  else if (s.ctxOf c).st != .free then .next (s.err c)
  else match descOf (s.read (s.ctxtab + 32 * c) 32) with
    | none => .next (s.err c)
    | some d =>
      if !d.legal then .next (s.err c)
      else match gap s.chipTaken 0 (2 ^ 20) (1024 * d.xshare) with
        | none => .next (s.err c)
        | some b => .next (s.install c d b)

/-- A context's share of chip scratchpad is freed. -/
def State.scrapShare (s : State) (c : Ctx) : State :=
  if c.desc.xshare = 0 then s
  else (List.range 96).foldl (fun (s : State) k => s.scrap (chipKey k c.xbase) (1024 * c.desc.xshare) c.num) s

/-- CTX_DESTROY (R252): slots are unbound, FABJOB is cleared, queues are DISABLED (R268, R382, R390). -/
def execCtxDestroy (c : Nat) (s : State) : Host.Outcome State Fault Refusal :=
  if c ≥ 256 then .next s
  else
    let x := s.ctxOf c
    if x.st != .idle && x.st != .killed then .next (s.err c)
    else
      let s := if x.st == .idle then s.scrapShare x else s
      let s := { s with
        launches := s.launches.filter (fun l => l.ctx != c)
        page := { s.page with
          tlb := s.page.tlb.filter (fun t => t.ctx != c)
          walks := s.page.walks.filter (fun w => w.ctx != c)
          wcache := s.page.wcache.filter (fun w => w.1 != c) } }
      .next (s.setCtx { x with
        st := .free
        wins := []
        queues := []
        fabjob := 0
        dispatchWait := []
        msgImage := []
        watchStart := none })

/-- CTX_KILL (R252, R263). A context that kills itself is refused where the command is written. -/
def execCtxKill (c : Nat) (s : State) : Host.Outcome State Fault Refusal :=
  if c ≥ 256 then .next s
  else
    let st := (s.ctxOf c).st
    if st == .idle || st == .resident || st == .saving || st == .saved then .next (s.contain c none)
    else .next (s.err c)

def OpKind.copies : OpKind → Bool
  | .cpa .. => true
  | _ => false

/-- Accesses of a context that have been sent and are not acknowledged (R263). -/
def State.inFlight (s : State) (c : Nat) : Bool :=
  s.ops.any (fun o => o.ctx == c && (o.kind.copies || o.parts.any (fun p => !p.done)))

/-- Launches of a killed context complete (R263, R275). -/
def State.completeKilled (s : State) (c : Nat) (fault : Option (Nat × Code)) : State :=
  (s.launches.filter (fun l => l.ctx == c)).foldl (fun (s : State) l =>
    s.completePacket l (match fault with
      | some (k, code) => if k = l.kid then code.num else Code.containmentKill.num
      | none => Code.containmentKill.num)) s

/-- CONTAINMENT_COMPLETE: nothing is in flight and TIME has reached the largest T_w (R263). -/
def execContainmentComplete (c : Nat) (s : State) : Host.Outcome State Fault Refusal :=
  match s.ctx? c with
  | none => .next s
  | some x =>
    if x.st != .killing || s.inFlight c || decide (s.time < x.killTw) then .next s
    else
      let s := s.modCtx c (fun x => { x with st := .killed })
      .next ((s.completeKilled c x.faultKid).scrapShare x)

/-! ### Pre-emption (R256) -/

/-- A queue is HELD while its context is saved (R268). The re-reads made so far and the time of the next one are
forgotten (log 64, DESIGN CHOICE). -/
def Queue.hold (q : Queue) : Queue :=
  match q.st with
  | .idle | .reading | .stopped => { q with st := .held, before := q.st, reread := none }
  | _ => q

def Queue.release (q : Queue) : Queue :=
  match q.st with
  | .held => { q with st := if q.before == .idle && decide (q.k ≥ q.qrd) then .reading else q.before }
  | _ => q

/-- The queues of a context go on; a kick recorded while they were HELD that reaches unread slots now stops
its queue (R252, R268, R270). -/
def State.releaseQueues (s : State) (c : Nat) : State :=
  (s.ctxOf c).queues.foldl (fun (s : State) (x : Nat × Queue) =>
    let q := x.2.release
    if x.2.st == .held && q.st != .stopped && decide (q.k ≥ q.qrd + 2 ^ q.logn) then s.stopQueue c x.1 q .queueTorn
    else s.setQueueOf c x.1 q) s

/-- A pre-emption of a RESIDENT context begins. -/
def State.startSave (s : State) (c : Nat) (time : Bool) : State :=
  s.modCtx c (fun x => { x with
    st := .saving
    preempt := some (s.time, time)
    watchStart := none
    queues := x.queues.map (fun (q : Nat × Queue) => (q.1, q.2.hold)) })

/-- CTX_PREEMPT (R252). -/
def execCtxPreempt (c : Nat) (s : State) : Host.Outcome State Fault Refusal :=
  if c ≥ 256 then .next s
  else if (s.ctxOf c).st == .resident then .next (s.startSave c false)
  else .next (s.err c)

/-- Another context waits for a cluster of the context's PLACE. -/
def State.wanted (s : State) (x : Ctx) : Bool :=
  s.launches.any (fun l => l.ctx != x.num && s.candidate l && (List.range 24).any (fun k =>
    x.desc.place.testBit k && s.allowed l k)) ||
  s.ctxs.any (fun y => y.num != x.num && y.st == .saved && y.timeSaved && y.desc.place &&& x.desc.place != 0)

/-- SLICE_EXPIRY: the time slice ends while another context waits (R252). -/
def execSliceExpiry (c : Nat) (s : State) : Host.Outcome State Fault Refusal :=
  match s.ctx? c with
  | none => .next s
  | some x =>
    if x.st == .resident && x.desc.slice != 0 && decide (x.sliceStart + 10000 * x.desc.slice ≤ s.time) && s.wanted x
    then .next (s.startSave c true)
    else .next s

/-- Octets saved with a group: the live masks of its safe points, or all (R156, R256). -/
def Group.liveOctets (g : Group) : Word :=
  g.paths.foldl (fun (m : Word) p => m ||| (match p.park with
    | some (.safept live) => live
    | _ => 0xFFFFFFFF)) 0

/-- A path that a save stops: it goes on behind its `safept` (R156); what it has asked of units that do not save it
is asked again on resume, a `reorder` that has not arrived is repeated from its start, and no tile stays granted
to it (R256, R332, R387); a `tlwait` finds its word anew (R379). Its windows end, at the save of a group whose paths have parked as at a forced one
(log 70, DESIGN CHOICE), and a timeout keeps its deadline (log 67, DESIGN CHOICE). -/
def Path.stopped (p : Path) : Path :=
  let p := { p with windows := [], failed := [], park := p.wait?, resume := none }
  match p.park with
  | none | some (.yield _) | some .trace | some (.reorder _) | some (.safept _) => { p with park := none, woken := false }
  | some k => { p with park := some k.ungrant.retranslate }

/-- Operations that wait for a release and have not been sent: the stopped path keeps what they are to do, and
they wait again on resume (R256, R296). -/
def Op.unsent (o : Op) : Bool :=
  match o.kind with
  | .kick _ _ _ | .tlsig _ _ => o.parts.all (fun p => p.via == .reg && p.got.isNone)
  | _ => false

/-- A group is stopped at an instruction boundary and is to be saved: fragments just detached join the queue
(R304), and matrix instructions queued on a marked tile are abandoned (R247). A stall episode that is open is
dropped (log 73, DESIGN CHOICE) (R256, R415). -/
def State.stopGroup (s : State) (g : Group) (live : Word) : State :=
  let s := (s.queueDetached g.id).dropStuck g
  let g := (s.group? g.id).getD g
  let drop := (s.opsOf g).filter Op.unsent
  let s := { s with ops := s.ops.filter (fun o => !drop.any (fun x => x.id == o.id)) }
  let g := drop.foldl (fun (g : Group) o => g.completeAll o.id o.paths) g
  let g := { g with
    before := g.phase
    phase := .saved
    saving := false
    savedLive := live
    paths := g.paths.map Path.stopped
    held := []
    episode := none }
  (s.setGroup g).sched g 10 g.live 0 0

/-- The group can be stopped and saved: not while it takes a trap (R298), nor before the Lasting unit holds its
payloads (R332). -/
def Group.savable (g : Group) : Bool :=
  g.trapping.isNone && (g.phase == .live || g.phase == .halted || g.phase == .draining)

/-- GROUP_SAVE: every path of the group has parked, or it is halted (R156, R256). -/
def execGroupSave (i : GroupId) (s : State) : Host.Outcome State Fault Refusal :=
  match s.group? i with
  | none => .next s
  | some g =>
    if !s.preempting g.ctx || !g.savable then .next s
    else if g.phase == .halted then .next (s.stopGroup g 0xFFFFFFFF)
    else if g.paths.all (s.parked g) then .next (s.stopGroup g g.liveOctets)
    else .next s

/-- A forced save stops a group once the pending results of its windows are written and no trap is being taken;
until then it issues nothing (R140, R256). -/
def State.forceStop (s : State) (g : Group) : State :=
  if g.phase == .saved || g.phase == .dissolving then s
  else if g.windowPending || !g.savable then s.setGroup { g with saving := true }
  else s.stopGroup g (if g.phase == .live && g.paths.all (s.parked g) then g.liveOctets else 0xFFFFFFFF)

/-- PREEMPT_WINDOW_EXPIRE: 200 µs after the start, every group not yet saved is stopped and saved in
full (R256). -/
def execPreemptWindowExpire (c : Nat) (s : State) : Host.Outcome State Fault Refusal :=
  match (s.ctx? c).bind (·.preempt) with
  | none => .next s
  | some (t, _) =>
    if s.time < t + 200000 then .next s
    else .next ((s.groups.filter (fun g => g.ctx == c)).foldl (fun (s : State) h =>
      match s.group? h.id with
      | some g => s.forceStop g
      | none => s) s)

/-! ### The save (R255, R257) -/

/-- Copy a range of storage. -/
def State.copyRange (s : State) (src dst n : Nat) : State :=
  let cells := s.mem.filter (fun e => decide (src ≤ e.1 ∧ e.1 < src + n))
  let s := s.zero dst n
  { s with mem := cells.foldl (fun m (e : Nat × Byte) => SMap.set Memory.unlisted m (e.1 - src + dst) e.2) s.mem }

/-- Posted receives stay outstanding over a save (R410). -/
def OpKind.receive : OpKind → Bool
  | .mrecv _ => true
  | _ => false

/-- Every group of a context is stopped (R257). -/
def State.allSaved (s : State) (c : Nat) : Bool := s.groups.all (fun g => g.ctx != c || g.phase == .saved)

/-- Steps 1, 2 and 4 of R257, when the write-backs of step 3 have been started. -/
def State.saveReady (s : State) (c : Nat) : Bool :=
  s.allSaved c && s.groups.all (fun g => g.ctx != c || decide (g.twMax ≤ s.time)) &&
  s.ops.all (fun o => o.ctx != c || o.kind.receive) &&
  s.engines.all (fun e => e.2.entries.all (fun x => x.ctx != c)) &&
  s.launches.all (fun l => l.ctx != c || decide (l.tw ≤ s.time))

/-- A storage key lies in what a crew holds of scratch SRAM. -/
def Crew.owns (x : Crew) (key : Nat) : Bool :=
  x.taken.any (fun t =>
    let b := scratchKey x.cluster t.1 t.2.1
    decide (b ≤ key ∧ key < b + t.2.2.1))

/-- Write a crew's scratch SRAM images and free its place (R257) (log 9, DESIGN CHOICE). -/
def State.saveCrew (s : State) (c : Ctx) (x : Crew) : State :=
  let key := c.desc.imageKey x.cluster
  let s := x.taken.foldl (fun (s : State) t =>
    s.copyRange (scratchKey x.cluster t.1 t.2.1) (key + t.1 * 2 ^ 20 + t.2.1) t.2.2.1) s
  let s := s.scrapCrew c.num x
  let gs := s.crewGroups x.kid x.crew
  let stored := gs.map (fun (g : Group) => { g with
    rebind := (s.engine g.engineNum).tiles.filter (fun t => t.owner == g.id) })
  let img : Image := {
    kid := x.kid
    crew := x.crew
    cluster := x.cluster
    split := SMap.get 0 s.split x.cluster
    metas := (List.range 6).flatMap (fun q => ((s.engine (x.cluster * 6 + q)).metas.filter (fun m =>
      m.kid == x.kid)).map (fun m => (q, m)))
    cells := s.cells.filter (fun e => e.kid == x.kid && x.owns e.key)
    posted := s.links.posted.filter (fun p => p.kid == x.kid && p.crew == x.crew) }
  let s := { s with
    images := s.images ++ [img]
    cells := s.cells.filter (fun e => !(e.kid == x.kid && x.owns e.key))
    engines := s.engines.map (fun (e : Nat × Engine) => (e.1, { e.2 with
      tiles := e.2.tiles.filter (fun t => !gs.any (fun g => g.id == t.owner))
      metas := e.2.metas.filter (fun m => !(m.kid == x.kid && e.1 / 6 == x.cluster)) }))
    links := { s.links with posted := s.links.posted.filter (fun p => !(p.kid == x.kid && p.crew == x.crew)) } }
  let s := gs.foldl (fun (s : State) g => s.removeGroup g) s
  s.modCrew x.kid x.crew (fun x => { x with image := some key, stored := stored })

/-- Crews of a context. -/
def State.ctxCrews (s : State) (c : Nat) : List Crew :=
  s.crews.filter (fun x => match s.launch? x.kid with
    | some l => l.ctx == c
    | none => false)

/-- Write a group's fragment stack: the paths of its slots, its fragments, and those of a handler frame where
no path stands now (R255, R305, R316). -/
def State.keepFrags (s : State) (g : Group) : State :=
  let frozen := match g.frame with
    | some f => f.paths
    | none => []
  (frozen ++ g.paths).foldl (fun (s : State) p => (s.keepRecord g p).keepDeep g p) s

/-- The last SRAM image of a cluster: 4 KiB for each instance's reference, then the records that
have not spilled, in the order in which each instance keeps them (R327, R332). -/
def State.keepLast (s : State) (d : Desc) (x : Crew) : State :=
  let key := d.lastKey x.cluster
  let s := s.freeBytes key (4096 * x.insts.length)
  let words := x.insts.flatMap (fun i => ((i.ready.flatten ++ i.recs).filter (fun r => !r.spilled)).flatMap (fun r =>
    match i.ref with
    | some f => r.words f.vmask
    | none => []))
  s.writeWords (key + 4096 * x.insts.length) words

/-- The images of a cluster but those of scratch SRAM (R255, R257). -/
def State.keepCluster (s : State) (c : Ctx) (cluster : Nat) : State :=
  let d := c.desc
  let gs := s.groups.filter (fun g => g.ctx == c.num && g.id.cluster == cluster)
  let mine := fun (kid : Nat) => (s.launch? kid).any (fun l => l.ctx == c.num)
  let s := gs.foldl (fun (s : State) g => (s.keepFrags g).keepGroup g) s
  let s := (s.imageCrews c.num cluster).foldl (fun (s : State) x => s.keepLast d x) s
  let s := (List.range 6).foldl (fun (s : State) q => s.keepEngine d cluster q (fun i => gs.any (fun g => g.id == i))) s
  let s := (List.range 24).foldl (fun (s : State) core => s.keepCells d cluster core mine) s
  let s := (s.links.overflow.filter (fun o => o.ctx == c.num && o.cluster == cluster)).zipIdx.foldl
    (fun (s : State) m => s.keepMessage d cluster m.2 m.1.pkt) s
  ((s.keepBarriers c.num cluster).keepPosted c.num cluster).keepLaunches c.num cluster

/-- Steps 3 and 6 of R257: private lines are written back, copies and reservations go (R62, R214). -/
def State.cleanL1 (s : State) (c : Nat) : State :=
  let s := (s.l1.filter (fun l => l.kind == .priv c)).foldl (fun (s : State) (l : L1Line) => s.evictLine l) s
  { s with
    l1 := s.l1.filter (fun l => l.ctx != c)
    resv := s.resv.filter (fun r => match r.owner with
      | .thread x _ => x != c
      | .group x _ => x != c) }

/-! ### Resumption (R258) -/

/-- The image of a saved crew. -/
def State.image? (s : State) (x : Crew) : Option Image :=
  s.images.find? (fun i => i.kid == x.kid && i.crew == x.crew)

/-- A saved crew can be put on a cluster in its old places: its ranges are free, and R287's limits hold
(log 35, DEDUCED). -/
def State.roomFor (s : State) (c : Ctx) (x : Crew) (i : Image) (k : Nat) : Bool :=
  let rs := s.residents k
  let split := if rs.isEmpty then i.split else SMap.get 0 s.split k
  let line := 2 ^ 20 - split
  let hdr := s.hdrOf x.kid
  let keyed := hdr.keys != 0 && rs.any (fun r => (s.hdrOf r.kid).keys != 0)
  let bars := fun (y : Crew) => y.crewBars.length + sumNat (y.teamBars.map (·.length))
  c.desc.place.testBit k && pairGet 0 s.svc.clstate k == 0 && !keyed &&
  decide (sumNat (rs.map bars) + bars x ≤ 512) &&
  x.taken.all (fun t => (if t.2.2.2 then decide (line ≤ t.2.1) else decide (t.2.1 + t.2.2.1 ≤ line)) &&
    rs.all (fun r => r.taken.all (fun u => u.1 != t.1 || !overlap u.2.1 u.2.2.1 t.2.1 t.2.2.1))) &&
  (List.range 24).all (fun core =>
    let n := (x.stored.filter (fun g => g.id.core == core)).length
    let e := (s.cells.filter (fun e => e.cluster == k && e.core == core)).length
    (n == 0 || (s.coreFits k core n hdr && s.quadFits x.kid k core)) &&
      decide (e + (i.cells.filter (fun e => e.core == core)).length ≤ 128)) &&
  i.posted.all (fun p => !s.links.posted.any (fun q => q.cluster == k && q.entry == p.entry))

/-- Registers within the saved octets; the others read 0 (R118). -/
def Group.keepOctets (g : Group) : Group :=
  { g with
    v := g.v.filter (fun e => g.savedLive.getLsbD (e.1 / 256))
    s := g.s.filter (fun e => g.savedLive.getLsbD (24 + e.1 / 8)) }

/-- A cell of a crew that has moved to another cluster. -/
def CellRef.move (r : CellRef) (old new : Nat) : CellRef :=
  if r.cluster = old then { r with cluster := new, key := r.key - scratchKey old 0 0 + scratchKey new 0 0 } else r

/-- A path as it resumes: its wait is on the moved cell. -/
def Path.moved (p : Path) (old new : Nat) : Path :=
  match p.park with
  | some (.cell r ph m e) => { p with park := some (.cell (r.move old new) ph m e) }
  | _ => p

/-- Put the queued paths of a restored group into the split table while entries are free (R316). -/
def requeue (free : Nat) : List Path → List Path
  | [] => []
  | p :: ps => match p.place with
    | .queued r _ => { p with place := .queued r (free == 0) } :: requeue (free - 1) ps
    | _ => p :: requeue free ps

/-- Releases that were stalled when the group was saved stall again (R256, R296). A `tlsig` translates its address
again; where that fails now, it issues anew, and traps or waits for the host (R379) (log 20, DEDUCED). -/
def State.askAgain (s : State) (g : Group) : State :=
  g.allPaths.foldl (fun (s : State) p =>
    let n := s.nextId
    let at_ := { p with pc := p.pc - 8 }
    match p.park with
    | some (.launch _ sys c q v) =>
      (s.startOp g (s.newOp g at_ p.mask (.kick c q v) [kickPart] [] []) [] []).parkOn g.id p.id (.launch n sys c q v)
    | some (.tlsig _ sys set va _ v) => match s.devXlate g.ctx .atomic va 8 with
      | .ok t =>
        let key := t.key?.getD noKey
        let part : Part := { kickPart with key := key, b := v, who := g.owner true 0, sysDone := false }
        (s.startOp g (s.newOp g at_ p.mask (.tlsig set v) [part] [] []) [] []).parkOn g.id p.id (.tlsig n sys set va key v)
      | .error _ => match s.group? g.id with
        | some h => s.setGroup (h.setAnyPath { at_ with park := none })
        | none => s
    | _ => s) s

/-- Restore a saved group on its core of another cluster: in its slot if that is free, else in the
lowest free one (R258, R299) (log 35, DEDUCED). Its path counters start at zero; a copy that the group obtained before the
save serves it no more (R94, R257). -/
def State.restoreGroup (s : State) (old new : Nat) (g : Group) : State :=
  let slot := if (s.coreGroups new g.id.core).any (fun h => h.id.slot == g.id.slot) then
      (s.freeSlot new g.id.core).getD 0 else g.id.slot
  let id : GroupId := { cluster := new, core := g.id.core, slot := slot }
  let (s, gval) := s.takeSlot id
  let s := { s with ops := s.ops.map (fun (o : Op) =>
    if o.gid == g.id && o.gval == g.gval && o.kid == g.kid then { o with gid := id, gval := gval } else o) }
  let g := g.keepOctets
  let free := 64 - s.splitUsed new id.core
  let paths := requeue free (g.paths.map (fun p => p.moved old new))
  let left := free - (paths.filter Path.inTable).length
  let g := { g with
    id := id
    gval := gval
    phase := g.before
    before := .live
    paths := paths
    frame := g.frame.map (fun (f : Frame) => { f with paths := requeue left (f.paths.map (fun p => p.moved old new)) })
    intReq := g.intReq.map (fun r => r.move old new)
    rebind := g.rebind.map (fun (t : AccTile) => { t with owner := id })
    flights := []
    scTime := some (s.time, s.nextId)
    lastIssue := none
    stalledAt := none }
  let s := ((s.addGroup g).rearm g).sched g 11 g.live 0 0
  let s := (s.keepFrags g).askAgain g
  s.tryRebind id

/-- Put a saved crew on a cluster. -/
def State.putBack (s : State) (c : Ctx) (x : Crew) (i : Image) (k : Nat) : State :=
  let key := x.image.getD 0
  let s := { s with split := SMap.set 0 s.split k (if (s.residents k).isEmpty then i.split else SMap.get 0 s.split k) }
  let s := x.taken.foldl (fun (s : State) t =>
    let dst := scratchKey k t.1 t.2.1
    (s.grant dst t.2.2.1 c.num).copyRange (key + t.1 * 2 ^ 20 + t.2.1) dst t.2.2.1) s
  let shift := fun (a : Nat) => a - scratchKey i.cluster 0 0 + scratchKey k 0 0
  let s := { s with
    images := s.images.filter (fun j => !(j.kid == i.kid && j.crew == i.crew))
    cells := s.cells ++ i.cells.map (fun (e : CellEntry) => { e with cluster := k, key := shift e.key })
    links := { s.links with posted := s.links.posted ++ i.posted.map (fun (p : Posted) =>
      { p with cluster := k, key := p.key.map shift }) } }
  let s := i.metas.foldl (fun (s : State) m => s.modEngine (k * 6 + m.1) (fun e => { e with metas := e.metas ++ [m.2] })) s
  let moved := fun (r : Record) => { r with intReq := r.intReq.map (fun c => c.move i.cluster k) }
  let s := s.modCrew x.kid x.crew (fun x => { x with
    cluster := k
    image := none
    stored := []
    insts := x.insts.map (fun (n : RInst) => { n with
      recs := n.recs.map moved, ready := n.ready.map (fun rs => rs.map moved) }) })
  x.stored.foldl (fun (s : State) g => s.restoreGroup i.cluster k g) s

/-- Put a saved crew on the lowest-numbered cluster that takes it. -/
def State.restoreCrew (c : Ctx) (s : State) (x : Crew) : Option State :=
  match s.image? x with
  | none => some s
  | some i => (List.range 24).findSome? (fun k => if s.roomFor c x i k then some (s.putBack c x i k) else none)

/-- Every saved crew of the context is put back, or none can be. -/
def State.restoreAll (s : State) (c : Ctx) : Option State :=
  (s.ctxCrews c.num).foldlM (State.restoreCrew c) s

/-- Messages of the overflow images are matched in their order (R397) (log 36, DEDUCED). -/
def State.replayMessages (s : State) (c : Nat) (old : List Image) (ms : List (Nat × PktHeader)) : State :=
  let count := fun (k : Nat) => (ms.filter (fun m => m.1 == k)).length
  let place := fun (k : Nat) => match (old.find? (fun i => i.cluster == k)).bind (fun i => s.crew? i.kid i.crew) with
    | some x => x.cluster
    | none => k
  if ms.any (fun m => decide (count m.1 > 64)) then s.ctxFault c .linkOverflow
  else ms.foldl (fun (s : State) m => s.matchMessage c (place m.1) m.2) s

/-- Resume a SAVED context if its crews can be placed (log 35, DEDUCED). -/
def State.resume (s : State) (x : Ctx) : Option State :=
  let old := s.images.filter (fun i => (s.ctxCrews x.num).any (fun y => y.kid == i.kid && y.crew == i.crew))
  (s.restoreAll x).map (fun s =>
    let s := s.modCtx x.num (fun x => { x with
      st := .resident
      timeSaved := false
      watchStart := none
      sliceStart := s.time
      msgImage := [] })
    let s := s.releaseQueues x.num
    s.replayMessages x.num old x.msgImage)

/-! ### Checkpoints (R429, R430) -/

/-- The replay area of a context: its key and size (R428). -/
def CtxTrace.area (t : CtxTrace) : Nat × Nat := (bits t.rplbase 51 26 * 2 ^ 26, t.rplbase % 2 ^ 16 * 2 ^ 26)

/-- What a checkpoint copies: the save area, the share of chip scratchpad, and the granules that the context has
written since the previous one (R429). -/
def State.copiedRanges (s : State) (x : Ctx) : List (Nat × Nat) :=
  (x.desc.save, x.desc.savesize * 65536) ::
    ((if x.desc.xshare = 0 then [] else (List.range 96).map (fun k => (chipKey k x.xbase, 1024 * x.desc.xshare))) ++
      (s.dirty.filter (fun d => d.1 == x.num)).map (fun d => (4096 * d.2, 4096)))

/-- Bytes that a checkpoint and its log take in the area (log 47, DESIGN CHOICE). -/
def Checkpoint.size (c : Checkpoint) : Nat :=
  sumNat (c.ranges.map (·.2)) + sumNat (c.log.map (fun e => 8 * (1 + e.2.length)))

/-- When the area fills, the oldest checkpoint is discarded with its log (R429). -/
def dropOldest (n : Nat) : List Checkpoint → List Checkpoint
  | [] => []
  | c :: cs => if sumNat ((c :: cs).map Checkpoint.size) ≤ n then c :: cs else dropOldest n cs

/-- The log of the last checkpoint ends. -/
def closeLog (log : List (Nat × List Nat)) (cs : List Checkpoint) : List Checkpoint :=
  cs.dropLast ++ cs.getLast?.toList.map (fun c => if c.log.isEmpty then { c with log := log } else c)

/-- A saved context's checkpoint goes to its replay area, whose layout is open: its bytes are free values (R429)
(log 2, log 47, DESIGN CHOICE). -/
def State.takeCheckpoint (s : State) (x : Ctx) : State :=
  let ranges := s.copiedRanges x
  let crews := s.ctxCrews x.num
  let c : Checkpoint := {
    ctx := x.num
    time := s.time
    xbase := x.xbase
    queues := x.queues
    wins := x.wins
    msgImage := x.msgImage
    dispatchWait := x.dispatchWait
    launches := s.launches.filter (fun (l : Launch) => l.ctx == x.num)
    crews := crews
    images := s.images.filter (fun (i : Image) => crews.any (fun (y : Crew) => y.kid == i.kid && y.crew == i.crew))
    ranges := ranges
    bytes := s.mem.filter (fun e => ranges.any (fun r => decide (r.1 ≤ e.1 ∧ e.1 < r.1 + r.2)))
    log := [] }
  let mine := closeLog x.trace.log (s.recorder.ckpts.filter (fun (k : Checkpoint) => k.ctx == x.num))
  let (base, size) := x.trace.area
  let s := { s with
    dirty := s.dirty.filter (fun (d : Nat × Nat) => d.1 != x.num)
    recorder := { s.recorder with
      ckpts := s.recorder.ckpts.filter (fun (k : Checkpoint) => k.ctx != x.num) ++ dropOldest size (mine ++ [c]) } }
  let s := s.modCtx x.num (fun x => { x with trace := { x.trace with log := [] } })
  if base + size ≤ localEnd then s.freeBytes base size else s

/-- Put back the storage of a checkpoint; the share may stand elsewhere now. -/
def State.restoreBytes (s : State) (xbase : Nat) (c : Checkpoint) : State :=
  let move := fun (k : Nat) => if k ≥ 2 ^ 53 then k - c.xbase + xbase else k
  let s := c.ranges.foldl (fun (s : State) r => s.zero (move r.1) r.2) s
  c.bytes.foldl (fun (s : State) e => s.setByte (move e.1) e.2) s

/-- A context in replay mode starts from a checkpoint that stands: it is SAVED as the checkpoint left it, the storage
copied up to it is put back, and the logs from it on are to be followed (R430) (log 47, DESIGN CHOICE). -/
def State.chooseCheckpoint (s : State) (ctx n : Nat) : State :=
  match s.ctx? ctx with
  | none => s
  | some x =>
    let mine := closeLog x.trace.log (s.recorder.ckpts.filter (fun (k : Checkpoint) => k.ctx == ctx))
    match mine[n]? with
    | none => s
    | some c =>
      if x.replayMode != 2 || (x.st != .idle && x.st != .saved) then s
      else
        let s := (mine.take (n + 1)).foldl (fun (s : State) c => s.restoreBytes x.xbase c) s
        let old := s.ctxCrews ctx
        let is := fun (kid crew : Nat) => old.any (fun (y : Crew) => y.kid == kid && y.crew == crew)
        { s with
          recorder := { s.recorder with ckpts := s.recorder.ckpts.filter (fun (k : Checkpoint) => k.ctx != ctx) ++ mine }
          launches := s.launches.filter (fun (l : Launch) => l.ctx != ctx) ++ c.launches
          crews := s.crews.filter (fun (y : Crew) => !is y.kid y.crew) ++ c.crews
          images := s.images.filter (fun (i : Image) => !is i.kid i.crew) ++ c.images
          ops := s.ops.filter (fun (o : Op) => o.ctx != ctx) }.setCtx { x with
            st := .saved
            saveTime := s.time
            queues := c.queues
            wins := c.wins
            msgImage := c.msgImage
            dispatchWait := c.dispatchWait
            trace := { x.trace with log := (mine.drop n).flatMap Checkpoint.log } }

/-- SAVE_COMPLETE (R257): the private lines are written back first, and the save completes when that is done; the save of a checkpoint is followed at once by resumption (R429). -/
def execSaveComplete (c : Nat) (s : State) : Host.Outcome State Fault Refusal :=
  match s.ctx? c with
  | none => .next s
  | some x =>
    if x.st != .saving || !s.allSaved c then .next s
    else if s.l1.any (fun l => l.kind == .priv c) then .next (s.cleanL1 c)
    else if !s.saveReady c then .next s
    else
      let s := s.cleanL1 c
      let s := ((List.range 24).filter (fun k => x.desc.place.testBit k)).foldl (fun (s : State) k => s.keepCluster x k) s
      let s := (s.ctxCrews c).foldl (fun (s : State) y => s.saveCrew x y) s
      let mine := s.links.overflow.filter (fun o => o.ctx == c)
      let s := { s with links := { s.links with overflow := s.links.overflow.filter (fun o => o.ctx != c) } }
      let s := s.modCtx c (fun x => { x with
        st := .saved
        saveTime := s.time
        timeSaved := match x.preempt with
          | some (_, b) => b
          | none => false
        preempt := none
        msgImage := mine.map (fun o => (o.cluster, o.pkt)) ++ x.msgImage
        trace := { x.trace with ckpt := false } })
      if x.trace.ckpt then
        let s := s.takeCheckpoint (s.ctxOf c)
        .next ((s.resume (s.ctxOf c)).getD s)
      else .next s

/-- A waiting context that goes before another (R258). -/
def Ctx.before (y x : Ctx) : Bool :=
  decide (y.desc.prio > x.desc.prio) || (y.desc.prio == x.desc.prio && decide (y.saveTime < x.saveTime))

/-- A waiting context that competes for its clusters goes before it (R258). -/
def State.outranked (s : State) (x : Ctx) : Bool :=
  s.ctxs.any (fun y => y.num != x.num && y.st == .saved && y.timeSaved && y.before x &&
    y.desc.place &&& x.desc.place != 0 && (s.resume y).isSome)

/-- CTX_RESUME (R252): a context that cannot be placed at once, or whose turn it is not, waits for its
placement (R258). -/
def execCtxResume (c : Nat) (s : State) : Host.Outcome State Fault Refusal :=
  if c ≥ 256 then .next s
  else
    let x := s.ctxOf c
    if x.st != .saved then .next (s.err c)
    else match if s.outranked x then none else s.resume x with
      | some s => .next s
      | none => .next (s.modCtx c (fun x => { x with timeSaved := true }))

/-- TIME_RESUME_PLACE: placement is free for a context that waits for it (R252, R258). -/
def execTimeResumePlace (c : Nat) (s : State) : Host.Outcome State Fault Refusal :=
  match s.ctx? c with
  | none => .next s
  | some x =>
    if x.st != .saved || !x.timeSaved || s.outranked x then .next s
    else match s.resume x with
      | some s => .next s
      | none => .next s

/-! ### The watchdog (R261, R262) -/

/-- Engine work of a context is outstanding: operations, matrix instructions, emissions (R262, R326). -/
def State.engineWork (s : State) (c : Nat) : Bool :=
  s.ops.any (fun o => o.ctx == c && !o.kind.ordinary && !o.kind.receive) ||
  s.engines.any (fun e => e.2.entries.any (fun x => x.ctx == c)) ||
  (s.ctxCrews c).any (fun x => x.insts.head?.any (fun i => !i.ready.isEmpty))

/-- The three conditions of R262. -/
def State.stalled (s : State) (x : Ctx) : Bool :=
  let gs := s.groups.filter (fun g => g.ctx == x.num)
  x.st == .resident && !gs.isEmpty &&
  gs.all (fun g => g.phase != .halted && g.trapping.isNone && g.paths.all (fun p => match p.park with
    | some k => k.internal && s.waits g p
    | none => false)) &&
  !s.engineWork x.num &&
  s.launches.all (fun l => l.ctx != x.num || (l.st != .read && l.argWait.isNone))

/-- Follow the watchdog's conditions of every context (log 37, DEDUCED). -/
def State.watch (s : State) : State :=
  { s with ctxs := s.ctxs.map (fun (x : Ctx) =>
      if s.stalled x then (if x.watchStart.isNone then { x with watchStart := some s.time } else x)
      else if x.watchStart.isSome then { x with watchStart := none } else x) }

/-- WATCHDOG: the conditions have held for 1 ms (R262). -/
def execWatchdog (c : Nat) (s : State) : Host.Outcome State Fault Refusal :=
  match s.ctx? c with
  | none => .next s
  | some x => match x.watchStart with
    | some t => .next (if s.stalled x && decide (t + 1000000 ≤ s.time) then s.ctxFault c .watchdog else s)
    | none => .next s

end Sys2Proof.Machine
end

