-- ==== Sys2Proof/Machine/Recorder.lean ====
section
/-! DEFINITION. The event recorder, trace and debug stops (R411 to R428): trace FIFOs and their
drains, the freeze and the capsule, its views, and the debugger's commands. -/

namespace Sys2Proof.Machine

/-! ### Trace, marks and user records (R424 to R426) -/

/-- Ring size exponent of TRCBASE; other values disable (R424). -/
def trcLog (v : Nat) : Option Nat := if 10 ≤ v % 32 ∧ v % 32 ≤ 24 then some (v % 32) else none

/-- The context's trace ring, if one is enabled: base and size exponent. -/
def State.traceRing (s : State) (c : Nat) : Option (Nat × Nat) :=
  match s.ctx? c with
  | none => none
  | some x => (trcLog x.trace.trcbase).map (fun n => (bits x.trace.trcbase 51 12 * 4096, n))

def State.setFifo (s : State) (cluster core : Nat) (l : List (Nat × List Nat)) : State :=
  let k := cluster * 24 + core
  { s with recorder := { s.recorder with fifos := upsert (fun (f : Nat × List (Nat × List Nat)) => f.1 == k) (k, l) s.recorder.fifos } }

/-- Doublewords of a trace entry (R424). -/
def Group.traceWords (g : Group) (time payload word2 lost : Nat) : List Nat :=
  [time, payload, word2, g.gval.toNat + g.id.core * 2 ^ 32 + g.id.cluster * 2 ^ 37 + g.ctx * 2 ^ 42 + lost * 2 ^ 50]

/-- Put an entry in the core's FIFO, with the entries dropped since the last one (R424, R426). -/
def State.tracePut (s : State) (g : Group) (payload word2 : Nat) : State :=
  let k := g.id.cluster * 24 + g.id.core
  let lost := Nat.min 0x3FFF (pairGet 0 s.recorder.lost k)
  let s := s.setFifo g.id.cluster g.id.core
    (s.fifo g.id.cluster g.id.core ++ [(g.ctx, g.traceWords (s.coreTime g.id.cluster g.id.core) payload word2 lost)])
  if lost = 0 then s
  else
    let s := { s with recorder := { s.recorder with lost := pairSet s.recorder.lost k 0 } }
    s.unit g.id.cluster g.id.core g.ctx 4 (lost * 2 ^ 58)

/-- `trace` of a payload (R426). -/
def traceBody (gd : Guard) (payload : Group → Path → Nat) (s : State) (g : Group) (p : Path) : Res :=
  if !g.guard gd || (s.traceRing g.ctx).isNone then .done s
  else if (s.fifo g.id.cluster g.id.core).length ≥ 256 then .wait s .trace
  else .done (s.tracePut g (payload g p) (p.mask.toNat + g.pcw p.pc * 2 ^ 32))

/-- `trace`, 64-bit form (R426). -/
def execTrace (gd : Guard) (a : Fin 64) (s : State) : Host.Outcome State Fault Refusal :=
  issue (.trace gd a) s (traceBody gd (fun g p => (g.rd64 p (192 + a.val) 0).toNat))

/-- `trace`, 128-bit form (R426). -/
def execTraceImm (gd : Guard) (imm : DWord) (s : State) : Host.Outcome State Fault Refusal :=
  issue (.traceImm gd imm) s (traceBody gd (fun _ _ => imm.toNat))

/-- `mark` (R426) (log 48, DEDUCED). -/
def execMark (gd : Guard) (block : BitVec 20) (s : State) : Host.Outcome State Fault Refusal :=
  issue (.mark gd block) s (fun s g _ =>
    if !g.guard gd then .done s
    else if (s.fifo g.id.cluster g.id.core).length ≥ 256 then
      let k := g.id.cluster * 24 + g.id.core
      .done { s with recorder := { s.recorder with
        lost := pairSet s.recorder.lost k (pairGet 0 s.recorder.lost k + 1) } }
    else .done (s.tracePut g block.toNat (2 ^ 60)))

/-- `evt` (R426). -/
def execEvt (gd : Guard) (code : BitVec 16) (a : Fin 64) (s : State) : Host.Outcome State Fault Refusal :=
  issue (.evt gd code a) s (fun s g p =>
    if !g.guard gd then .done s
    else .done (s.recordG g 6 (code.toNat * 2 ^ 62 + (g.rdS p a).toNat * 2 ^ 30 + g.pcw p.pc * 4)))

/-- TRACE_DRAIN: the oldest entry of a core goes to its context's ring, or is discarded (R424, R425). -/
def execTraceDrain (cluster core : Nat) (s : State) : Host.Outcome State Fault Refusal :=
  match s.fifo cluster core with
  | [] => .next s
  | (c, ws) :: rest =>
    let s := s.setFifo cluster core rest
    let st := (s.ctxOf c).st
    match s.traceRing c with
    | none => .next s
    | some (base, n) =>
      if st == .killing || st == .killed || st == .free then .next s
      else
        let k := (s.ctxOf c).trace.trchead
        let key := base + 32 * (k % 2 ^ n)
        let s := if key + 32 ≤ localEnd && !s.marked key 32 then (s.releaseIngress (lineOf key)).writeWords key ws else s
        .next (s.modCtx c (fun x => { x with trace := { x.trace with trchead := (k + 1) % 2 ^ 64 } }))

/-- TRCBASE n is written (R424). -/
def execTrcbaseWrite (c : Nat) (v : DWord) (s : State) : Host.Outcome State Fault Refusal :=
  if c ≥ 256 then .next s
  else
    let w := bits v.toNat 51 12 * 4096 + v.toNat % 32
    let s := s.putCtx c (fun x => { x with trace := { x.trace with trcbase := w, trchead := 0 } })
    .next (if w % 32 ≠ 0 ∧ (trcLog w).isNone then s.err c else s)

/-! ### Freeze and capsule (R417 to R420) -/

/-- An island has power: 284 to 286 always, the others once an image runs, unless a cycle has it off
(R24, R431, R434). -/
def State.islandOn (s : State) (k : Nat) : Bool :=
  k == 284 || k == 285 || k == 286 || (s.boot.state == 3 && !s.svc.islandOff.contains k)

/-- A core's islands have power. -/
def State.coreOn (s : State) (cluster core : Nat) : Bool :=
  s.islandOn (quadOf cluster core) && s.islandOn (144 + cluster)

/-- Every core of the device. -/
def allCores : List (Nat × Nat) :=
  (List.range 24).flatMap (fun c => (List.range 24).map (fun k => (c, k)))

/-- The broadcast that reaches a core first: where several cores have sent one, any of them (R417) (log 2, log 41). -/
def State.castFor (s : State) : Option (Nat × Nat) :=
  s.recorder.freezing[((Config.freeByte s.freeCtr).toNat + 256 * (Config.freeByte (s.freeCtr + 1)).toNat) %
    s.recorder.freezing.length]?

/-- FREEZE_RECEIVE: the broadcast reaches a core (R417). -/
def execFreezeReceive (cluster core : Nat) (s : State) : Host.Outcome State Fault Refusal :=
  let now := s.coreTime cluster core
  match s.castFor with
  | none => .next s
  | some (t, code) =>
    if cluster ≥ 24 ∨ core ≥ 24 ∨ !s.coreOn cluster core then .next s
    else .next { s.setRing ((s.ring cluster core).freeze 0 0 now (now - t) code false) with freeCtr := s.freeCtr + 2 }

/-- A frozen ring thaws (R418). -/
def Ring.thaw (r : Ring) (time : Nat) : Ring :=
  if r.frozen then ({ r with frozen := false }.record 9 0 0 time 0).timebase time else r

/-- The logical core of a cluster that the spare stands for, by fuse or by repair (R16, R434). -/
def State.repairOf (s : State) (cluster : Nat) : Option Nat :=
  match s.svc.repaired.find? (fun e => e.1 == cluster) with
  | some e => some e.2
  | none => Config.fusedRepair cluster

/-- The capsule of the freeze in progress. -/
def State.sealed (s : State) (slot time : Nat) : Capsule where
  slot := slot
  serial := s.recorder.serial + 1
  ftime := time
  dropped := s.recorder.dropped
  faults := s.recorder.faults
  history := s.recorder.history
  tenants := (s.ctxs.filter (fun x => x.st != .free)).map (fun x => (x.num, x.desc.tenant))
  fwdig := s.boot.fwdig
  rings := s.recorder.rings
  absent := (allCores.filter (fun x => !s.coreOn x.1 x.2)).map (fun x => 24 * x.1 + x.2)
  spare := (List.range 24).filterMap (fun c => (s.repairOf c).map (fun k => 24 * c + k))

/-! ### Bytes of a view (R419 to R421) -/

/-- Pad a byte string with zeros, or cut it. -/
def padTo (n : Nat) (l : List Byte) : List Byte := l.take n ++ List.replicate (n - l.length) 0

/-- The n low bytes of a number. -/
def leBytes (n v : Nat) : List Byte := (List.range n).map (fun k => BitVec.ofNat 8 (v / 256 ^ k))

/-- Tenant of a context at a TIME, or none where only later CREATEs are known (R421). -/
def Capsule.tenantAt (c : Capsule) (ctx time : Nat) : Option Nat :=
  let hs := c.history.filter (fun h => h.2 % 256 == ctx)
  match (hs.filter (fun h => decide (h.1 ≤ time))).getLast? with
  | some h => some (h.2 / 256)
  | none => if hs.isEmpty then some (pairGet 0xFFFF c.tenants ctx) else none

/-- Tenant of a fault-list entry: its context's, at its TIME (log 41, DEDUCED). -/
def Capsule.faultTenant (c : Capsule) (f : Nat × List Byte) : Option Nat :=
  c.tenantAt f.1 (leNat ((f.2.drop 32).take 8))

/-- Field of a record word (R412). -/
def recKind (w : Nat) : Nat := w / 2 ^ 124 % 16
def recCtx (w : Nat) : Nat := w / 2 ^ 116 % 256
def recTlo (w : Nat) : Nat := w / 2 ^ 78 % 2 ^ 32

/-- Records of a ring from the oldest on, with their indices. -/
def Ring.inOrder (r : Ring) : List (Nat × Nat) :=
  (List.range 4096).map (fun k => let i := (r.head + k) % 4096; (i, SMap.get 0 r.recs i))

/-- Give every record its TIME: the upper half is that of the latest TIMEBASE; records before the
first one in the ring stand at or before it. -/
def datedFrom (hi : Nat) (first : Option Nat) : List (Nat × Nat) → List (Nat × Nat × Nat)
  | [] => []
  | (i, w) :: rest =>
    if recKind w = 1 then
      let h := w / 2 ^ 46 % 2 ^ 32
      (i, w, h * 2 ^ 32 + recTlo w) :: datedFrom h none rest
    else
      let h := match first with
        | some t => if recTlo w ≤ t then hi else hi - 1
        | none => hi
      (i, w, h * 2 ^ 32 + recTlo w) :: datedFrom hi first rest

def Ring.dated (r : Ring) : List (Nat × Nat × Nat) :=
  match r.inOrder.find? (fun x => recKind x.2 == 1) with
  | some (_, w) => datedFrom (w / 2 ^ 46 % 2 ^ 32) (some (recTlo w)) r.inOrder
  | none => datedFrom 0 none r.inOrder

/-- A record belongs to a group or context, and to whom (R421). -/
def Capsule.recTenant (c : Capsule) (w time : Nat) : Option Nat :=
  if 2 ≤ recKind w ∧ recKind w ≤ 7 then c.tenantAt (recCtx w) time else none

/-- A record in a view. -/
def View.record (v : View) (w time : Nat) : Nat :=
  match v.tenant with
  | none => w
  | some t =>
    if 2 ≤ recKind w ∧ recKind w ≤ 7 ∧ v.capsule.recTenant w time ≠ some t then recordWord 10 0 0 (recTlo w) 0 else w

/-- Tenants touched (R421). -/
def Capsule.touched (c : Capsule) : List Nat :=
  (c.faults.filterMap c.faultTenant ++
    c.rings.flatMap (fun r => r.dated.filterMap (fun x => c.recTenant x.2.1 x.2.2))).eraseDups.filter (· != 0xFFFF)

/-- VIEW word (R419). -/
def View.word (v : View) : Nat :=
  match v.tenant with
  | none => 0
  | some t => t + 2 ^ 16

/-- The item belongs to another tenant than the view's. -/
def View.other (v : View) (t : Option Nat) : Bool :=
  match v.tenant with
  | none => false
  | some x => t != some x

/-- The header's 4,096 bytes. -/
def View.header (v : View) : List Byte :=
  let c := v.capsule
  let faults := c.faults.flatMap (fun f => if v.other (c.faultTenant f) then List.replicate 64 0 else padTo 64 f.2)
  let history := c.history.flatMap (fun h => if v.other (some (h.2 / 256)) then List.replicate 16 0 else leBytes 8 h.1 ++ leBytes 8 h.2)
  let tenants := (List.range 256).flatMap (fun k =>
    let t := pairGet 0xFFFF c.tenants k
    leBytes 2 (if v.other (some t) then 0xFFFF else t))
  padTo 4096 (padTo 0x40 (bytesOf [1, c.serial, c.ftime, v.word, c.faults.length + c.dropped * 2 ^ 16]) ++
    padTo 0x200 faults ++ padTo 0x400 history ++ tenants ++ padTo 32 (Config.sha3 Config.publicKey) ++ padTo 32 c.fwdig)

/-- One core's section: 64 bytes and the records in index order. -/
def View.section (v : View) (cluster core : Nat) : List Byte :=
  let c := v.capsule
  let n := 24 * cluster + core
  let absent := c.absent.contains n
  let phys := if c.spare.contains n then 24 else core
  let place := cluster + core * 2 ^ 5 + phys * 2 ^ 10 + bit01 absent * 2 ^ 15
  let r := if absent then Ring.start cluster core
    else (c.rings.find? (fun r => r.cluster == cluster && r.core == core)).getD (.start cluster core)
  let ws := r.dated.foldl (fun (m : SMap Nat) x => SMap.set 0 m x.1 (v.record x.2.1 x.2.2)) []
  padTo 64 (bytesOf [place, r.head, r.ctime]) ++ (List.range 4096).flatMap (fun i => leBytes 16 (SMap.get 0 ws i))

/-- The 576 sections in order. -/
def View.sections (v : View) : List (List Byte) := allCores.map (fun x => v.section x.1 x.2)

/-- h_576 (R420). -/
def View.digest (v : View) : List Byte :=
  v.sections.foldl (fun (h : List Byte) sec => Config.sha3 (h ++ sec)) (Config.sha3 v.header)

/-- The signature over h_576, SERIAL and the VIEW word (R420). -/
def View.signature (v : View) : List Byte :=
  Config.sign (v.digest ++ leBytes 8 v.capsule.serial ++ leBytes 8 v.word)

/-- All bytes of a view: 4,096 + 576 × 65,600 + 4,096 (R419). -/
def View.bytes (v : View) : List Byte :=
  v.header ++ v.sections.flatten ++ padTo 4096 (padTo 32 v.digest ++ v.signature)

/-- Length of every view. -/
def viewLen : Nat := 4096 + 576 * 65600 + 4096

/-! ### Sealing and retrieval (R418, R422, R423) -/

/-- The free retention slot of least number (log 41, DEDUCED). -/
def Recorder.freeSlot (r : Recorder) : Option Nat :=
  [0, 1].find? (fun k => !r.capsules.any (fun c => c.slot == k))

/-- Push the first faulting context's view to the host, where CAPPUSH asks for it and the context
allows it (R423). -/
def State.pushView (s : State) (c : Capsule) : State :=
  match c.faults.head? with
  | none => s
  | some f =>
    if s.recorder.cappush % 2 = 1 && !(s.desc f.1).mode 69 && s.hostUp then
      s.writeBytes (hostKey (s.recorder.cappush / 4096 * 4096)) (View.bytes { capsule := c, tenant := some (s.desc f.1).tenant })
    else s

/-- CAPSULE_SEAL: every powered core has frozen (R418, R423). -/
def execCapsuleSeal (s : State) : Host.Outcome State Fault Refusal :=
  match leastBy (fun t => t) (s.recorder.freezing.map (·.1)), s.recorder.freeSlot with
  | some t, some slot =>
    if !allCores.all (fun x => !s.coreOn x.1 x.2 || (s.ring x.1 x.2).frozen) then .next s
    else
      let c := s.sealed slot t
      let s := { s with recorder := { s.recorder with
        capsules := s.recorder.capsules ++ [c]
        serial := s.recorder.serial + 1
        freezing := []
        faults := []
        rings := s.recorder.rings.map (fun (r : Ring) => r.thaw (s.coreTime r.cluster r.core)) } }
      .next ((s.pushView c).cause 2)
  | _, _ => .next s

/-- CAPREQ is written (R422). -/
def execCapreq (v : DWord) (s : State) : Host.Outcome State Fault Refusal :=
  .next { s with recorder := { s.recorder with capreq := some v.toNat, caprdy := 0 } }

/-- CAPSULE_VIEW_READY: the requested view stands in CAPWIN, or there is none (R422). -/
def execCapsuleViewReady (s : State) : Host.Outcome State Fault Refusal :=
  match s.recorder.capreq with
  | none => .next s
  | some v =>
    let r := { s.recorder with capreq := none }
    let tenant := if v.testBit 16 then some (v % 2 ^ 16) else none
    let found : Option Capsule := (r.capsules.find? (fun c => c.slot == bits v 17 17)).filter (fun c =>
      match tenant with
      | some t => c.touched.contains t
      | none => true)
    match found with
    | some c => .next { s with recorder := { r with
        capview := some { capsule := c, tenant := tenant }
        caprdy := viewLen * 2 ^ 32 + 1 } }
    | none => .next { s with recorder := { r with capview := none, caprdy := 2 } }

/-- CAPACK is written (R422). -/
def execCapack (v : DWord) (s : State) : Host.Outcome State Fault Refusal :=
  let hit := fun (c : Capsule) => c.slot == v.toNat % 2 && c.serial % 2 ^ 63 == v.toNat / 2
  .next { s with recorder := { s.recorder with capsules := s.recorder.capsules.filter (fun c => !hit c) } }

/-- CAPSTAT (R422). -/
def State.capstat (s : State) : Nat :=
  let ten := fun (k : Nat) => match s.recorder.capsules.find? (fun c => c.slot == k) with
    | some c => Nat.min 255 c.touched.length
    | none => 0
  let valid := fun (k : Nat) => bit01 (s.recorder.capsules.any (fun c => c.slot == k))
  s.recorder.dropped * 2 ^ 32 + ten 1 * 2 ^ 16 + ten 0 * 2 ^ 8 + valid 1 * 2 + valid 0

/-- Bytes of CAPWIN from an offset, as a number (R422). -/
def State.capwin (s : State) (off size : Nat) : Nat :=
  match s.recorder.capview with
  | none => 0
  | some v => leNat ((v.bytes.drop off).take size)

/-! ### Debug stops (R427) -/

/-- The groups that a command names. -/
def DbgSel.names (sel : DbgSel) (c : Nat) (g : Group) : Bool :=
  g.ctx == c && (match sel with
    | .all => true
    | .one i => g.id == i)

/-- Apply a change to every group that a command names. -/
def State.eachNamed (s : State) (c : Nat) (sel : DbgSel) (f : State → Group → State) : State :=
  (s.groups.filter (fun g => DbgSel.names sel c g)).foldl f s

/-- STOP, with a debugger attached (R427). -/
def execDbgStop (c : Nat) (sel : DbgSel) (s : State) : Host.Outcome State Fault Refusal :=
  if (s.ctxOf c).debug then
    .next (s.eachNamed c sel (fun s g => if g.phase == .live then s.debugStop g .host else s))
  else .next s

def StopReason.num : StopReason → Nat
  | .halt => 1
  | .breakTrap => 2
  | .breakpoint => 3
  | .step => 4
  | .host => 5

/-- A halted group runs again; its paths pass a breakpoint that they stand at (R427). -/
def State.resumeStop (s : State) (g : Group) (step : Bool) : State :=
  if g.phase != .halted then s
  else
    let n := match g.stop with
      | some r => r.num
      | none => 0
    let s := s.setGroup { g with
      phase := g.before
      before := .live
      stop := none
      stepping := if step then some g.issued else none
      passing := g.paths.map (·.id) }
    s.sched g 9 g.live 0 n

/-- GO (R427). -/
def execDbgGo (c : Nat) (sel : DbgSel) (s : State) : Host.Outcome State Fault Refusal :=
  .next (s.eachNamed c sel (fun s g => s.resumeStop g false))

/-- STEP (R427). -/
def execDbgStep (c : Nat) (sel : DbgSel) (s : State) : Host.Outcome State Fault Refusal :=
  .next (s.eachNamed c sel (fun s g => s.resumeStop g true))

/-- A path's next instruction lies at an enabled breakpoint that it does not pass (R427). -/
def State.atBreakpoint (s : State) (g : Group) (p : Path) : Bool :=
  match s.ctx? g.ctx with
  | none => false
  | some c => c.debug && c.bp.testBit 28 && c.bp % 2 ^ 28 == g.pcw p.pc && !g.passing.contains p.id

/-- After an act: a group that was stepped and has issued stops (R427). -/
def State.stepStops (s : State) : State :=
  (s.groups.filter (fun g => g.stepping.any (fun n => decide (g.issued > n)) && g.phase == .live && g.trapping.isNone)).foldl (fun (s : State) g =>
    let g := { g with stepping := none }
    if (s.ctxOf g.ctx).debug then s.debugStop g .step else s.setGroup g) s

/-! ### Replay registers and checkpoints (R428, R429) -/

/-- RPLCTL n is written: it takes effect while the context is IDLE or SAVED (R428). -/
def execRplctlWrite (c : Nat) (v : DWord) (s : State) : Host.Outcome State Fault Refusal :=
  if c ≥ 256 then .next s
  else
    let st := (s.ctxOf c).st
    if st != .idle && st != .saved then .next s
    else
      let w := v.toNat % 2 ^ 9
      let s := s.putCtx c (fun x => { x with trace := { x.trace with rplctl := w, lastCkpt := s.time } })
      let t := w / 4
      .next (if w % 4 = 3 ∨ (w % 4 = 1 ∧ (t = 0 ∨ t > 100)) then s.err c else s)

/-- CHECKPOINT: every T ms a recorded context is pre-empted and resumed at once (R429). The resumption
is `SAVE_COMPLETE`'s (log 47, DESIGN CHOICE). -/
def execCheckpoint (c : Nat) (s : State) : Host.Outcome State Fault Refusal :=
  match s.ctx? c with
  | none => .next s
  | some x =>
    let due := decide (x.trace.lastCkpt + x.trace.rplctl / 4 % 128 * 1000000 ≤ s.time)
    let full := decide (Config.orderLog ≤ x.trace.log.length)
    if x.st == .resident && x.replayMode == 1 && (due || full) then
      .next ((s.startSave c true).modCtx c (fun x => { x with trace := { x.trace with lastCkpt := s.time, ckpt := true } }))
    else .next s

end Sys2Proof.Machine
end

