-- ==== Sys2Proof/Machine/Power.lean ====
section
/-! DEFINITION. Bring-up, service and power (R8, R20, R249, R431 to R438): resets, the firmware image,
attestation, service commands, the power controller, ramps, energy, and soft errors (R265). -/

namespace Sys2Proof.Machine

/-! ### Resets (R8, R20, R422, R431) -/

/-- A storage key outside the device: the memory of peers and of the host. -/
def outsideKey (k : Nat) : Bool := decide (2 ^ 49 ≤ k ∧ k < 2 ^ 52) || decide (2 ^ 58 ≤ k)

/-- The device after a reset. TIME, storage and the retention SRAM survive a warm reset only; repairs,
control modules and the capsule count survive both (log 51, DEDUCED). -/
def State.afterReset (s : State) (warm : Bool) : State :=
  { State.reset with
    time := if warm then s.time else 0
    clock := if warm then s.clock else 0
    agenda := s.agenda
    nextId := s.nextId
    freeCtr := s.freeCtr
    mem := if warm then s.mem else s.mem.filter (fun e => outsideKey e.1)
    links := { Links.reset with peerX := s.links.peerX, farDown := s.links.farDown }
    svc := { Service.reset with
      repaired := s.svc.repaired
      modules := if warm then s.svc.modules else [] }
    recorder := { Recorder.reset with
      serial := s.recorder.serial
      capsules := if warm then s.recorder.capsules else []
      dropped := if warm then s.recorder.dropped else 0 } }

/-- POWER_UP of a device without power: TIME starts from zero, and the boot ROM waits for an image (R20,
R431). -/
def execPowerUp (s : State) : Host.Outcome State Fault Refusal :=
  .next (if s.boot.powered then s else s.afterReset false)

/-- WARM_RESET (R8, R20, R422, R431). -/
def execWarmReset (s : State) : Host.Outcome State Fault Refusal := .next (s.afterReset true)

/-- POWER_LOSS: the retention SRAM loses its contents, and nothing runs until power-up (R422). -/
def execPowerLoss (s : State) : Host.Outcome State Fault Refusal :=
  let s := s.afterReset false
  .next { s with boot := { s.boot with powered := false } }

/-! ### The firmware image (R431, R432) -/

/-- FWCMD is written with GO (R432). -/
def execFwGo (v : DWord) (s : State) : Host.Outcome State Fault Refusal :=
  let n := bits v.toNat 24 1
  if v.getLsbD 0 && (s.boot.state == 0 || s.boot.state == 4) && decide (2 ≤ n ∧ n ≤ 4096) then
    .next { s with boot := { s.boot with state := 1, why := 0, len := n } }
  else .next s

/-- WHY of an image of `n` units of 4 KiB, or 0 where it is accepted; the tests in R432's order. -/
def imageWhy (img : List Byte) (n : Nat) : Nat :=
  let field := fun (off size : Nat) => leNat ((img.drop off).take size)
  let body := field 0x18 8
  if body > n * 4096 - 4096 - 2420 then 1
  else if field 0x10 2 < Config.minSvn then 2
  else if Config.verifies (Config.sha3 (img.take (4096 + body))) (img.drop (n * 4096 - 2420)) then 0 else 3

/-- Context 0's descriptor (R249). -/
def Desc.zero : Desc where
  slice := 0
  spillva := 0xBF4000
  savebase := 0xBE0000
  savesize := 64129
  tenant := 0
  place := 0xFFFFFF
  xshare := 0
  modes := 0
  root := 0xBF00000
  priv := true
  prio := 3
  nq := 64

/-- The page tables that the firmware builds for context 0 (R249). -/
def State.firmwareTables (s : State) : State :=
  let l3 := 0xBF_0000_0000
  let l2 := 0xBF_0010_0000
  let s := s.zero l3 (2 ^ 20 + 3 * 4096)
  let s := s.write l3 8 (l2 + 1)
  let s := s.write (l3 + 8) 8 (l2 + 0x1000 + 1)
  let s := s.write (l3 + 8 * 3072) 8 (l2 + 0x2000 + 1)
  let s := (List.range 768).foldl (fun (s : State) k => s.write (l2 + 8 * k) 8 (k * 2 ^ 30 + 0x5F)) s
  s.write (l2 + 0x2000) 8 (0x6_0000_0000_0000 + 0x2F)

/-- The image in load SRAM has been checked: RUNNING or REJECTED follows (R432) (log 8, DESIGN CHOICE). -/
def State.imageChecked (s : State) : State :=
  let img := s.boot.image
  let why := imageWhy img s.boot.len
  if why ≠ 0 then { s with boot := { s.boot with state := 4, why := why } }
  else
    let s := { s with boot := { s.boot with state := 3, fwdig := Config.sha3 img } }
    s.firmwareTables.install 0 .zero 0

/-- FW_LOADED: in LOADING the image has been read into load SRAM, and CHECKING follows; in CHECKING it has been
checked (R432) (log 8, DESIGN CHOICE). -/
def execFwLoaded (readOk : Bool) (s : State) : Host.Outcome State Fault Refusal :=
  if s.boot.state = 2 then .next s.imageChecked
  else if s.boot.state != 1 then .next s
  else if !readOk then .next { s with boot := { s.boot with state := 4, why := 4 } }
  else
    let img := s.bytes (hostKey (s.boot.fwsrc / 4096 * 4096)) (s.boot.len * 4096)
    .next { s with boot := { s.boot with state := 2, image := img } }

/-! ### Attestation (R433) -/

/-- ATTREQ is written with 1. -/
def execAttreq (s : State) : Host.Outcome State Fault Refusal :=
  .next { s with boot := { s.boot with attpending := true } }

/-- The report's bytes before the signature. -/
def State.reportBody (s : State) : List Byte :=
  let map := (List.range 24).map (fun c => BitVec.ofNat 8 ((s.repairOf c).getD 0xFF))
  padTo 0xA00 (padTo 32 s.boot.attnonce ++ leBytes 8 Config.serial ++ leBytes 8 s.time ++
    padTo 32 s.boot.fwdig ++ padTo 32 (Config.sha3 Config.publicKey) ++ map ++ padTo 1312 Config.publicKey)

/-- ATTEST_READY: the signed report stands in ATTWIN. -/
def execAttestReady (s : State) : Host.Outcome State Fault Refusal :=
  if !s.boot.attpending then .next s
  else
    let b := s.reportBody
    .next { s with boot := { s.boot with attpending := false, attest := padTo 4096 (b ++ Config.sign b) } }

/-! ### Service commands (R434, R435) -/

/-- Service state of a cluster. -/
def State.clusterState (s : State) (c : Nat) : Nat := pairGet 0 s.svc.clstate c

def State.setCluster (s : State) (c v : Nat) : State :=
  { s with svc := { s.svc with clstate := pairSet s.svc.clstate c v } }

/-- A refused service command. -/
def State.svcErr (s : State) : State := { s with svc := { s.svc with err := 1 } }

/-- The cluster of a cluster fabric island. -/
def fabricOf (island : Nat) : Option Nat := if 144 ≤ island ∧ island ≤ 167 then some (island - 144) else none

/-- A command is accepted: BUSY until its effect is complete. -/
def State.svcBusy (s : State) (cmd island arg : Nat) : State :=
  { s with svc := { s.svc with busy := some (cmd, island, arg) } }

/-- A service command on a cluster fabric island whose cluster has a service state and meets `ok`. -/
def State.svcOn (s : State) (island st : Nat) (ok : Nat → Bool) (k : Nat → State) : State :=
  match s.svc.busy, fabricOf island with
  | none, some c => if s.clusterState c == st && ok c then k c else s.svcErr
  | _, _ => s.svcErr

/-- Contexts with a crew on a cluster, as bits. -/
def State.ctxsOn (s : State) (cluster : Nat) : Nat :=
  (List.range 256).foldl (fun m c =>
    if (s.residents cluster).any (fun x => match s.launch? x.kid with
        | some l => l.ctx == c
        | none => false) then m + 2 ^ c else m) 0

/-- DRAIN (R434). -/
def execSvcDrain (island : Nat) (s : State) : Host.Outcome State Fault Refusal :=
  .next (s.svcOn island 0 (fun _ => true) (fun c =>
    let m := s.ctxsOn c
    let s := (s.setCluster c 1).svcBusy 1 island m
    (List.range 256).foldl (fun (s : State) x =>
      if m.testBit x && (s.ctxOf x).st == .resident then s.startSave x true else s) s))

/-- CLUSTER_OFFLINE: nothing is resident on a draining cluster (R434). -/
def execClusterOffline (c : Nat) (s : State) : Host.Outcome State Fault Refusal :=
  match s.svc.busy with
  | some (1, island, m) =>
    let waits := (List.range 256).any (fun x => m.testBit x &&
      ((s.ctxOf x).st == .saving || (s.ctxOf x).st == .killing))
    if island == 144 + c && s.clusterState c == 1 && (s.residents c).isEmpty && !waits &&
      s.groups.all (fun g => g.id.cluster != c) && s.ops.all (fun o => o.gid.cluster != c || o.kind.receive)
    then .next (s.setCluster c 2) else .next s
  | _ => .next s

/-- RETURN (R434). -/
def execSvcReturn (island : Nat) (s : State) : Host.Outcome State Fault Refusal :=
  .next (s.svcOn island 2 (fun _ => true) (fun c => (s.setCluster c 0).svcBusy 2 island 0))

/-- REPAIR: the spare takes a logical core, whose ring starts empty (R16, R411, R434). -/
def execSvcRepair (island core : Nat) (s : State) : Host.Outcome State Fault Refusal :=
  .next (s.svcOn island 2 (fun c => decide (core < 24) && (match s.repairOf c with
      | some k => k == core
      | none => true)) (fun c =>
    let s := s.setRing (.start c core)
    { s with svc := { s.svc with repaired := pairSet s.svc.repaired c core } }.svcBusy 3 island 0))

/-- MODULE: the island fetches a cluster control module (R434) (log 46, DEDUCED). -/
def execSvcModule (island addr : Nat) (s : State) : Host.Outcome State Fault Refusal :=
  .next (s.svcOn island 2 (fun _ => true) (fun _ => s.svcBusy 4 island (addr / 2 ^ 18 * 2 ^ 18)))

/-- The fetched module is checked as R432 checks an image, and takes its place or is rejected. Its
length in units of 4 KiB follows from its body length. -/
def State.checkModule (s : State) (cluster addr : Nat) : State :=
  let key := hostKey addr
  let body := leNat (s.bytes (key + 0x18) 8)
  let n := (4096 + body + 2420 + 4095) / 4096
  if n > 4096 ∨ !s.hostUp then s.svcErr
  else
    let img := s.bytes key (n * 4096)
    if imageWhy img n ≠ 0 then s.svcErr
    else { s with svc := { s.svc with
      modules := upsert (fun (m : Nat × List Byte) => m.1 == cluster) (cluster, Config.sha3 img) s.svc.modules } }

/-- Requests and accesses on their way to one slice go to another. -/
def State.redirect (s : State) (old new : Nat) (which : Nat → Bool) : State :=
  { s with
    reqs := s.reqs.map (fun (r : Req) => if r.slice == old && which r.line then { r with slice := new } else r)
    ops := s.ops.map (fun (o : Op) => { o with parts := o.parts.map (fun (p : Part) =>
      if p.via == .slice old && which p.key then { p with via := .slice new } else p) }) }

/-- A slice gives the lines that it homes to another: reservations on them are cleared, and the largest
expiry that it has recorded goes into the other's E_drop (R435). -/
def State.handOver (s : State) (old new : Nat) (which : Nat → Bool) : State :=
  let mine := fun (k : Nat) => decide (k < 2 ^ 49) && s.slice k == old
  let e := (s.expiry.filter (fun e => mine e.1)).foldl (fun m e => Nat.max m e.2) (SMap.get 0 s.eDrop old)
  let s := { s with
    resv := s.resv.filter (fun r => !(mine r.key && which r.key))
    expiry := s.expiry.filter (fun e => !(mine e.1 && which e.1))
    eDrop := SMap.set 0 s.eDrop new (Nat.max e (SMap.get 0 s.eDrop new)) }
  s.redirect old new (fun k => decide (k < 2 ^ 49) && which k)

/-- The other slice of a pair on one stack (R435). -/
def pairSlice (n : Nat) : Nat := n ^^^ 1

/-- Storage of a quad or slice island is written with zeros (R434). -/
def State.zeroIsland (s : State) (island : Nat) : State :=
  if island < 144 then
    let c := island / 6
    let cores := (List.range 4).map (fun k => island % 6 * 4 + k)
    let s := cores.foldl (fun (s : State) k => (s.zero (scratchKey c k 0) (2 ^ 20)).setRing (.start c k)) s
    { s with
      l1 := s.l1.filter (fun l => !(l.cluster == c && cores.contains l.core))
      engines := s.engines.filter (fun e => e.1 != island)
      recorder := { s.recorder with
        fifos := s.recorder.fifos.filter (fun f => !cores.any (fun k => f.1 == 24 * c + k))
        lost := s.recorder.lost.filter (fun f => !cores.any (fun k => f.1 == 24 * c + k)) } }
  else if 168 ≤ island then s.zero (chipKey (island - 168) 0) (2 ^ 20)
  else
    let c := island - 144
    { s with
      links := { s.links with overflow := s.links.overflow.filter (fun o => o.cluster != c) }
      page := { s.page with
        tlb := s.page.tlb.filter (fun t => t.cluster != c)
        walks := (s.page.walks.map (fun (w : Walk) => { w with clusters := w.clusters.filter (· != c) })).filter
          (fun w => !w.clusters.isEmpty) } }

/-- The islands that CYCLE may name (R434, R435). -/
def State.cycleLegal (s : State) (island : Nat) : Bool :=
  if island < 144 then s.clusterState (island / 6) == 2
  else if island < 168 then s.clusterState (island - 144) == 2
  else if island < 264 then
    s.ctxs.all (fun c => c.st == .free || c.desc.xshare == 0) &&
    s.crews.all (fun x => (s.hdrOf x.kid).pools.all (fun p => p.space != 2))
  else false

/-- CYCLE: the island goes off, a slice's granules being homed in its pair (R434, R435). -/
def execSvcCycle (island : Nat) (s : State) : Host.Outcome State Fault Refusal :=
  if s.svc.busy.isSome || !s.cycleLegal island then .next s.svcErr
  else
    let s := s.svcBusy 5 island 0
    let s := { s with svc := { s.svc with islandOff := s.svc.islandOff ++ [island] } }
    if island < 168 then .next (s.zeroIsland island)
    else
      let n := island - 168
      let s := s.handOver n (pairSlice n) (fun _ => true)
      let s := { s with svc := { s.svc with rehomed := pairSet s.svc.rehomed n (pairSlice n) } }
      .next (s.zeroIsland island)

/-- The island has power again; the granules of a slice go home (R435). -/
def State.cycleEnd (s : State) (island : Nat) : State :=
  let s := { s with svc := { s.svc with islandOff := s.svc.islandOff.filter (· != island) } }
  if island < 168 then s
  else
    let n := island - 168
    let s := s.handOver (pairSlice n) n (fun k => rawSlice k == n)
    { s with svc := { s.svc with rehomed := s.svc.rehomed.filter (fun e => e.1 != n) } }

/-- SVC_COMPLETE: the effect of a command is complete, and BUSY clears (R434). -/
def execSvcComplete (s : State) : Host.Outcome State Fault Refusal :=
  match s.svc.busy with
  | none => .next s
  | some (cmd, island, arg) =>
    if cmd = 1 ∧ s.clusterState (island - 144) ≠ 2 then .next s
    else
      let s := if cmd = 4 then s.checkModule (island - 144) arg else if cmd = 5 then s.cycleEnd island else s
      .next { s with svc := { s.svc with busy := none } }

/-! ### Power (R436, R437) -/

/-- The module cap in watts (R436). -/
def Power.capWatts (p : Power) : Nat := 2000 + Nat.min 8 p.cap * 250

/-- PWRCAP is written (R436). -/
def execPwrcapWrite (v : DWord) (s : State) : Host.Outcome State Fault Refusal :=
  .next { s with power := { s.power with cap := v.toNat % 16 } }

/-- POWER_CONTROL_TICK: the average of the last millisecond against the cap (R436)
(log 44, DESIGN CHOICE). -/
def execPowerControlTick (watts : Nat) (s : State) : Host.Outcome State Fault Refusal :=
  let p := s.power
  let w := Nat.min 0xFFFF watts
  let above := decide (w > p.capWatts)
  let below := decide (w + 100 ≤ p.capWatts)
  let low := if below then p.lowTicks + 1 else 0
  let ticks := if above && p.tcap == 7 then p.overTicks + 1 else p.overTicks
  .next { s with power := { p with
    avg := w
    tcap := if above then Nat.min 7 (p.tcap + 1) else if low ≥ 100 then p.tcap - 1 else p.tcap
    lowTicks := if low ≥ 100 then 0 else low
    overTicks := ticks % 100
    overMs := (p.overMs + ticks / 100) % 2 ^ 32 } }

/-- RAMP_STAGE: a quad's stage ends (R437). -/
def execRampStage (quad : Nat) (s : State) : Host.Outcome State Fault Refusal :=
  match s.power.ramp.find? (fun r => r.1 == quad) with
  | none => .next s
  | some (_, k, t) =>
    if s.time < t then .next s
    else
      let rest := s.power.ramp.filter (fun r => r.1 != quad)
      if k = 15 ∨ k = 31 ∨ s.power.rampcfg = 0 then .next { s with power := { s.power with ramp := rest } }
      else .next { s with power := { s.power with ramp := rest ++ [(quad, k + 1, t + s.power.rampcfg * 1000)] } }

/-! ### Energy (R438) -/

/-- The quads whose slots an island's energy is divided by, or none where it falls to no kernel. -/
def energyQuads (island : Nat) : Option (List Nat) :=
  if island < 144 then some [island]
  else if island < 168 then some ((List.range 6).map (fun q => 6 * (island - 144) + q))
  else if island = 284 ∨ island = 285 ∨ island ≥ 308 then none
  else some (List.range 144)

/-- Slots of a kernel on a set of quads. -/
def Power.slotsOf (p : Power) (kid : Nat) (quads : List Nat) : Nat :=
  sumNat (quads.map (fun q => SMap.get 0 p.slots (144 * kid + q)))

/-- Divide one island's energy among the kernels. -/
def State.divideEnergy (s : State) (island nj : Nat) : State :=
  match energyQuads island with
  | none => s
  | some qs =>
    let slots := fun (l : Launch) => if (s.ctxOf l.ctx).st == .saved then 0 else s.power.slotsOf l.kid qs
    let total := sumNat (s.launches.map slots)
    if total = 0 then s
    else
      let e := nj + pairGet 0 s.power.carry island
      let share := fun (l : Launch) => e * slots l / total
      let given := sumNat (s.launches.map share)
      { s with
        launches := s.launches.map (fun (l : Launch) => { l with energy := (l.energy + share l) % 2 ^ 64 })
        power := { s.power with carry := pairSet s.power.carry island (e - given) } }

/-- ENERGY_INTERVAL: each island's energy of the interval, in nJ, less that of its dummy passes, is divided by slots
(R438) (log 44, DESIGN CHOICE). -/
def execEnergyInterval (nj : List (Nat × Nat × Nat)) (s : State) : Host.Outcome State Fault Refusal :=
  let s := nj.foldl (fun (s : State) (e : Nat × Nat × Nat) => s.divideEnergy e.1 (e.2.1 - e.2.2)) s
  .next { s with power := { s.power with slots := [] } }

/-! ### Soft errors (R265, R416) -/

/-- The cluster of a quad or cluster fabric island. -/
def islandCluster (island : Nat) : Option Nat :=
  if island < 144 then some (island / 6) else fabricOf island

/-- A context has a reorder in progress on a cluster: threads binned and not yet emitted (R25). -/
def State.reordering (s : State) (cluster c : Nat) : Bool :=
  s.crews.any (fun x => x.cluster == cluster && x.image.isNone && (s.launch? x.kid).any (fun l => l.ctx == c) &&
    x.insts.any (fun i => !i.recs.isEmpty || !i.ready.isEmpty))

/-- A context is resident on an island: with groups on a quad or a reorder on its cluster (R25), with crews on
a cluster, or at all. -/
def State.residentOn (s : State) (island c : Nat) : Bool :=
  if island < 144 then s.groups.any (fun g => g.ctx == c && quadOf g.id.cluster g.id.core == island) ||
    s.reordering (island / 6) c
  else match fabricOf island with
    | some k => (s.ctxsOn k).testBit c
    | none => (s.ctxOf c).st == .resident || (s.ctxOf c).st == .saving

/-- SOFT_ERROR (R265, R416) (log 46, DEDUCED). -/
def execSoftError (a : EccAct) (s : State) : Host.Outcome State Fault Refusal :=
  match a with
  | .corrected island =>
    if island ≥ 320 then .next s
    else .next (s.unit ((islandCluster island).getD 0) 0 0 3 (island * 2 ^ 63))
  | .inContext c => .next (s.ctxFault c .softErrorUncorrected)
  | .inRing cluster core k =>
    let r := s.ring cluster core
    if !r.frozen || s.recorder.freezing.isEmpty then .next s
    else .next (s.setRing { r with recs := SMap.set 0 r.recs (k % 4096) (recordWord 10 0 0 (recTlo (SMap.get 0 r.recs (k % 4096))) 0) })
  | .unowned island =>
    .next ((List.range 256).foldl (fun (t : State) c =>
      if s.residentOn island c then t.ctxFault c .softErrorUncorrected else t) s)

/-! ### Other register writes -/

/-- FABJOB n is written (R390). -/
def execFabjobWrite (c : Nat) (v : DWord) (s : State) : Host.Outcome State Fault Refusal :=
  if c ≥ 256 then .next s
  else
    let w := v.toNat % 2 ^ 17
    let taken := w.testBit 16 && s.ctxs.any (fun x => x.num != c && x.fabjob.testBit 16 && x.fabjob % 2 ^ 16 == w % 2 ^ 16)
    if (s.ctxOf c).st == .free || taken then .next (s.err c)
    else .next (s.modCtx c (fun x => { x with fabjob := w }))

/-- CONGCTL is written: MODE 1 sets every window to 256 (R311). -/
def execCongctlWrite (v : DWord) (s : State) : Host.Outcome State Fault Refusal :=
  let mode := v.toNat % 2
  let c := { s.cong with markat := bits v.toNat 15 8, mode := mode, echo := [] }
  .next { s with cong := if mode = 1 then { c with win := [], replies := [] } else c }

/-- CONGRATE c is written: it counts from the next sample on (R309). -/
def execCongrateWrite (cluster : Nat) (v : DWord) (s : State) : Host.Outcome State Fault Refusal :=
  if cluster ≥ 24 then .next s
  else .next { s with cong := { s.cong with rate := pairSet s.cong.rate cluster (v.toNat % 128) } }

/-- RSPILL n is written: instances that begin later use it (R329). -/
def execRspillWrite (c : Nat) (v : DWord) (s : State) : Host.Outcome State Fault Refusal :=
  if c ≥ 256 then .next s
  else .next (s.putCtx c (fun x => { x with rspill := bits v.toNat 51 31 * 2 ^ 31 + v.toNat % 2 }))

end Sys2Proof.Machine
end

