-- ==== Sys2Proof/Machine/Regs.lean ====
section
/-! DEFINITION. Device-register space (R6, R7, R64, R65): what every register reads, and what a write
to it does. Offsets, fields and access codes are those of the owning chapters. -/

namespace Sys2Proof.Machine

/-- The state after an event that a register write stands for. -/
def State.after (s : State) (r : Host.Outcome State Fault Refusal) : State :=
  match r with
  | .next t => t
  | _ => s

/-- The index of a register of a row of registers, if the offset names one. -/
def rowIndex (base stride count off : Nat) : Option Nat :=
  if base ≤ off ∧ off < base + stride * count ∧ (off - base) % stride = 0 then some ((off - base) / stride) else none

/-- Every register of device-register space. -/
inductive DReg where
  | ctxtab | ctxcmd | qcmd
  | ctxstat (c : Nat)
  | kick (c q : Nat) | qrd (c q : Nat) | qstat (c q : Nat)
  | congctl | congrate (cluster : Nat) | rspill (c : Nat)
  | tlbinv | tlbstat | pfbase | pfhead | pftail | pfresp
  | stitchcfg | portctl (p : Nat) | portstat (p : Nat) | waentstat (l : Nat) | fabjob (c : Nat)
  | stitchrt (d : Nat)
  | intcause | inten
  | trcbase (c : Nat) | trchead (c : Nat)
  | dbgctl (c : Nat) | dbgbp (c : Nat)
  | capstat | capreq | caprdy | capack | cappush
  | fwsrc | fwcmd | bootstat | attreq
  | svccmd | svcstat | clstat (c : Nat)
  | pwrcap | pwrstat | rampcfg | qfloor (q : Nat)
  | rplctl (c : Nat) | rplbase (c : Nat)
deriving DecidableEq, Repr

/-- A row of many registers: base, stride, count, and the register of an index. -/
structure DRow where
  base : Nat
  stride : Nat
  count : Nat
  reg : Nat → Option DReg

/-- Every row of many registers. -/
def dregRows : List DRow :=
  [⟨0x1_1000, 8, 256, fun n => some (.ctxstat n)⟩, ⟨0x1_2100, 8, 24, fun n => some (.congrate n)⟩,
   ⟨0x1_2400, 8, 256, fun n => some (.rspill n)⟩, ⟨0x1_4100, 8, 8, fun n => some (.portctl n)⟩,
   ⟨0x1_4200, 8, 8, fun n => some (.portstat n)⟩, ⟨0x1_4300, 8, 2, fun n => some (.waentstat n)⟩,
   ⟨0x1_4800, 8, 256, fun n => some (.fabjob n)⟩, ⟨0x30_0000, 8, 512, fun n => some (.stitchrt n)⟩,
   ⟨0x1_6000, 16, 256, fun n => some (.trcbase n)⟩, ⟨0x1_6008, 16, 256, fun n => some (.trchead n)⟩,
   ⟨0x1_7000, 8, 256, fun n => some (.dbgctl n)⟩, ⟨0x1_7800, 8, 256, fun n => some (.dbgbp n)⟩,
   ⟨0x1_A100, 8, 24, fun n => some (.clstat n)⟩, ⟨0x1_B100, 8, 144, fun n => some (.qfloor n)⟩,
   ⟨0x1_C000, 16, 256, fun n => some (.rplctl n)⟩, ⟨0x1_C008, 16, 256, fun n => some (.rplbase n)⟩,
   ⟨0x20_0000, 16, 16384, fun n => some (.qrd (n / 64) (n % 64))⟩,
   ⟨0x20_0008, 16, 16384, fun n => some (.qstat (n / 64) (n % 64))⟩,
   ⟨0x2_0000, 8, 131072, fun n => if n % 512 < 64 then some (.kick (n / 512) (n % 512)) else none⟩]

/-- Every register that has one offset. -/
def dregFixed : List (Nat × DReg) :=
  [(0x1_0000, .ctxtab), (0x1_0008, .ctxcmd), (0x1_0010, .qcmd), (0x1_2000, .congctl), (0x1_3000, .tlbinv),
   (0x1_3008, .tlbstat), (0x1_3100, .pfbase), (0x1_3108, .pfhead), (0x1_3110, .pftail), (0x1_3118, .pfresp),
   (0x1_4000, .stitchcfg), (0x1_5000, .intcause), (0x1_5008, .inten), (0x1_8000, .capstat), (0x1_8008, .capreq),
   (0x1_8010, .caprdy), (0x1_8018, .capack), (0x1_8020, .cappush), (0x1_9000, .fwsrc), (0x1_9008, .fwcmd),
   (0x1_9010, .bootstat), (0x1_9120, .attreq), (0x1_A000, .svccmd), (0x1_A008, .svcstat), (0x1_B000, .pwrcap),
   (0x1_B008, .pwrstat), (0x1_B018, .rampcfg)]

/-- The register at an 8-byte aligned offset. -/
def dregOf (off : Nat) : Option DReg :=
  match dregFixed.find? (fun e => e.1 == off) with
  | some e => some e.2
  | none => dregRows.findSome? (fun r => (rowIndex r.base r.stride r.count off).bind r.reg)

/-! ### Reads -/

def CtxState.num : CtxState → Nat
  | .free => 0
  | .idle => 1
  | .resident => 2
  | .saving => 3
  | .saved => 4
  | .killing => 5
  | .killed => 6

def QState.num : QState → Nat
  | .disabled => 0
  | .idle => 1
  | .reading => 2
  | .stopped => 3
  | .held => 4

/-- What a register reads; WO fields read zero (R6). -/
def State.readReg (s : State) : DReg → Nat
  | .ctxtab => s.ctxtab
  | .ctxstat c =>
    let x := s.ctxOf c
    x.st.num + bit01 x.err * 2 ^ 3 + x.lastcode % 256 * 2 ^ 8
  | .qrd c q => (s.queue c q).qrd
  | .qstat c q =>
    let y := s.queue c q
    y.st.num + y.code % 256 * 2 ^ 8 + Nat.min (2 ^ 32 - 1) y.misses * 2 ^ 16
  | .congctl => s.cong.mode + s.cong.markat * 2 ^ 8
  | .congrate c => pairGet 64 s.cong.rate c
  | .rspill c => (s.ctxOf c).rspill
  | .tlbstat => s.page.inv.length
  | .pfbase => s.page.pfbase
  | .pfhead => s.page.pfhead
  | .pftail => s.page.pftail
  | .stitchcfg => s.links.stitchcfg
  | .portctl p => pairGet 0 s.links.role p
  | .portstat p => s.links.port p + pairGet 0 s.links.free p * 2 ^ 5
  | .waentstat l => pairGet 0 s.links.waent l
  | .fabjob c => (s.ctxOf c).fabjob
  | .stitchrt d => pairGet 0 s.links.stitchrt d
  | .intcause => s.links.intcause
  | .inten => s.links.inten
  | .trcbase c => (s.ctxOf c).trace.trcbase
  | .trchead c => (s.ctxOf c).trace.trchead
  | .dbgctl c => bit01 (s.ctxOf c).debug
  | .dbgbp c => (s.ctxOf c).bp
  | .capstat => s.capstat
  | .caprdy => s.recorder.caprdy
  | .cappush => s.recorder.cappush
  | .fwsrc => s.boot.fwsrc
  | .bootstat => s.boot.state + s.boot.why * 2 ^ 16
  | .svcstat => bit01 s.svc.busy.isSome + s.svc.err * 2
  | .clstat c =>
    s.clusterState c + (match s.repairOf c with
      | some k => k % 32 * 2 ^ 8 + 2 ^ 15
      | none => 0)
  | .pwrcap => s.power.cap
  | .pwrstat => s.power.avg + s.power.tcap * 2 ^ 16 + s.power.overMs * 2 ^ 32
  | .rampcfg => s.power.rampcfg
  | .qfloor q => pairGet 0 s.power.qfloor q
  | .rplctl c => (s.ctxOf c).trace.rplctl
  | .rplbase c => (s.ctxOf c).trace.rplbase
  | .ctxcmd | .qcmd | .kick _ _ | .tlbinv | .pfresp | .capreq | .capack | .fwcmd | .attreq | .svccmd => 0

/-- The little-endian value of bytes of a window. -/
def winRead (l : List Byte) (off size : Nat) : Nat := leNat ((l.drop off).take size)

/-- A read of 4 or 8 bytes, naturally aligned (R65). -/
def State.readSpace (s : State) (off size : Nat) : Nat :=
  if 0x1000_0000 ≤ off ∧ off < 0x1000_0000 + 2 ^ 26 then s.capwin (off - 0x1000_0000) size
  else if 0x1_D000 ≤ off ∧ off < 0x1_E000 then winRead s.boot.attest (off - 0x1_D000) size
  else match dregOf (off / 8 * 8) with
    | some r => s.readReg r % 2 ^ 64 / 256 ^ (off % 8) % 256 ^ size
    | none => 0

/-! ### Writes -/

/-- The register holds a WO field: only whole 8-byte writes take effect (R65). -/
def DReg.wo : DReg → Bool
  | .ctxcmd | .qcmd | .kick _ _ | .tlbinv | .pfresp | .portctl _ | .dbgctl _ | .capreq | .capack | .fwcmd
  | .attreq | .svccmd => true
  | _ => false

/-- The register's bits are cleared by writing 1: the half that a 4-byte write leaves out is zero. -/
def DReg.w1c : DReg → Bool
  | .intcause | .ctxstat _ | .svcstat => true
  | _ => false

/-- CTXCMD (R253, R254): `writer` is the context of a group that writes it. -/
def State.ctxCommand (s : State) (writer : Option Nat) (v : Nat) : State :=
  let c := bits v 39 32
  match v % 16 with
  | 1 => s.after (execCtxCreate c s)
  | 2 => s.after (execCtxPreempt c s)
  | 3 => s.after (execCtxResume c s)
  | 4 => if writer == some c then s.err c else s.after (execCtxKill c s)
  | 5 => s.after (execCtxDestroy c s)
  | _ => s.err c

/-- QCMD (R267, R268). -/
def State.queueCommand (s : State) (v : Nat) : State :=
  let c := bits v 31 24
  let q := bits v 17 12
  match v % 16 with
  | 1 => s.after (execQueueEnable c q s)
  | 2 => s.after (execQueueDisable c q s)
  | 3 => s.after (execQueueRestart c q s)
  | 4 => s.after (execQueueDispatch c q (bits v 47 32) s)
  | _ => s.err c

/-- STITCHCFG (R390). -/
def State.writeStitch (s : State) (v : Nat) : State :=
  { s with links := { s.links with stitchcfg := v % 2 ^ 18 }.takeCfg }

/-- PORTCTL: ROLE is in effect at once in DOWN; then the command (R388, R390). -/
def State.writePort (s : State) (p v : Nat) : State :=
  let l := { s.links with role := pairSet s.links.role p (v % 8) }
  let l := if l.port p = 0 then { l with roleLive := pairSet l.roleLive p (v % 8) } else l
  let s := { s with links := l }
  match bits v 4 3 with
  | 1 => s.after (execLinkEnable p s)
  | 2 => s.after (execLinkDisable p s)
  | _ => s

/-- DBGCTL: ATTACH, then the command (R427) (log 42, DEDUCED). -/
def State.writeDebug (s : State) (c v : Nat) : State :=
  let s := s.putCtx c (fun x => { x with debug := v.testBit 0 })
  let sel : DbgSel := if v.testBit 32 then .all
    else .one { cluster := bits v 20 16, core := bits v 25 21, slot := bits v 31 26 }
  match bits v 3 1 with
  | 1 => s.after (execDbgStop c sel s)
  | 2 => s.after (execDbgGo c sel s)
  | 3 => s.after (execDbgStep c sel s)
  | _ => s

/-- SVCCMD (R434): any other CMD is refused. -/
def State.serviceCommand (s : State) (v : Nat) : State :=
  let island := bits v 12 4
  match v % 16 with
  | 1 => s.after (execSvcDrain island s)
  | 2 => s.after (execSvcReturn island s)
  | 3 => s.after (execSvcRepair island (bits v 17 13) s)
  | 4 => s.after (execSvcModule island (v / 2 ^ 18 * 2 ^ 18) s)
  | 5 => s.after (execSvcCycle island s)
  | _ => s.svcErr

/-- A whole write of a register. -/
def State.writeReg (s : State) (writer : Option Nat) (r : DReg) (v : Nat) : State :=
  let d : DWord := BitVec.ofNat 64 v
  match r with
  | .ctxtab => { s with ctxtab := v / 4096 * 4096 }
  | .ctxcmd => s.ctxCommand writer v
  | .ctxstat c => if v.testBit 3 then s.putCtx c (fun x => { x with err := false }) else s
  | .qcmd => s.queueCommand v
  | .kick c q => s.kick c q v
  | .congctl => s.after (execCongctlWrite d s)
  | .congrate c => s.after (execCongrateWrite c d s)
  | .rspill c => s.after (execRspillWrite c d s)
  | .tlbinv => s.after (execTlbinv d s)
  | .pfbase => { s with page := { s.page with pfbase := v / 2 ^ 17 * 2 ^ 17 } }
  | .pftail => s.after (execPftailWrite d s)
  | .pfresp => s.after (execPfresp d s)
  | .stitchcfg => s.writeStitch v
  | .portctl p => s.writePort p v
  | .fabjob c => s.after (execFabjobWrite c d s)
  | .stitchrt n => { s with links := { s.links with stitchrt := pairSet s.links.stitchrt n (v % 8) } }
  | .intcause => { s with links := { s.links with intcause := s.links.intcause &&& (31 - (v &&& 31)) } }
  | .inten => { s with links := { s.links with inten := v % 32 } }
  | .trcbase c => s.after (execTrcbaseWrite c d s)
  | .dbgctl c => s.writeDebug c v
  | .dbgbp c => s.putCtx c (fun x => { x with bp := v % 2 ^ 29 })
  | .capreq => s.after (execCapreq d s)
  | .capack => s.after (execCapack d s)
  | .cappush => { s with recorder := { s.recorder with cappush := v / 4096 * 4096 + v % 2 } }
  | .fwsrc => { s with boot := { s.boot with fwsrc := v / 4096 * 4096 } }
  | .fwcmd => s.after (execFwGo d s)
  | .attreq => if v.testBit 0 then s.after (execAttreq s) else s
  | .svccmd => s.serviceCommand v
  | .svcstat => if v.testBit 1 then { s with svc := { s.svc with err := 0 } } else s
  | .pwrcap => s.after (execPwrcapWrite d s)
  | .rampcfg => { s with power := { s.power with rampcfg := v % 16 } }
  | .qfloor q => { s with power := { s.power with qfloor := pairSet s.power.qfloor q (v % 8) } }
  | .rplctl c => s.after (execRplctlWrite c d s)
  | .rplbase c =>
    if (s.ctxOf c).st == .idle || (s.ctxOf c).st == .saved then
      s.putCtx c (fun x => { x with trace := { x.trace with rplbase := bits v 51 26 * 2 ^ 26 + v % 2 ^ 16 } })
    else s
  | .qrd _ _ | .qstat _ _ | .tlbstat | .pfhead | .portstat _ | .waentstat _ | .trchead _ | .capstat | .caprdy
  | .bootstat | .clstat _ | .pwrstat => s

/-- Registers that the boot ROM and the Waent adapter serve before an image runs (R422, R431, R433)
(log 43, DEDUCED). -/
def DReg.early : DReg → Bool
  | .intcause | .inten | .capreq | .capack | .cappush | .fwsrc | .fwcmd | .attreq => true
  | _ => false

/-- A write of 4 or 8 bytes, naturally aligned (R65) (log 13, DEDUCED). -/
def State.writeSpace (s : State) (writer : Option Nat) (off size v : Nat) : State :=
  let v := v % 256 ^ size
  if 0x1_9100 ≤ off ∧ off < 0x1_9120 then
    let k := off - 0x1_9100
    let old := padTo 32 s.boot.attnonce
    { s with boot := { s.boot with attnonce := padTo 32 (old.take k ++ leBytes size v ++ old.drop (k + size)) } }
  else match dregOf (off / 8 * 8) with
    | none => s
    | some r =>
      if s.boot.state != 3 && !r.early then s
      else if size = 8 then s.writeReg writer r v
      else if r.wo then s
      else
        let old := if r.w1c then 0 else s.readReg r
        let sh := 256 ^ (off % 8)
        let whole := if off % 8 = 4 then old % 2 ^ 32 + v * sh else v + old / 2 ^ 32 * 2 ^ 32
        s.writeReg writer r whole

/-- An access that R65 serves. -/
def spaceAccess (off size : Nat) : Bool := (size == 4 || size == 8) && off % size == 0

/-- A host read of this space: consecutive 8-byte reads, or a half of a register; 1, 2 and 16 bytes read zero
(R65). -/
def State.hostSpace (s : State) (off size : Nat) : List Byte :=
  if size == 1 || size == 2 || size == 16 then List.replicate size 0
  else if spaceAccess off size then leBytes size (s.readSpace off size)
  else (List.range size).map (fun k => BitVec.ofNat 8 (s.readSpace ((off + k) / 8 * 8) 8 / 256 ^ ((off + k) % 8)))

/-- HOST_READ: a host read is served at the home slice (R99), or in device-register space (R65); its data leave by
the adapter. -/
def execHostRead (_link pa size : Nat) (s : State) : Host.Outcome State Fault Refusal :=
  if size = 0 then .next s
  else if bits pa 51 49 = 3 then
    .next { s with links := { s.links with hostData := s.hostSpace (pa % 2 ^ 49) size } }
  else if pa + size > localEnd then .next s
  else
    let s := (linesIn pa size).foldl (fun (s : State) l => s.releaseIngress l) s
    .next { s with links := { s.links with hostData := s.bytes pa size } }

/-- REG_WRITE: a host write to device-register space through BAR0 (R65, R408); other sizes are
discarded. -/
def execRegWrite (off size : Nat) (v : DWord) (s : State) : Host.Outcome State Fault Refusal :=
  if spaceAccess off size then .next (s.writeSpace none off size v.toNat) else .next s

end Sys2Proof.Machine
end

