-- ==== Sys2Proof/Machine/Access.lean ====
section
/-! DEFINITION. Loads and stores (R196 to R201): `ld`, `st`, `ldv`, `stv` in every space, with private
words (R60 to R62), windows (R73, R74), consuming loads (R199), and device registers (R65). -/

namespace Sys2Proof.Machine

/-- A load or store of a group, as its checks see it: `bytes` per lane in accesses of `unit` bytes. Only
4- and 8-byte accesses may reach device registers (R65). -/
def ldstWant (k : Acc) (bytes unit : Nat) (wide : Bool) : Want where
  kind := k
  bytes := bytes
  unit := unit
  misaligned := .misaligned
  window := true
  wide := wide
  noReg := unit != 4 && unit != 8

/-- Refuse with the path of the lane that faults. -/
def State.refuseLane (s : State) (g : Group) (p : Path) (k : Acc) (loc : Nat → Loc) (l0 : Nat) (r : AccessRes) : Res :=
  let lane := match r with
    | .trap _ l _ => l
    | _ => l0
  s.refuse g p k (pathOf g.hdr (loc lane) (k != .load)) r

/-- Issue a load: the parts that L1 or a register answers hold their values at once. -/
def loadBody (want : Want) (sp : Space) (cm : Bool) (dest : Mask → Dest) (lanes : List Nat) (loc : Nat → Loc)
    (s : State) (g : Group) (p : Path) : Res :=
  match lanes with
  | [] => .long s none
  | l0 :: _ =>
    let ls := lanes.map (fun l => (l, loc l))
    if s.windowHeld g p want ls then .hold 15 false
    else match s.access g p want cm ls with
    | .ok ps =>
      let parts := ps.map (fun (x : Nat × Piece) =>
        let pt := s.loadPart g sp x.2 (x.2.part x.1 (g.owner want.wide x.1) 0 0)
        if pt.via = .reg then { pt with got := some (s.readSpace pt.key pt.size) } else pt)
      let hit := sp = .p && parts.all (fun (x : Part) => x.got.isSome)
      let paths := if hit then [] else pathsOf g.hdr ls false
      if g.full paths then .hold 2 true
      else
        let tiles := g.tilesOf ls
        let eat := if cm then tiles else []
        let m := maskOf lanes
        let o := s.newOp g p m (.load (dest m) eat) parts paths tiles
        let leases := ps.map (fun x => x.2.lease)
        if s.overWindow g o leases then .hold 9 false
        else .long ((s.startOp g o leases eat).recordMem g (loc l0) (pathOf g.hdr (loc l0) false) false) (some o.id)
    | r => s.refuseLane g p .load loc l0 r

/-- Private words that lie in local memory are stored in L1 (R62). -/
def Piece.inL1 (sp : Space) (x : Piece) : Bool :=
  sp = .p && (match x.via with
    | .slice _ => true
    | _ => false)

/-- The store data of a piece. -/
def Piece.data (x : Piece) (v : Nat) : Nat := v / 256 ^ x.idx % 256 ^ x.size

/-- Issue a store. Where lanes write the same bytes the highest lane's value is applied last (R53), and
within a window the highest offset's (R74). A device register takes its value at once, and its
acknowledgement arrives later (log 13, DEDUCED). -/
def storeBody (want : Want) (sp : Space) (data : Nat → Nat) (lanes : List Nat) (loc : Nat → Loc)
    (s : State) (g : Group) (p : Path) : Res :=
  match lanes with
  | [] => .done s
  | l0 :: _ =>
    let ls := lanes.map (fun l => (l, loc l))
    if s.windowHeld g p want ls then .hold 15 false
    else match s.access g p want false ls with
    | .ok ps =>
      let ps := sortBy (fun (x : Nat × Piece) => x.2.order) ps
      let cached := ps.filter (fun x => x.2.inL1 sp)
      let regs := ps.filter (fun x => x.2.via = .reg)
      let rest := ps.filter (fun x => !(x.2.inL1 sp))
      let parts := rest.map (fun (x : Nat × Piece) =>
        let pt := x.2.part x.1 (g.owner want.wide x.1) (x.2.data (data x.1)) 0
        if x.2.via = .reg then { pt with got := some 0 } else pt)
      let paths := if parts.isEmpty then [] else pathsOf g.hdr ls true
      if g.full paths || cached.any (fun x => s.ownPending g x.2.key x.2.size 0) then .hold 2 true
      else
        let o := s.newOp g p (maskOf lanes) .store parts paths (g.tilesOf ls)
        let leases := rest.map (fun x => x.2.lease)
        if s.overWindow g o leases then .hold 9 false
        else
          let s := s.recordMem g (loc l0) (pathOf g.hdr (loc l0) true) true
          let s := cached.foldl (fun (s : State) x => s.privStore g x.2.key x.2.size (x.2.data (data x.1))) s
          let s := if parts.isEmpty then s else s.startOp g o leases []
          .done (regs.foldl (fun (s : State) x => s.writeSpace (some g.ctx) x.2.key x.2.size (x.2.data (data x.1))) s)
    | r => s.refuseLane g p .store loc l0 r

/-- Destination of a load of one register or a pair (R169, R198). -/
def LdForm.dest (f : LdForm) (m : Mask) : Dest where
  g := f.g
  reg := f.d.code
  regs := f.ty.width / 64 + 1
  width := f.ty.width / 8
  sext := f.ty.signed
  lanes := m

/-- `ld` (R198, R199). -/
def execLd (f : LdForm) (s : State) : Host.Outcome State Fault Refusal :=
  issue (.ld f) s (fun s g p =>
    let n := f.ty.width / 8
    loadBody (ldstWant .load n n f.g) f.space f.cm (LdForm.dest f) (g.acting p f.g f.gd)
      (addrLoc f.addr g p f.space) s g p)

/-- `st` (R198). -/
def execSt (f : StForm) (s : State) : Host.Outcome State Fault Refusal :=
  issue (.st f) s (fun s g p =>
    let n := f.ty.width / 8
    storeBody (ldstWant .store n n f.g) f.space (g.num p (f.ty.width == 64) f.data) (g.acting p f.g f.gd)
      (addrLoc f.addr g p f.space) s g p)

/-- Registers of a vector access (R201). -/
def vRegs : VSize → Nat
  | .w16 => 4
  | .w32 => 8
  | .w64 => 16

/-- Destination of a vector load (R201). -/
def LdvForm.dest (f : LdvForm) (m : Mask) : Dest where
  g := false
  reg := f.d.code
  regs := vRegs f.size
  width := 4
  sext := false
  lanes := m

/-- `ldv` (R201). -/
def execLdv (f : LdvForm) (s : State) : Host.Outcome State Fault Refusal :=
  issue (.ldv f) s (fun s g p =>
    loadBody (ldstWant .load (4 * vRegs f.size) 16 false) f.space f.cm (LdvForm.dest f) (g.acting p false f.gd)
      (addrLoc f.addr g p f.space) s g p)

/-- Consecutive registers of a lane, as one number. -/
def Group.runNum (g : Group) (p : Path) (r : Reg) (n lane : Nat) : Nat :=
  sumNat ((List.range n).map (fun k => (g.rd p (r.code + k) lane).toNat * 2 ^ (32 * k)))

/-- `stv` (R201). -/
def execStv (f : StvForm) (s : State) : Host.Outcome State Fault Refusal :=
  issue (.stv f) s (fun s g p =>
    storeBody (ldstWant .store (4 * vRegs f.size) 16 false) f.space (g.runNum p f.data (vRegs f.size))
      (g.acting p false f.gd) (addrLoc f.addr g p f.space) s g p)

end Sys2Proof.Machine
end

