-- ==== Sys2Proof/Machine/Dispatch.lean ====
section
/-! DEFINITION. The dispatcher: one arm for each constructor of `Instr`, each one direct call of its
meaning. -/

namespace Sys2Proof.Machine

def exec (i : Instr) (s : State) : Host.Outcome State Fault Refusal :=
  match i with
  | .br gd disp => Sys2Proof.Machine.execBr gd disp s
  | .rcv tok => Sys2Proof.Machine.execRcv tok s
  | .jmpi gd a => Sys2Proof.Machine.execJmpi gd a s
  | .call gd disp => Sys2Proof.Machine.execCall gd disp s
  | .callReg gd a => Sys2Proof.Machine.execCallReg gd a s
  | .ret gd => Sys2Proof.Machine.execRet gd s
  | .safept => Sys2Proof.Machine.execSafept s
  | .safeptMask mask => Sys2Proof.Machine.execSafeptMask mask s
  | .brd gd tok disp => Sys2Proof.Machine.execBrd gd tok disp s
  | .exit gd => Sys2Proof.Machine.execExit gd s
  | .trap gd code => Sys2Proof.Machine.execTrap gd code s
  | .trapBreak gd code => Sys2Proof.Machine.execTrapBreak gd code s
  | .tret => Sys2Proof.Machine.execTret s
  | .halt gd => Sys2Proof.Machine.execHalt gd s
  | .yield gd => Sys2Proof.Machine.execYield gd s
  | .getsr f => Sys2Proof.Machine.execGetsr f s
  | .mov f => Sys2Proof.Machine.execMov f s
  | .movi32 f => Sys2Proof.Machine.execMovi32 f s
  | .movi64 f => Sys2Proof.Machine.execMovi64 f s
  | .sel f => Sys2Proof.Machine.execSel f s
  | .setsr gd a => Sys2Proof.Machine.execSetsr gd a s
  | .setq gd d a => Sys2Proof.Machine.execSetq gd d a s
  | .qand gd d a b => Sys2Proof.Machine.execQand gd d a b s
  | .qor gd d a b => Sys2Proof.Machine.execQor gd d a b s
  | .qnot gd d a => Sys2Proof.Machine.execQnot gd d a s
  | .vote gd v => Sys2Proof.Machine.execVote gd v s
  | .bcast gd w64 d a l => Sys2Proof.Machine.execBcast gd w64 d a l s
  | .bcastImm gd w64 d a l => Sys2Proof.Machine.execBcastImm gd w64 d a l s
  | .actm gd d => Sys2Proof.Machine.execActm gd d s
  | .popc gd d a => Sys2Proof.Machine.execPopc gd d a s
  | .ffs gd d a => Sys2Proof.Machine.execFfs gd d a s
  | .add f => Sys2Proof.Machine.execAdd f s
  | .sub f => Sys2Proof.Machine.execSub f s
  | .mul f => Sys2Proof.Machine.execMul f s
  | .mulhi f => Sys2Proof.Machine.execMulhi f s
  | .mad f => Sys2Proof.Machine.execMad f s
  | .min f => Sys2Proof.Machine.execMin f s
  | .max f => Sys2Proof.Machine.execMax f s
  | .abs f => Sys2Proof.Machine.execAbs f s
  | .neg f => Sys2Proof.Machine.execNeg f s
  | .and f => Sys2Proof.Machine.execAnd f s
  | .or f => Sys2Proof.Machine.execOr f s
  | .xor f => Sys2Proof.Machine.execXor f s
  | .not f => Sys2Proof.Machine.execNot f s
  | .andn f => Sys2Proof.Machine.execAndn f s
  | .shl f => Sys2Proof.Machine.execShl f s
  | .shr f => Sys2Proof.Machine.execShr f s
  | .sar f => Sys2Proof.Machine.execSar f s
  | .rot f => Sys2Proof.Machine.execRot f s
  | .bfe f => Sys2Proof.Machine.execBfe f s
  | .bfi f => Sys2Proof.Machine.execBfi f s
  | .bcnt f => Sys2Proof.Machine.execBcnt f s
  | .clz f => Sys2Proof.Machine.execClz f s
  | .brev f => Sys2Proof.Machine.execBrev f s
  | .cmp f => Sys2Proof.Machine.execCmp f s
  | .addc f => Sys2Proof.Machine.execAddc f s
  | .subc f => Sys2Proof.Machine.execSubc f s
  | .div f => Sys2Proof.Machine.execDiv f s
  | .rem f => Sys2Proof.Machine.execRem f s
  | .fadd f => Sys2Proof.Machine.execFadd f s
  | .fsub f => Sys2Proof.Machine.execFsub f s
  | .fmul f => Sys2Proof.Machine.execFmul f s
  | .fma f => Sys2Proof.Machine.execFma f s
  | .fmin f => Sys2Proof.Machine.execFmin f s
  | .fmax f => Sys2Proof.Machine.execFmax f s
  | .fabs f => Sys2Proof.Machine.execFabs f s
  | .fneg f => Sys2Proof.Machine.execFneg f s
  | .fcmp f => Sys2Proof.Machine.execFcmp f s
  | .fclass f => Sys2Proof.Machine.execFclass f s
  | .rcp f => Sys2Proof.Machine.execRcp f s
  | .rsqrt f => Sys2Proof.Machine.execRsqrt f s
  | .sqrt f => Sys2Proof.Machine.execSqrt f s
  | .exp2 f => Sys2Proof.Machine.execExp2 f s
  | .log2 f => Sys2Proof.Machine.execLog2 f s
  | .sinpi f => Sys2Proof.Machine.execSinpi f s
  | .tanh f => Sys2Proof.Machine.execTanh f s
  | .dot2 f => Sys2Proof.Machine.execDot2 f s
  | .cvt f => Sys2Proof.Machine.execCvt f s
  | .prmb f => Sys2Proof.Machine.execPrmb f s
  | .shfl f => Sys2Proof.Machine.execShfl f s
  | .lred f => Sys2Proof.Machine.execLred f s
  | .lscan f => Sys2Proof.Machine.execLscan f s
  | .topk f => Sys2Proof.Machine.execTopk f s
  | .padWord w => Sys2Proof.Machine.execPadWord w s
  | .ld f => Sys2Proof.Machine.execLd f s
  | .st f => Sys2Proof.Machine.execSt f s
  | .ldv f => Sys2Proof.Machine.execLdv f s
  | .stv f => Sys2Proof.Machine.execStv f s
  | .cpa f => Sys2Proof.Machine.execCpa f s
  | .cellInit f => Sys2Proof.Machine.execCellInit f s
  | .cellArrive f => Sys2Proof.Machine.execCellArrive f s
  | .cellWait f => Sys2Proof.Machine.execCellWait f s
  | .cellTest f => Sys2Proof.Machine.execCellTest f s
  | .cellArm f => Sys2Proof.Machine.execCellArm f s
  | .waitc gd path thr => Sys2Proof.Machine.execWaitc gd path thr s
  | .fenceRel gd scope => Sys2Proof.Machine.execFenceRel gd scope s
  | .fenceAcq gd scope => Sys2Proof.Machine.execFenceAcq gd scope s
  | .fenceSc gd scope => Sys2Proof.Machine.execFenceSc gd scope s
  | .atom f => Sys2Proof.Machine.execAtom f s
  | .red f => Sys2Proof.Machine.execRed f s
  | .ldr f => Sys2Proof.Machine.execLdr f s
  | .stc f => Sys2Proof.Machine.execStc f s
  | .prefetch gd addr => Sys2Proof.Machine.execPrefetch gd addr s
  | .flush gd arg => Sys2Proof.Machine.execFlush gd arg s
  | .inval gd arg => Sys2Proof.Machine.execInval gd arg s
  | .bcomp f => Sys2Proof.Machine.execBcomp f s
  | .mres gd mask => Sys2Proof.Machine.execMres gd mask s
  | .mrel gd mask => Sys2Proof.Machine.execMrel gd mask s
  | .mzero gd d => Sys2Proof.Machine.execMzero gd d s
  | .mma f => Sys2Proof.Machine.execMma f s
  | .mqinit f => Sys2Proof.Machine.execMqinit f s
  | .mdrain f => Sys2Proof.Machine.execMdrain f s
  | .mload f => Sys2Proof.Machine.execMload f s
  | .talloc gd p d b => Sys2Proof.Machine.execTalloc gd p d b s
  | .tallocImm gd p d n => Sys2Proof.Machine.execTallocImm gd p d n s
  | .tinfo gd d a => Sys2Proof.Machine.execTinfo gd d a s
  | .tpart gd p d b => Sys2Proof.Machine.execTpart gd p d b s
  | .qpush gd h a => Sys2Proof.Machine.execQpush gd h a s
  | .qpop gd h d => Sys2Proof.Machine.execQpop gd h d s
  | .qtry gd h d c => Sys2Proof.Machine.execQtry gd h d c s
  | .qmc gd a b => Sys2Proof.Machine.execQmc gd a b s
  | .reorder f => Sys2Proof.Machine.execReorder f s
  | .rinfo f => Sys2Proof.Machine.execRinfo f s
  | .barArrive f => Sys2Proof.Machine.execBarArrive f s
  | .barArriveRem f => Sys2Proof.Machine.execBarArriveRem f s
  | .barWait f => Sys2Proof.Machine.execBarWait f s
  | .barSync f => Sys2Proof.Machine.execBarSync f s
  | .launch f => Sys2Proof.Machine.execLaunch f s
  | .tlsig f => Sys2Proof.Machine.execTlsig f s
  | .tlwait f => Sys2Proof.Machine.execTlwait f s
  | .tlwaitExt f => Sys2Proof.Machine.execTlwaitExt f s
  | .msend f => Sys2Proof.Machine.execMsend f s
  | .mrecv f => Sys2Proof.Machine.execMrecv f s
  | .mprobe f => Sys2Proof.Machine.execMprobe f s
  | .mwaitr gd ext d a => Sys2Proof.Machine.execMwaitr gd ext d a s
  | .mwaitrExt gd d a us => Sys2Proof.Machine.execMwaitrExt gd d a us s
  | .ratom f => Sys2Proof.Machine.execRatom f s
  | .ratomCas f => Sys2Proof.Machine.execRatomCas f s
  | .trace gd a => Sys2Proof.Machine.execTrace gd a s
  | .traceImm gd imm => Sys2Proof.Machine.execTraceImm gd imm s
  | .mark gd block => Sys2Proof.Machine.execMark gd block s
  | .evt gd code a => Sys2Proof.Machine.execEvt gd code a s
  | .bindw f => Sys2Proof.Machine.execBindw f s
  | .unbindw gd slot => Sys2Proof.Machine.execUnbindw gd slot s
  | .loadDelivered op => Sys2Proof.Machine.execLoadDelivered op s
  | .storeAck op part => Sys2Proof.Machine.execStoreAck op part s
  | .sliceLoad req drop => Sys2Proof.Machine.execSliceLoad req drop s
  | .sliceStore req drop => Sys2Proof.Machine.execSliceStore req drop s
  | .sliceAtomic req drop => Sys2Proof.Machine.execSliceAtomic req drop s
  | .timelineSignal op => Sys2Proof.Machine.execTimelineSignal op s
  | .opticalToken slice => Sys2Proof.Machine.execOpticalToken slice s
  | .fenceComplete g fence => Sys2Proof.Machine.execFenceComplete g fence s
  | .qpushVisible g path => Sys2Proof.Machine.execQpushVisible g path s
  | .barArrivalApply g path => Sys2Proof.Machine.execBarArrivalApply g path s
  | .barRemoteApply op => Sys2Proof.Machine.execBarRemoteApply op s
  | .launchKickSent g path => Sys2Proof.Machine.execLaunchKickSent g path s
  | .tlsigSent g path => Sys2Proof.Machine.execTlsigSent g path s
  | .bindwComplete g path => Sys2Proof.Machine.execBindwComplete g path s
  | .tlwaitTimeout g path => Sys2Proof.Machine.execTlwaitTimeout g path s
  | .mwaitrTimeout g path => Sys2Proof.Machine.execMwaitrTimeout g path s
  | .yieldExpire g path => Sys2Proof.Machine.execYieldExpire g path s
  | .reservationExpire n => Sys2Proof.Machine.execReservationExpire n s
  | .cpaTransfer op idx => Sys2Proof.Machine.execCpaTransfer op idx s
  | .completionInterrupt g => Sys2Proof.Machine.execCompletionInterrupt g s
  | .bcompFinish op => Sys2Proof.Machine.execBcompFinish op s
  | .bcompFault op => Sys2Proof.Machine.execBcompFault op s
  | .metadataPush op => Sys2Proof.Machine.execMetadataPush op s
  | .mqinitWord op => Sys2Proof.Machine.execMqinitWord op s
  | .matrixPass cluster quad => Sys2Proof.Machine.execMatrixPass cluster quad s
  | .arbiterPromote cluster quad entry => Sys2Proof.Machine.execArbiterPromote cluster quad entry s
  | .mmaComplete cluster quad entry => Sys2Proof.Machine.execMmaComplete cluster quad entry s
  | .mresBind g path => Sys2Proof.Machine.execMresBind g path s
  | .mrelUnbind g z => Sys2Proof.Machine.execMrelUnbind g z s
  | .mdrainApply op part => Sys2Proof.Machine.execMdrainApply op part s
  | .mdrainComplete op => Sys2Proof.Machine.execMdrainComplete op s
  | .mloadComplete op => Sys2Proof.Machine.execMloadComplete op s
  | .fragmentSlotFill g slot => Sys2Proof.Machine.execFragmentSlotFill g slot s
  | .fragmentUnspill cluster core => Sys2Proof.Machine.execFragmentUnspill cluster core s
  | .pathSwap g => Sys2Proof.Machine.execPathSwap g s
  | .groupEnd g => Sys2Proof.Machine.execGroupEnd g s
  | .congestionSample cluster => Sys2Proof.Machine.execCongestionSample cluster s
  | .crossbarReply cluster core marked => Sys2Proof.Machine.execCrossbarReply cluster core marked s
  | .reorderArrive g path => Sys2Proof.Machine.execReorderArrive g path s
  | .dissolveEnd g => Sys2Proof.Machine.execDissolveEnd g s
  | .reorderEmit kid crew => Sys2Proof.Machine.execReorderEmit kid crew s
  | .kick c q v => Sys2Proof.Machine.execKick c q v s
  | .doorbell link page off size v => Sys2Proof.Machine.execDoorbell link page off size v s
  | .packetRead c q => Sys2Proof.Machine.execPacketRead c q s
  | .sealReread c q => Sys2Proof.Machine.execSealReread c q s
  | .waitTimelineTest kid => Sys2Proof.Machine.execWaitTimelineTest kid s
  | .crewPlace kid ch => Sys2Proof.Machine.execCrewPlace kid ch s
  | .deadlineDrop kid => Sys2Proof.Machine.execDeadlineDrop kid s
  | .markerComplete kid => Sys2Proof.Machine.execMarkerComplete kid s
  | .kernelBoundary kid => Sys2Proof.Machine.execKernelBoundary kid s
  | .crewRetire kid crew => Sys2Proof.Machine.execCrewRetire kid crew s
  | .kernelRetire kid => Sys2Proof.Machine.execKernelRetire kid s
  | .queueEnable c q => Sys2Proof.Machine.execQueueEnable c q s
  | .queueDisable c q => Sys2Proof.Machine.execQueueDisable c q s
  | .queueRestart c q => Sys2Proof.Machine.execQueueRestart c q s
  | .queueDispatch c q seq => Sys2Proof.Machine.execQueueDispatch c q seq s
  | .ctxCreate c => Sys2Proof.Machine.execCtxCreate c s
  | .ctxPreempt c => Sys2Proof.Machine.execCtxPreempt c s
  | .ctxResume c => Sys2Proof.Machine.execCtxResume c s
  | .ctxKill c => Sys2Proof.Machine.execCtxKill c s
  | .ctxDestroy c => Sys2Proof.Machine.execCtxDestroy c s
  | .sliceExpiry c => Sys2Proof.Machine.execSliceExpiry c s
  | .preemptWindowExpire c => Sys2Proof.Machine.execPreemptWindowExpire c s
  | .groupSave g => Sys2Proof.Machine.execGroupSave g s
  | .saveComplete c => Sys2Proof.Machine.execSaveComplete c s
  | .timeResumePlace c => Sys2Proof.Machine.execTimeResumePlace c s
  | .watchdog c => Sys2Proof.Machine.execWatchdog c s
  | .containmentComplete c => Sys2Proof.Machine.execContainmentComplete c s
  | .translationWalk c cluster va => Sys2Proof.Machine.execTranslationWalk c cluster va s
  | .walkComplete c va => Sys2Proof.Machine.execWalkComplete c va s
  | .pageFaultRecord g path page => Sys2Proof.Machine.execPageFaultRecord g path page s
  | .pfresp v => Sys2Proof.Machine.execPfresp v s
  | .pftailWrite v => Sys2Proof.Machine.execPftailWrite v s
  | .tlbinv v => Sys2Proof.Machine.execTlbinv v s
  | .tlbinvComplete => Sys2Proof.Machine.execTlbinvComplete s
  | .linkEnable port => Sys2Proof.Machine.execLinkEnable port s
  | .linkDisable port => Sys2Proof.Machine.execLinkDisable port s
  | .linkTrained link => Sys2Proof.Machine.execLinkTrained link s
  | .linkTrainTimeout link => Sys2Proof.Machine.execLinkTrainTimeout link s
  | .linkRetryFail link => Sys2Proof.Machine.execLinkRetryFail link s
  | .fibreLockLoss link => Sys2Proof.Machine.execFibreLockLoss link s
  | .flitReceive link crcOk => Sys2Proof.Machine.execFlitReceive link crcOk s
  | .creditReport port sh e0 e1 => Sys2Proof.Machine.execCreditReport port sh e0 e1 s
  | .packetHop a => Sys2Proof.Machine.execPacketHop a s
  | .messageArrival n => Sys2Proof.Machine.execMessageArrival n s
  | .messageAnswer op => Sys2Proof.Machine.execMessageAnswer op s
  | .peerIngressAtomic a => Sys2Proof.Machine.execPeerIngressAtomic a s
  | .hostAtomic req => Sys2Proof.Machine.execHostAtomic req s
  | .ingressWrite a => Sys2Proof.Machine.execIngressWrite a s
  | .hostWrite link pa size data => Sys2Proof.Machine.execHostWrite link pa size data s
  | .hostRead link pa size => Sys2Proof.Machine.execHostRead link pa size s
  | .freezeReceive cluster core => Sys2Proof.Machine.execFreezeReceive cluster core s
  | .capsuleSeal => Sys2Proof.Machine.execCapsuleSeal s
  | .capreq v => Sys2Proof.Machine.execCapreq v s
  | .capsuleViewReady => Sys2Proof.Machine.execCapsuleViewReady s
  | .capack v => Sys2Proof.Machine.execCapack v s
  | .traceDrain cluster core => Sys2Proof.Machine.execTraceDrain cluster core s
  | .checkpoint c => Sys2Proof.Machine.execCheckpoint c s
  | .dbgStop c sel => Sys2Proof.Machine.execDbgStop c sel s
  | .dbgGo c sel => Sys2Proof.Machine.execDbgGo c sel s
  | .dbgStep c sel => Sys2Proof.Machine.execDbgStep c sel s
  | .powerUp => Sys2Proof.Machine.execPowerUp s
  | .warmReset => Sys2Proof.Machine.execWarmReset s
  | .powerLoss => Sys2Proof.Machine.execPowerLoss s
  | .fwGo v => Sys2Proof.Machine.execFwGo v s
  | .fwLoaded readOk => Sys2Proof.Machine.execFwLoaded readOk s
  | .attreq => Sys2Proof.Machine.execAttreq s
  | .attestReady => Sys2Proof.Machine.execAttestReady s
  | .svcDrain island => Sys2Proof.Machine.execSvcDrain island s
  | .clusterOffline cluster => Sys2Proof.Machine.execClusterOffline cluster s
  | .svcReturn island => Sys2Proof.Machine.execSvcReturn island s
  | .svcRepair island core => Sys2Proof.Machine.execSvcRepair island core s
  | .svcModule island addr => Sys2Proof.Machine.execSvcModule island addr s
  | .svcCycle island => Sys2Proof.Machine.execSvcCycle island s
  | .svcComplete => Sys2Proof.Machine.execSvcComplete s
  | .powerControlTick watts => Sys2Proof.Machine.execPowerControlTick watts s
  | .rampStage quad => Sys2Proof.Machine.execRampStage quad s
  | .energyInterval nj => Sys2Proof.Machine.execEnergyInterval nj s
  | .softError a => Sys2Proof.Machine.execSoftError a s
  | .fabjobWrite c v => Sys2Proof.Machine.execFabjobWrite c v s
  | .congctlWrite v => Sys2Proof.Machine.execCongctlWrite v s
  | .congrateWrite cluster v => Sys2Proof.Machine.execCongrateWrite cluster v s
  | .rspillWrite c v => Sys2Proof.Machine.execRspillWrite c v s
  | .pwrcapWrite v => Sys2Proof.Machine.execPwrcapWrite v s
  | .rplctlWrite c v => Sys2Proof.Machine.execRplctlWrite c v s
  | .trcbaseWrite c v => Sys2Proof.Machine.execTrcbaseWrite c v s
  | .regWrite off size v => Sys2Proof.Machine.execRegWrite off size v s
  | .stallClock g => Sys2Proof.Machine.execStallClock g s
  | .progressMarkFirst g => Sys2Proof.Machine.execProgressMarkFirst g s
  | .completionReply req => Sys2Proof.Machine.execCompletionReply req s
  | .ingressRead a => Sys2Proof.Machine.execIngressRead a s
  | .hostAbandonChoice kid fault => Sys2Proof.Machine.execHostAbandonChoice kid fault s

end Sys2Proof.Machine
end

