-- ==== Sys2Proof/Machine/Replay.lean ====
section
/-! DEFINITION. Order logs (R429, R430): what a recorded context logs at each source, and how a replayed
one waits for its turn and takes logged results. -/

namespace Sys2Proof.Machine

/-! ### The log of a context -/

/-- Replay mode in effect: 0 off, 1 record, 2 replay (R428). -/
def State.replay (s : State) (c : Nat) : Nat :=
  match s.ctx? c with
  | some x => x.replayMode
  | none => 0

/-- The oldest entry of a source. -/
def State.headLog (s : State) (c src : Nat) : Option (List Nat) :=
  match s.ctx? c with
  | none => none
  | some x => (x.trace.log.find? (fun e => e.1 == src)).map (·.2)

/-- Drop the first element that satisfies `p`. -/
def dropFirst {α : Type} (p : α → Bool) : List α → List α
  | [] => []
  | x :: xs => if p x then xs else x :: dropFirst p xs

/-- The oldest entry of a source has been applied. -/
def State.popLog (s : State) (c src : Nat) : State :=
  s.modCtx c (fun x => { x with trace := { x.trace with log := dropFirst (fun (e : Nat × List Nat) => e.1 == src) x.trace.log } })

/-- An instruction of a thread, named as both runs name it. -/
def State.threadKey (s : State) (kid wid : Nat) (pc : DWord) : List Nat :=
  match s.launch? kid with
  | some l => [l.q, l.seq, wid, pc.toNat]
  | none => [0, 0, wid, pc.toNat]

/-- An operation logged at a source. -/
structure LogKey where
  ctx : Nat
  src : Nat
  item : List Nat
  /-- The path whose arrival at `reorder` it is. -/
  arrival : Option (GroupId × Nat) := none
  /-- The engine operation and transfer whose report to its cell it is (R204). -/
  step : Option (Nat × Nat) := none
deriving DecidableEq, Repr

def State.opKey (s : State) (o : Op) (src : Nat) (what : List Nat) : LogKey where
  ctx := o.ctx
  src := src
  item := s.threadKey o.kid o.wid o.pc ++ what

/-- Key of a request's operation. -/
def State.reqKey (s : State) (req : Nat) (src : Req → Nat) (what : Req → List Nat) : Option LogKey :=
  match s.req? req with
  | none => none
  | some r => (s.op? r.op).map (fun o => s.opKey o (src r) (what r))

/-- Key of a waiting path on its core. -/
def State.pathKey (s : State) (i : GroupId) (path what : Nat) : Option LogKey :=
  match s.group? i with
  | none => none
  | some g => (g.path? path).map (fun p =>
      { ctx := g.ctx, src := srcCore i.cluster i.core, item := s.threadKey g.kid (g.lowWid p.mask) p.pc ++ [what] })

/-- The arrival of a path at `reorder`: binned paths are logged (R325, R429). -/
def State.arrivalKey (s : State) (g : Group) (p : Path) : LogKey where
  ctx := g.ctx
  src := srcCluster g.id.cluster
  item := s.threadKey g.kid (g.lowWid p.mask) p.pc ++ [5]
  arrival := some (g.id, p.id)

/-- The path has been binned: it has ceased to exist. -/
def State.binned (s : State) (x : GroupId × Nat) : Bool := ((s.group? x.1).bind (fun g => g.path? x.2)).isNone

/-- An engine operation has reported a transfer to its cell. -/
def State.reported (s : State) (x : Nat × Nat) : Bool :=
  match s.op? x.1 with
  | none => true
  | some o => match o.kind with
    | .cpa _ _ left wrote => !left.contains x.2 && !wrote.any (fun w => w.1 == x.2)
    | _ => false

/-- The logged operation has been applied between two states. -/
def LogKey.applied (k : LogKey) (s t : State) : Bool :=
  match k.arrival, k.step with
  | some x, _ => t.binned x
  | none, some x => !s.reported x && t.reported x
  | none, none => decide (t ≠ s)

/-- A step of an engine operation on its cell (R204, R429). -/
def State.stepKey (s : State) (op idx : Nat) : Option LogKey :=
  (s.op? op).map (fun o => { s.opKey o (srcCluster o.gid.cluster) [4, idx] with step := some (op, idx) })

/-- What an event logs, at its source (R429). -/
def State.eventKey (s : State) : Instr → Option LogKey
  | .sliceAtomic req _ => s.reqKey req (·.slice) (fun r => [0, r.line])
  | .peerIngressAtomic (.outbound req) => s.reqKey req (fun _ => 96) (fun r => [1, r.line])
  | .peerIngressAtomic (.inbound n) => (s.links.held[n]?).bind (fun h => (s.jobCtx h.pkt.job).map (fun c =>
      { ctx := c.num, src := 96, item := [9, h.pkt.srcDev, h.pkt.srcClu, h.pkt.op] }))
  | .hostAtomic req => s.reqKey req (fun _ => 97) (fun r => [1, r.line])
  | .timelineSignal op => match s.op? op with
    | none => none
    | some o => match o.parts.head? with
      | none => none
      | some p => some (s.opKey o (s.keySlice p.key) [2])
  | .mdrainApply op part => match s.op? op with
    | none => none
    | some o => match o.kind with
      | .mdrain _ _ true .. => some (s.opKey o (srcCluster o.gid.cluster) [3, part])
      | _ => none
  | .cpaTransfer op idx => s.stepKey op idx
  | .bcompFinish op | .bcompFault op => s.stepKey op 0
  | .reorderArrive i path => match s.group? i with
    | none => none
    | some g => (g.path? path).map (s.arrivalKey g)
  | .tlwaitTimeout i path => s.pathKey i path 6
  | .mwaitrTimeout i path => s.pathKey i path 7
  | .crewPlace kid _ => (s.launch? kid).map (fun l => { ctx := l.ctx, src := srcDispatch, item := [l.q, l.seq, l.nextCrew] })
  | _ => none

/-- Let an event happen in its order: recorded, or in replay once all that was logged before it at its
source has been applied (R430). -/
def State.inOrder (s : State) (k : Option LogKey) (run : State → Host.Outcome State Fault Refusal) :
    Host.Outcome State Fault Refusal :=
  match k with
  | none => run s
  | some k => match s.replay k.ctx with
    | 0 => run s
    | 1 => match run s with
      | .next t => .next (if k.applied s t then t.addLog k.ctx k.src k.item else t)
      | r => r
    | _ => match s.headLog k.ctx k.src with
      | none => run s
      | some item =>
        if item != k.item then .next s
        else match run s with
          | .next t => .next (if k.applied s t then t.popLog k.ctx k.src else t)
          | r => r

/-! ### Instructions -/

/-- Instructions that take from a crew's pools and queues or step a cell, in the cluster's order (R204, R429). -/
def takesTurn : Instr → Bool
  | .talloc .. | .tallocImm .. | .qpop .. | .qtry .. | .cellInit .. | .cellArrive .. | .cellArm .. => true
  | _ => false

/-- Instructions whose results are logged (R429). -/
def logsResult : Instr → Bool
  | .getsr f => match f.sel with
    | .core | .group | .time | .energy | .throttle | .pathcnt | .stall _ => true
    | _ => false
  | .rinfo f => match f.sel with
    | .seq => true
    | _ => false
  | .tinfo .. | .cellTest _ | .mprobe _ => true
  | _ => false

/-- Register words that an instruction of a path writes, by code and lane. -/
def resultPlaces (i : Instr) (p : Path) : List (Nat × Nat) :=
  i.info.dst.flatMap (fun c => if c < 192 then (lanesOf p.mask).map (fun l => (c, l)) else [(c, 0)])

/-- What an instruction has left: its register words and the group predicates. -/
def Group.results (g : Group) (i : Instr) (p : Path) : List Nat :=
  g.q.toNat :: (resultPlaces i p).map (fun x => (g.reg x.1 x.2).toNat)

/-- Put logged results in their places. -/
def Group.putResults (g : Group) (i : Instr) (p : Path) (vals : List Nat) : Group :=
  let g := { g with q := BitVec.ofNat 8 (vals.headD 0) }
  ((resultPlaces i p).zip vals.tail).foldl (fun (g : Group) x => g.setReg x.1.1 x.1.2 (BitVec.ofNat 32 x.2)) g

/-- What an instruction logs in its cluster's order: one that takes a tile or a handle, and a `reorder` that
arrives (R325, R429). -/
def State.turnKey (s : State) (g : Group) (p : Path) (i : Instr) : Option LogKey :=
  if takesTurn i then
    some { ctx := g.ctx, src := srcCluster g.id.cluster, item := s.threadKey g.kid (g.lowWid p.mask) p.pc }
  else match i with
    | .reorder _ => if s.drained g then some (s.arrivalKey g p) else none
    | _ => none

/-- The turn of an instruction, before it issues: none where it must wait (R430). -/
def State.turnOf (s : State) (g : Group) (p : Path) (i : Instr) : Bool :=
  s.replay g.ctx != 2 || (match s.turnKey g p i with
    | some k => (match s.headLog k.ctx k.src with
      | some item => item == k.item
      | none => true)
    | none => true)

/-- After an instruction of a recorded or replayed context has issued (R429, R430); `turn` is what it logs in its
cluster's order. -/
def State.afterIssue (s : State) (turn : Option LogKey) (g : Group) (p : Path) (i : Instr) : State :=
  let m := s.replay g.ctx
  if m = 0 then s
  else match s.group? g.id with
    | none => s
    | some h =>
      if h.issued = g.issued then s
      else
        let who := s.threadKey g.kid (g.lowWid p.mask) p.pc
        match turn with
        | some k =>
          if k.arrival.any (fun x => !s.binned x) then s
          else if m = 1 then s.addLog k.ctx k.src k.item
          else if s.headLog k.ctx k.src = some k.item then s.popLog k.ctx k.src else s
        | none => if logsResult i then
          let src := srcCore g.id.cluster g.id.core
          if m = 1 then s.addLog g.ctx src (who ++ h.results i p)
          else match s.headLog g.ctx src with
            | some item =>
              if item.take 4 = who then (s.setGroup (h.putResults i p (item.drop 4))).popLog g.ctx src else s
            | none => s
        else s

/-! ### Messages (R429, R430) -/

/-- The packet of a logged arrival. -/
def itemPkt (l : List Nat) : Option PktHeader :=
  match l with
  | 8 :: seq :: cls :: len :: job :: tag :: typ :: sc :: sd :: dc :: dd :: flow :: op :: data =>
    some { seq := seq
           cls := Fin.ofNat 4 cls
           len := len
           job := job
           tag := tag
           typ := typ
           srcClu := sc
           srcDev := sd
           dstClu := dc
           dstDev := dd
           payload := data.map (BitVec.ofNat 8)
           route := .minimal
           flow := flow
           op := op
           body := .none }
  | _ => none

/-- Logged arrivals whose turn has come reach a replayed context. -/
def State.replayArrivals (s : State) : State :=
  (s.ctxs.filter (fun c => c.replayMode == 2 && c.st == .resident)).foldl (fun (s : State) c =>
    (List.range 24).foldl (fun (s : State) k =>
      match (s.headLog c.num (srcCluster k)).bind itemPkt with
      | some pkt => (s.popLog c.num (srcCluster k)).matchMessage c.num k pkt
      | none => s) s) s

end Sys2Proof.Machine
end

