-- ==== Sys2Proof/Machine/Run.lean ====
section
/-! DEFINITION. What one step does: the choice of the group that issues (R300, R306 to R309), fetch and
decode, what follows every act, the passing of clocks (R310, R314), and the schedule's acts. -/

namespace Sys2Proof.Machine

/-! ### An attempt -/

/-- A fetch fails: it waits for the host in a host-assisted context, else it traps (R126, R380). -/
def State.fetchFault (s : State) (g : Group) (p : Path) (c : Code) (va : Nat) : State :=
  let page := pageOf va
  let answered := p.failed.any (fun f => f.1 == page && f.2.2)
  if c == .pageFault && (s.desc g.ctx).mode 64 && decide (va < 2 ^ 56) && !answered then
    let level := ((p.failed.find? (fun f => f.1 == page)).map (·.2.1)).getD 0
    s.modGroup g.id (fun g => g.setPath (p.waitAt (.hostFault [(page, level, 3)] [page] s.time)))
  else s.trapAt g p c va

/-- A fetch finds no cached leaf: it waits for the walk, or its walk has failed (R126, R377). -/
def State.fetchMiss (s : State) (g : Group) (p : Path) (page : Nat) : State :=
  if p.failed.any (fun f => f.1 == page) then s.fetchFault g p .pageFault p.pc.toNat
  else s.modGroup g.id (fun g => g.setPath (p.waitAt (.fetch page)))

/-- The path has waited for a translation: it goes back to its instruction's own wait. -/
def Path.fetched (p : Path) : Path :=
  match p.park with
  | some k => if k.translates then { p with park := p.resume, resume := none } else p
  | none => p

/-- Fetch, decode and execute at a path's program counter; a replayed context waits for its turn and takes
logged results (R430). -/
def State.attempt (s : State) (g : Group) (p : Path) : Host.Outcome State Fault Refusal :=
  match s.fetch g p.pc.toNat with
  | .trap c va => .next (s.fetchFault g p c va)
  | .miss page => .next (s.fetchMiss g p page)
  | .instr i =>
    if s.turnOf g p i then
      let s := if p.fetched = p then s else s.setGroup (g.setPath p.fetched)
      onNext (fun t => t.afterIssue (s.turnKey g p i) g p i) (exec i { s with issuer := some (g.id, p.id) })
    else .next (s.modGroup g.id (fun g => g.hold s.clock p.id 15 false))

/-! ### After every act -/

/-- Apply to every group in turn. -/
def State.eachGroup (s : State) (f : State → Group → State) : State :=
  s.groups.foldl (fun (s : State) g => match s.group? g.id with
    | some g => f s g
    | none => s) s

/-- Groups that were taking a trap and are quiet now take it (R259); a fatal one waits for the end of its
clock (R260). -/
def State.takeTraps (s : State) : State :=
  (s.groups.filter (fun g => g.trapping.isSome)).foldl (fun (s : State) (h : Group) =>
    match s.group? h.id with
    | none => s
    | some g => match g.trapping with
      | none => s
      | some t => if g.phase != .halted && g.phase != .saved && s.quiet g && !s.fatalTrap g t then s.takeTrap g t
        else s) s

/-- Groups that are taking a fatal trap, with it. -/
def State.fatalTraps (s : State) : List (Group × TrapReq) :=
  s.groups.filterMap (fun g => match g.trapping with
    | some t => if g.phase != .halted && g.phase != .saved && s.fatalTrap g t then some (g, t) else none
    | none => none)

/-- The WID that the record of a trap names. -/
def trapWid (x : Group × TrapReq) : Nat := x.2.wid.getD (x.1.widOf x.2.lane)

/-- The fatal traps that are due, in ascending order of the WIDs that their records name: their groups are quiet,
and none waits for one of lower WID that arose in the same context on the same clock (R260). -/
def State.dueFatal (s : State) : List (Group × TrapReq) :=
  let all := s.fatalTraps
  sortBy trapWid (all.filter (fun x => s.quiet x.1 && !all.any (fun y => y.1.ctx == x.1.ctx && y.2.clock == x.2.clock &&
    decide (trapWid y < trapWid x) && !s.quiet y.1)))

/-- The clock's fatal traps are taken: of two in one context the record is that of the lower WID (R260), and the
other is a further fault of the capsule (R417, R418). -/
def State.takeFatal (s : State) : State :=
  s.dueFatal.foldl (fun (s : State) x => s.takeTrap ((s.group? x.1.id).getD x.1) x.2) s

/-- Pending completion interrupts vector their groups (R209). -/
def State.vectorPending (s : State) : State :=
  (s.groups.filter Group.vectorDue).foldl (fun (s : State) g => match s.group? g.id with
    | some g => s.vector g
    | none => s) s

/-- Debug stops and forced saves that waited for pending results (R140). -/
def State.finishStops (s : State) : State :=
  s.eachGroup (fun s g => match g.stopping with
    | some r => if g.phase == .live && !g.windowPending then s.stopNow g r else s
    | none => if g.saving then s.forceStop g else s)

/-- A group with a path at a breakpoint stops (R427) (log 42, DEDUCED). -/
def State.breakStops (s : State) : State :=
  (s.groups.filter (fun g => g.phase == .live && g.trapping.isNone && g.stopping.isNone && g.paths.any (s.atBreakpoint g))).foldl
    (fun (s : State) g => s.debugStop g .breakpoint) s

/-- What follows every act: doorbells that are due (R99), interrupts vectored, traps taken, debug stops, logged
arrivals, tiles granted (R360), waits that have ended (R415), and the watchdog's conditions. -/
def State.sweep (s : State) : State :=
  (if s.links.bells.isEmpty then s else s.ringBells).vectorPending.takeTraps.stepStops.breakStops.finishStops.replayArrivals.grantTiles.wakeUps.watch

/-! ### The passing of clocks (R310, R314) -/

/-- An attempt neither issued nor trapped: the path only waits or is held. -/
def Group.onlyWaits (g h : Group) : Bool :=
  h.issued == g.issued && h.trapping.isNone && h.trapinfo == g.trapinfo && h.frame == g.frame && h.phase == g.phase

/-- A slot is tried at the end of the clock: its group has not issued, or it holds the marked thread and the other
slot has issued (R312). -/
def State.tries (s : State) (g : Group) (n : Fin 2) (p : Path) : Bool :=
  s.mayIssue g || (s.mayTry g && g.markedPath p && g.cs != n)

/-- Eligible slots of a group are tried: where the instruction would not issue, the path waits. -/
def State.tryGroup (s : State) (i : GroupId) : State :=
  [(0 : Fin 2), 1].foldl (fun (s : State) n =>
    match s.group? i with
    | none => s
    | some g => match (g.slotPath? n).filter (fun p => s.tries g n p && s.slotReady g p) with
      | none => s
      | some p => match s.attempt g p with
        | .next t => match t.group? i with
          | some h => if g.onlyWaits h then t else s
          | none => s
        | _ => s) s

/-- Memory-bound groups beyond the allowance count reason 9 in each eligible slot (R308). -/
def State.holdExcluded (s : State) : State :=
  let cores := s.groups.foldl (fun (acc : List (Nat × Nat)) g =>
    if acc.contains (g.id.cluster, g.id.core) then acc else acc ++ [(g.id.cluster, g.id.core)]) []
  let out := cores.flatMap (fun x => s.excluded x.1 x.2 (s.candidates x.1 x.2 []))
  out.foldl (fun (t : State) x => t.modGroup x.1.id (fun g =>
    [(0 : Fin 2), 1].foldl (fun (g : Group) n => match s.readySlot g [] n with
      | some p => g.hold s.clock p.id 9 false
      | none => g) g)) s

/-- What a group does between two clocks (R302): free slots are filled. -/
def State.refill (s : State) (i : GroupId) : State :=
  let s := [(0 : Fin 2), 1].foldl (fun (s : State) n => match s.group? i with
    | some g => s.fillSlot g n
    | none => s) s
  s.modGroup i (fun g => { g with vacant := [(0 : Fin 2), 1].filter (fun n => (g.slotPath? n).isNone) })

/-- The clock ends: every group that issued nothing counts a stall (R314), swaps that are due are made (R303),
and fragments that a `brd` detached join the queue (R304). The next clock begins: the marks move (R312), free
slots are filled (R302), entries of the split tables that have freed are taken (R301), and every 256 clocks the
clusters sample their queues (R308). -/
def State.closeClock (s : State) : State :=
  let s : State := s.groups.foldl (fun (s : State) g => s.tryGroup g.id) s
  let s : State := s.holdExcluded
  let s : State := s.groups.foldl (fun (s : State) g => s.stallOne g.id) s
  let s : State := s.eachGroup State.countMark
  let s : State := (s.eachGroup State.swapStep).unspillAll
  let s : State := s.groups.foldl (fun (s : State) g => s.queueDetached g.id) s
  let s : State := { s with clock := s.clock + 1, issues := [] }
  let s : State := (s.groups.foldl (fun (s : State) g => s.refill g.id) s).unspillAll
  let s : State := s.takeReplies.coalesce
  let s : State := s.moveMarks
  let s : State := { s with groups := s.groups.map Group.rankFirst }
  if s.clock % 256 = 0 then (List.range 24).foldl State.sample s else s

def State.closeClocks (s : State) : Nat → State
  | 0 => s
  | n + 1 => State.closeClocks s.closeClock n

/-! ### Acts -/

/-- The row stands for an event, not for an instruction that a group issues. -/
def isEvent (i : Instr) : Bool :=
  match i with
  | .padWord _ => false
  | i => (encodeRaw i).isNone

/-- Events of the islands that leave reset before an image runs: the Roluone island, TIME and Waent link 0 (R431)
(log 43, DEDUCED). -/
def bootEvent : Instr → Bool
  | .powerUp | .warmReset | .powerLoss | .fwGo _ | .fwLoaded _ | .attreq | .attestReady | .capreq _ | .capsuleViewReady
  | .capack _ | .regWrite .. => true
  | .hostRead _ pa _ => bits pa 51 49 == 3
  | .linkEnable n | .linkDisable n | .linkTrained n | .linkTrainTimeout n | .linkRetryFail n | .fibreLockLoss n
  | .flitReceive n _ => n == 8
  | _ => false

/-- After a reset the boot ROM trains Waent link 0 (R431): training starts as the first time passes. -/
def State.bootTrain (s : State) : State :=
  if s.boot.powered && s.boot.state == 0 && s.links.link 8 == 0 then s.after (execLinkEnable 8 s) else s

/-- A line leaves an L1: a private line is written back, and leaves only a full L1 (R62) (log 7, DESIGN CHOICE). -/
def State.evict (s : State) (cluster core line : Nat) : State :=
  match s.l1? cluster core line with
  | none => s
  | some l => if s.mayEvict l then s.evictLine l else s

/-- Slots for which no instruction is fetched on this clock count reason 0 (R314). -/
def State.holdUnfetched (s : State) (cluster core : Nat) (unf : List (Nat × Fin 2)) : State :=
  unf.foldl (fun (s : State) x => s.modGroup { cluster := cluster, core := core, slot := x.1 } (fun g =>
    match g.slotPath? x.2 with
    | some p => g.hold s.clock p.id 0 false
    | none => g)) s

/-- One act of the schedule. Without power nothing happens but power-up (log 1, DESIGN CHOICE), and before an image
runs only the events of the islands out of reset (R431). -/
def State.doAct (s : State) (a : Act) : Host.Outcome State Fault Refusal :=
  if !s.boot.powered && a != .event .powerUp then .next s
  else match a with
    | .event i => if isEvent i && (s.boot.state == 3 || bootEvent i) then s.inOrder (s.eventKey i) (exec i) else .next s
    | .issue cluster core unf =>
      match s.selected cluster core unf with
      | some (g, p) => (s.holdUnfetched cluster core unf).attempt g p
      | none => .next (s.holdUnfetched cluster core unf)
    | .evict cluster core line => .next (s.evict cluster core line)
    | .dropTlb cluster ctx page => .next { s with page := { s.page with
        tlb := s.page.tlb.filter (fun t => !(t.cluster == cluster && t.ctx == ctx && t.page == page)) } }
    | .dropWalker ctx page => .next { s with page := { s.page with
        wcache := s.page.wcache.filter (fun w => !(w.1 == ctx && w.2.2.1 * 2 ^ levelBits w.2.1 == page)) } }
    | .outside key bytes =>
      if (List.range bytes.length).all (fun k => outsideKey (key + k)) then
        .next ((s.writeBytes key bytes).wakeTimelines key bytes.length)
      else .next s
    | .outsideShare dev job x =>
      let k := dev * 2 ^ 16 + job % 2 ^ 16
      let rest := s.links.peerX.filter (fun e => e.1 != k)
      .next { s with links := { s.links with peerX := match x with
        | some v => rest ++ [(k, v)]
        | none => rest } }
    | .outsideLinks down => .next { s with links := { s.links with farDown := down } }
    | .lost op => .next (s.losePacket op)
    | .choose ctx n => .next (s.chooseCheckpoint ctx n)
    | .vectorTaken => .next { s with links := { s.links with msix := s.links.msix.tail } }
    | .holdClock cluster core => .next { s with clocks := pairSet s.clocks (24 * cluster + core) (s.coreTime cluster core) }
    | .freeClock cluster core => .next { s with clocks := s.clocks.filter (fun c => c.1 != 24 * cluster + core) }

/-- Time and clocks pass; a clock ends with its fatal traps. -/
def State.pass (s : State) (ns clocks : Nat) : State :=
  let s := if clocks = 0 then s else s.takeFatal
  let s := if ns = 0 then s else s.bootTrain
  ({ s with time := s.time + ns }.closeClocks clocks).wakeUps

/-- A turn of the schedule: time and clocks pass, then its act happens (log 1, DESIGN CHOICE). -/
def State.runTurn (s : State) (t : Turn) : Host.Outcome State Fault Refusal :=
  let s := s.pass t.ns t.clocks
  match t.act with
  | none => .next s.sweep
  | some a => onNext State.sweep (s.doAct a)

/-- Nanoseconds of a core clock at 850 MHz: 20 for every 17 clocks (R20) (log 3, DESIGN CHOICE). -/
def clockNs (clock : Nat) : Nat := (clock + 1) * 20 / 17 - clock * 20 / 17

/-- With no turn left, the device issues what it may on this clock; then the clock passes
(log 1, DESIGN CHOICE). -/
def State.idle (s : State) : Host.Outcome State Fault Refusal :=
  match s.groups.findSome? (fun g => s.selected g.id.cluster g.id.core []) with
  | some (g, p) => onNext State.sweep (s.attempt g p)
  | none => .next (s.pass (clockNs s.clock) 1).sweep

/-- The next turn of the schedule, or the device's own going on. -/
def State.nextTurn (s : State) : Host.Outcome State Fault Refusal :=
  match s.agenda with
  | t :: rest => { s with agenda := rest }.runTurn t
  | [] => s.idle

/-! ### Placing one instruction -/

/-- A launch header that admits every operand (R280). -/
def fetchHeader : Header :=
  { Header.empty with
    nv := 192
    ns := 64
    team := 1
    crew := 1
    privw := 16
    cscr := 16
    kshare := 1
    tbar := 16
    cbar := 16
    keys := 4096
    octets := 1
    text := 4096
    textlen := 64
    pools := [{ space := 0, tsize := 256, afault := false, tiles := 2, mcast := 0 }]
    hqs := [0] }

/-- The launch whose text holds the placed instruction. -/
def fetchLaunch : Launch where
  kid := 0
  ctx := 0
  q := 0
  seq := 1
  marker := false
  hdr := fetchHeader
  deadline := noDeadline
  args := 0
  waiten := false
  waittl := 0
  waitval := 0
  sigen := false
  sigtl := 0
  sigval := 0
  sten := false
  status := 0
  ext := [1, 1, 1, 1]
  clmask := 0
  regions := []
  st := .started
  ready := true
  dispatched := none
  nextCrew := 1
  retired := 0
  tw := 0
  abandoned := 0
  abandonFault := false
  hostChoice := none
  code := none
  energy := 0
  marks := [(1, 0, 64)]
  argWait := none

/-- Its one crew, on cluster 0. -/
def fetchCrew : Crew where
  kid := 0
  crew := 0
  cluster := 0
  teams := [{ home := 0, cbase := 0, awbase := 4096, privbase := 8192 }]
  kbase := 917504
  parts := [{ lim := 2, heldn := 0, tiles := [], base := 8192 }]
  hqs := [{ slots := [], pushed := 0, base := 983040 }]
  teamBars := [List.replicate 16 { phase := false, expl := false, gone := 0, target := 1, live := 1, arr := 0 }]
  crewBars := List.replicate 16 { phase := false, expl := false, gone := 0, target := 1, live := 1, arr := 0 }
  insts := []
  instDone := 0
  lastSpill := 0
  spillArea := 0
  taken := [(0, 0, 16384, false), (0, 983040, 256, true)] ++ (List.range 24).map (fun k => (k, 917504, 65536, true))
  image := none
  stored := []

/-- Its one group: one thread, about to issue at the start of the text. -/
def fetchGroup : Group where
  id := { cluster := 0, core := 0, slot := 0 }
  ctx := 0
  kid := 0
  crew := 0
  hdr := fetchHeader
  gval := 0
  age := 0
  phase := .live
  before := .live
  stop := none
  threads := [(0, { wid := 0, home := 0, team := 0, homeCore := 0, tkey := 0, src := 0, rank := 0, arrivals := 0 })]
  widLo := 0
  v := []
  s := []
  p := []
  q := 0
  paths := [{ id := 0, pc := 4096, mask := 1, stack := [], place := .slot 0, dtime := 0, park := none,
              windows := [], failed := [], timedOut := false }]
  nextPath := 1
  cs := 0
  run := 0
  tokE := []
  tokW := []
  handler := 0
  trapinfo := 0
  frame := none
  flights := []
  fences := []
  twMax := 0
  scTime := none
  intReq := []
  intPend := []
  stall := []
  history := []
  episode := none
  issued := 0
  maxFrag := 0
  spills := 0
  discarded := 0
  rebuilt := false
  rkey := 0xFFFFFFFF
  rcount := 1
  rseq := 0xFFFFFFFF
  mark := none
  markWait := 0
  markFirst := none
  lastIssue := none
  trapping := none
  held := []
  vacant := [1]
  swapDue := false
  stalledAt := none
  savedLive := 0
  stepping := none
  passing := []
  stopping := none
  arrived := false
  rebind := []

/-- Context 0 as the firmware creates it (R249), with page tables of its own: the first 1 GiB is mapped
to itself. -/
def fetchCtx : Ctx := { Ctx.blank 0 with st := .resident, desc := { Desc.zero with root := 256 } }

/-- An image runs, context 0 is RESIDENT with one launch of one group whose arrival word is all ones (R338), the
words stand in its text, and the next turn lets core 0 of cluster 0 issue. -/
def State.placeWords (s : State) (w : Nat) : State :=
  let s := ((s.write 4096 16 w).write 0x100000 8 0x200001).write 0x200000 8 0x5F
  let s := s.write (scratchKey 0 0 4096) 4 0xFFFFFFFF
  { s with
    boot := { s.boot with state := 3 }
    ctxs := [fetchCtx]
    launches := [fetchLaunch]
    crews := [fetchCrew]
    groups := [fetchGroup]
    split := [(0, 131072)]
    page := { s.page with tlb := [{ cluster := 0, ctx := 0, page := 0, bits := 30, leaf := 0x5F }] }
    agenda := { ns := 0, clocks := 0, act := some (.issue 0 0 []) } :: s.agenda }

end Sys2Proof.Machine
end

