-- ==== Sys2Proof/Machine/Step.lean ====
section
/-! DEFINITION. One step of the machine, and the placing of one instruction before it. -/

namespace Sys2Proof.Machine

/-- One step: the next turn of the schedule that State holds, or the device's own going on (log 1). -/
def step (s : State) : Host.Outcome State Fault Refusal := s.nextTurn

/-- The state with an instruction of `nbits` bits stored where the next step fetches it (log 10). -/
def State.withFetchWord (s : State) (nbits w : Nat) : State := s.placeWords (w % 2 ^ nbits)

end Sys2Proof.Machine
end

