-- ==== Sys2Proof/Safety.lean ====
section
/-! DEFINITION. The terms in which statements about the machine are made: when an instruction is ready to
issue, what a retired instruction has done to its path, and what it has left alone. -/

namespace Sys2Proof.Machine

/-! ### Ready to issue -/

/-- Path `p` of group `g` is about to issue the well-formed instruction `i`: the group and the path exist,
and nothing of R138, R139, R144, R84 to R86, R307 and R344 traps it or holds it back. -/
structure Ready (s : State) (i : Instr) (g : Group) (p : Path) : Prop where
  wf : i.wf = true
  issuer : s.issuer = some (g.id, p.id)
  group : s.group? g.id = some g
  path : g.path? p.id = some p
  gate : s.gate g p i = .pass

/-- The state in which the instruction's own part works. -/
def State.begun (s : State) : State := { s with issuer := none }

/-- The state in which an instruction that issues has its effect: its ISSUE record is written first where
R414 asks for one. -/
def State.opened (s : State) (i : Instr) (g : Group) (p : Path) : State :=
  if g.records i then s.begun.recordIssue g p i else s.begun

/-- The trap that an instruction of path `p` raises at its issue: lane, DETAIL and address (R259, R460). -/
def Path.faults (p : Path) (c : Code) (lane detail va : Nat) : TrapReq where
  path := some p.id
  code := some c
  lane := lane
  kind := 2
  detail := detail
  space := 0
  va := va
  pc := p.pc
  wid := none
  order := none

/-- Instruction `i` traps at its issue with a code, in a lane. -/
def TrapsIn (i : Instr) (s : State) (g : Group) (p : Path) (c : Code) (lane : Nat) : Prop :=
  exec i s = .next ((s.opened i g p).trap g (p.faults c lane 0 0))

/-- Instruction `i` traps at its issue with a code, in the lowest lane of its path. -/
def Traps (i : Instr) (s : State) (g : Group) (p : Path) (c : Code) : Prop := TrapsIn i s g p c (lowLane p.mask)

/-! ### What stays as it was -/

/-- A context but for the start of its watchdog count, which every issue of the context clears (R262). -/
def Ctx.still (c : Ctx) : Ctx := { c with watchStart := none }

/-- Storage, accesses, caches and every unit of the device are as before; time and clocks have not
moved. Left out: groups, the recorder's rings (R413), the count of the issues of this clock (R306) and the slots
counted for energy (R438). -/
structure DeviceSame (s t : State) : Prop where
  time : t.time = s.time
  clocks : t.clocks = s.clocks
  clock : t.clock = s.clock
  mem : t.mem = s.mem
  ctxtab : t.ctxtab = s.ctxtab
  ctxs : ∀ c, (t.ctx? c).map Ctx.still = (s.ctx? c).map Ctx.still
  launches : t.launches = s.launches
  crews : t.crews = s.crews
  images : t.images = s.images
  ops : t.ops = s.ops
  reqs : t.reqs = s.reqs
  l1 : t.l1 = s.l1
  expiry : t.expiry = s.expiry
  eDrop : t.eDrop = s.eDrop
  dirty : t.dirty = s.dirty
  token : t.token = s.token
  resv : t.resv = s.resv
  cells : t.cells = s.cells
  split : t.split = s.split
  scraps : t.scraps = s.scraps
  engines : t.engines = s.engines
  page : t.page = s.page
  links : t.links = s.links
  boot : t.boot = s.boot
  svc : t.svc = s.svc
  cong : t.cong = s.cong

/-- The special registers of a group, its tokens, handler frame and threads (R105, R145, R154, R285). -/
structure SpecialSame (g h : Group) : Prop where
  id : h.id = g.id
  ctx : h.ctx = g.ctx
  kid : h.kid = g.kid
  crew : h.crew = g.crew
  hdr : h.hdr = g.hdr
  gval : h.gval = g.gval
  threads : h.threads = g.threads
  handler : h.handler = g.handler
  trapinfo : h.trapinfo = g.trapinfo
  tokE : h.tokE = g.tokE
  tokW : h.tokW = g.tokW
  frame : h.frame = g.frame
  phase : h.phase = g.phase
  flights : h.flights = g.flights
  fences : h.fences = g.fences
  intReq : h.intReq = g.intReq
  intPend : h.intPend = g.intPend

/-- Registers and predicates. -/
structure FileSame (g h : Group) : Prop where
  v : h.v = g.v
  s : h.s = g.s
  p : h.p = g.p
  q : h.q = g.q

/-- Every group but `i` keeps its registers, predicates and special registers. -/
def OthersSame (i : GroupId) (s t : State) : Prop :=
  ∀ j, j ≠ i → (s.group? j = none ∧ t.group? j = none) ∨
    ∃ g h, s.group? j = some g ∧ t.group? j = some h ∧ FileSame g h ∧ SpecialSame g h

/-! ### Retired -/

/-- Where a path stands after an instruction: at `pc`, with the lanes and the place of `p` and return
stack `stack`, in no wait. -/
structure Path.MovedTo (p q : Path) (pc : DWord) (stack : List DWord) : Prop where
  id : q.id = p.id
  pc : q.pc = pc
  mask : q.mask = p.mask
  place : q.place = p.place
  stack : q.stack = stack
  park : q.park = none

/-- The address of the next instruction (R126). -/
def Path.following (p : Path) (i : Instr) : DWord := p.pc + BitVec.ofNat 64 i.bytes

/-- The path has gone on to `pc`, and the other paths of the group stand where they did. -/
structure Went (g h : Group) (p : Path) (pc : DWord) (stack : List DWord) : Prop where
  path : ∃ q, h.path? p.id = some q ∧ p.MovedTo q pc stack
  others : ∀ k, k ≠ p.id → (h.path? k).map (fun q => (q.pc, q.mask, q.stack, q.place)) =
    (g.path? k).map (fun q => (q.pc, q.mask, q.stack, q.place))

/-- The instruction has issued from path `p` of group `g` in `s`, which is `h` in `t`, and the path
goes on at `pc`; nothing outside the group has changed, and of the group no special register. -/
structure Retired (s t : State) (g h : Group) (p : Path) (pc : DWord) (stack : List DWord) : Prop where
  group : t.group? g.id = some h
  went : Went g h p pc stack
  special : SpecialSame g h
  others : OthersSame g.id s t
  device : DeviceSame s t

/-! ### Results -/

/-- The run of `n` registers from `d` has taken `f l` in each lane `l` of `ls`, low word first, and no
other register word or predicate has changed. -/
structure Wrote (g h : Group) (n : Nat) (d : Reg) (ls : List Nat) (f : Nat → DWord) : Prop where
  value : ∀ l ∈ ls, ∀ k, k < n → h.reg (d.code + k) l = (f l).extractLsb' (32 * k) 32
  rest : ∀ c l, l < 32 → (c < d.code ∨ d.code + n ≤ c ∨ (c < 192 ∧ l ∉ ls) ∨ ls = []) →
    h.reg c l = g.reg c l

/-- Predicates are as before. -/
structure PredsSame (g h : Group) : Prop where
  p : ∀ k, h.pred k = g.pred k
  q : ∀ k, h.qpred k = g.qpred k

/-- Every register word is as before. -/
def RegsSame (g h : Group) : Prop := ∀ c l, h.reg c l = g.reg c l

/-- Lanes `ls` of predicate `d` have taken `f`; p7 reads true whatever is written (R103). -/
structure WrotePred (g h : Group) (d : Fin 8) (ls : List Nat) (f : Nat → Bool) : Prop where
  value : ∀ l ∈ ls, (h.pred d.val).getLsbD l = (d.val == 7 || f l)
  lanes : ∀ l, l < 32 → l ∉ ls → (h.pred d.val).getLsbD l = (g.pred d.val).getLsbD l
  rest : ∀ k, k ≠ d.val → h.pred k = g.pred k
  q : ∀ k, h.qpred k = g.qpred k

/-- Group predicate `d` has taken `b`; q7 reads true whatever is written (R103). -/
structure WroteQ (g h : Group) (d : Fin 8) (b : Bool) : Prop where
  value : h.qpred d.val = (d.val == 7 || b)
  rest : ∀ k, k ≠ d.val → h.qpred k = g.qpred k
  p : ∀ k, h.pred k = g.pred k

/-! ### What an instruction of a shape does when it is ready -/

/-- Instruction `i` writes `f l` to the run of `n` registers from `d` in each lane of `ls`, and the path goes
on at the next instruction; nothing else of the group's registers or of the device changes. -/
def LaneResult (i : Instr) (s : State) (g : Group) (p : Path) (n : Nat) (d : Reg) (ls : List Nat)
    (f : Nat → DWord) : Prop :=
  ∃ t h, exec i s = .next t ∧ Retired s t g h p (p.following i) p.stack ∧ Wrote g h n d ls f ∧ PredsSame g h

/-- Instruction `i` writes lanes `ls` of predicate `d`, or for `wide` the group predicate `d` when `ls` is
not empty. -/
def PredResult (i : Instr) (s : State) (g : Group) (p : Path) (wide : Bool) (d : Fin 8) (ls : List Nat)
    (f : Nat → Bool) : Prop :=
  ∃ t h, exec i s = .next t ∧ Retired s t g h p (p.following i) p.stack ∧ RegsSame g h ∧
    (if wide then (if ls = [] then PredsSame g h else WroteQ g h d (f 0)) else WrotePred g h d ls f)

/-- Instruction `i` changes no register, predicate or special register, and the path goes on at `pc` with
return stack `stack`. -/
def MovesTo (i : Instr) (s : State) (g : Group) (p : Path) (pc : DWord) (stack : List DWord) : Prop :=
  ∃ t h, exec i s = .next t ∧ Retired s t g h p pc stack ∧ FileSame g h

/-- The doublewords `ws` stand from `key` on, each low byte first (R3), and every other byte of storage is as
before. -/
def WroteWords (s t : State) (key : Nat) (ws : List Nat) : Prop :=
  ∀ a, t.byte a = if key ≤ a ∧ a < key + 8 * ws.length
    then BitVec.ofNat 8 (ws.getD ((a - key) / 8) 0 / 256 ^ ((a - key) % 8)) else s.byte a

/-- Instruction `i` is a call: the path goes on at `pc` with the address after `i` on its return stack, whose
addresses below the top eight stand in the path's return-stack area (R147, R149). -/
def CallsTo (i : Instr) (s : State) (g : Group) (p : Path) (pc : DWord) : Prop :=
  ∃ t h, exec i s = .next t ∧ Retired s { t with mem := s.mem } g h p pc (p.following i :: p.stack) ∧ FileSame g h ∧
    WroteWords s t (s.deepKey g p) { p with stack := p.following i :: p.stack }.deep

/-- Every byte of storage is as before but those of the arrival words of the group's crew, and of the cells whose
interrupts it has requested (R209, R338, R341). -/
def WordsKept (s t : State) (g : Group) : Prop :=
  (∀ c, s.crew? g.kid g.crew = some c → c.image = none) →
  ∀ a, (∀ c, s.crew? g.kid g.crew = some c → ∀ u k, k < s.teamSize g.kid →
      a < c.wordKey u k ∨ c.wordKey u k + 4 ≤ a) →
    (∀ r ∈ g.intReq, a < r.key ∨ r.key + 32 ≤ a) → t.byte a = s.byte a

/-- Instruction `i` of path `p` ends the threads of lanes `m`: their reservations are gone, the group goes on with
its other lanes, those of `p` after `i`, and it drains when none is left (R152). -/
def EndsLanes (i : Instr) (s : State) (g : Group) (p : Path) (m : Mask) : Prop :=
  ∃ t h, exec i s = .next t ∧ t.group? g.id = some h ∧ h.live = g.live &&& ~~~m ∧
    (h.live = 0 → h.phase = .draining) ∧ (h.live ≠ 0 → h.phase = .live ∧ SpecialSame { g with tokW := h.tokW } h) ∧
    (∀ q ∈ h.paths, q.mask ≠ 0) ∧
    (p.mask &&& ~~~m ≠ 0 → ∃ q, h.path? p.id = some q ∧ { p with mask := p.mask &&& ~~~m }.MovedTo q (p.following i) p.stack) ∧
    (∀ k x, k ≠ p.id → g.path? k = some x → x.mask &&& ~~~m ≠ 0 → ∃ y, h.path? k = some y ∧ y.pc = x.pc ∧
      y.mask = x.mask &&& ~~~m ∧ y.stack = x.stack ∧ y.place = x.place) ∧
    (∀ q ∈ h.paths, ∃ x ∈ g.paths, x.id = q.id) ∧
    (∀ l ∈ lanesOf m, ∀ x, g.thread? l = some x → ∀ r ∈ t.resv, r.owner ≠ .thread g.ctx x.wid) ∧
    FileSame g h ∧ OthersSame g.id s t ∧ WordsKept s t g

/-- The lanes of a group-wide instruction: one, lane 0, when its guard holds (R132). -/
def Group.onceLanes (g : Group) (gd : Guard) : List Nat := if g.guard gd then [0] else []

/-! ### Storage and operations -/

/-- The `n` bytes from `key` on have taken `v`, low byte first (R3), and every other byte of storage is as
before. -/
def WroteBytes (s t : State) (key n v : Nat) : Prop :=
  ∀ a, t.byte a = if key ≤ a ∧ a < key + n then BitVec.ofNat 8 (v / 256 ^ (a - key)) else s.byte a

/-- Every byte of storage is as before. -/
def BytesSame (s t : State) : Prop := ∀ a, t.byte a = s.byte a

/-- Numbers of operations in flight are below the next one. -/
def State.Numbered (s : State) : Prop := ∀ o ∈ s.ops, o.id < s.nextId

/-- A path that has joined the fragment queue is kept: its deep return addresses in its area, and of a spilled
fragment the record (R147, R301, R305). Every other byte of storage is as before. -/
def FragKept (s t : State) (g : Group) (q : Path) : Prop :=
  (∀ a, s.deepKey g q ≤ a → a < s.deepKey g q + 8 * q.deep.length →
    t.byte a = BitVec.ofNat 8 (q.deep.getD ((a - s.deepKey g q) / 8) 0 / 256 ^ ((a - s.deepKey g q) % 8))) ∧
  ((∃ r, q.place = .queued r true) → ∀ a, s.recordKey g q ≤ a → a < s.recordKey g q + 64 →
    t.byte a = BitVec.ofNat 8 ((g.fragWords q).getD ((a - s.recordKey g q) / 8) 0 / 256 ^ ((a - s.recordKey g q) % 8))) ∧
  (∀ a, (a < s.deepKey g q ∨ s.deepKey g q + 8 * q.deep.length ≤ a) →
    ((∀ r, q.place ≠ .queued r true) ∨ a < s.recordKey g q ∨ s.recordKey g q + 64 ≤ a) → t.byte a = s.byte a)

/-- Storage is as before but for what a path that has left its slot for the fragment queue keeps there. -/
def MemKept (s t : State) (g : Group) (p q : Path) : Prop :=
  (q.place = p.place ∧ t.mem = s.mem) ∨ ((∃ r spilled, q.place = .queued r spilled) ∧ FragKept s t g q)

/-- The checks of an access pass with pieces `ps`, its window accesses wait for no store of the group, every path
counter has room (R70), and no window of R311 holds the request. -/
structure Granted (s : State) (g : Group) (p : Path) (w : Want) (consume : Bool) (ls : List (Nat × Loc))
    (ps : List (Nat × Piece)) : Prop where
  access : s.begun.access g p w consume ls = .ok ps
  room : ∀ k, g.count k < 63
  window : s.cong.mode ≠ 1
  /-- The walker serves the window accesses among them (R73, R90). -/
  served : s.begun.windowHeld g p w ls = false

/-- Instruction `i` retires and leaves one operation in flight, with `parts` still to be performed, counted
on `paths` (R70). Registers, special registers and storage are as before. -/
def Starts (i : Instr) (s : State) (g : Group) (p : Path) (kind : OpKind) (parts : List Part)
    (paths : List Nat) : Prop :=
  ∃ t h o, exec i s = .next t ∧ t.group? g.id = some h ∧ t.ops = s.ops ++ [o] ∧ o.gid = g.id ∧ o.id = s.nextId ∧
    o.kind = kind ∧ o.parts = parts ∧ o.paths = paths ∧
    h.flights = g.flights ++ paths.map (fun k => { path := k, op := o.id, done := false }) ∧
    Went g h p (p.following i) p.stack ∧ FileSame g h ∧ SpecialSame { g with flights := h.flights } h ∧
    OthersSame g.id s t ∧ t.mem = s.mem

/-- Path `p` of group `g` waits in `k` at its instruction: nothing of the instruction has happened. It may have
given up its slot for a fragment that is ready (R302). -/
def WaitsIn (i : Instr) (s : State) (g : Group) (p : Path) (k : Park) : Prop :=
  ∃ t h q, exec i s = .next t ∧ t.group? g.id = some h ∧ h.path? p.id = some q ∧ q.park = some k ∧ q.pc = p.pc ∧
    q.mask = p.mask ∧ q.stack = p.stack ∧ FileSame g h ∧ SpecialSame g h ∧ OthersSame g.id s t ∧ MemKept s t g p q ∧
    t.ops = s.ops

/-- What instruction `i` answers when the checks of its accesses do not pass: the code that stands first in the trap
list, with its lane, the counter path of that lane as DETAIL and its address, unless the page is the host's to
provide; a wait for the walks of pages that no cached leaf covers, or for the host; and for window accesses that the
walker does not serve yet a hold with stall reason 15. -/
structure Refused (i : Instr) (s : State) (g : Group) (p : Path) (w : Want) (consume : Bool) (ls : List (Nat × Loc))
    (path : Nat → Nat) : Prop where
  held : s.begun.windowHeld g p w ls = true →
    exec i s = .next (s.begun.modGroup g.id (fun g => g.hold s.clock p.id 15 false))
  trap : ∀ c lane va, s.begun.windowHeld g p w ls = false → s.begun.access g p w consume ls = .trap c lane va →
    (c = .pageFault → s.faultWait g p = false) → ls ≠ [] →
    exec i s = .next ((s.opened i g p).trap g (p.faults c lane (path lane) va))
  host : ∀ lane va, s.begun.windowHeld g p w ls = false → s.begun.access g p w consume ls = .trap .pageFault lane va →
    s.faultWait g p = true → ls ≠ [] →
    let fs := p.failed.filter (fun f => !f.2.2)
    WaitsIn i s g p (.hostFault (fs.map (fun f => (f.1, f.2.1, w.kind.kindNum))) (fs.map (·.1)) s.time)
  walk : ∀ pages, s.begun.windowHeld g p w ls = false → s.begun.access g p w consume ls = .wait pages → ls ≠ [] →
    WaitsIn i s g p (.walk pages)

/-- Instruction `i` writes the dirty words of private lines back in one operation on path 1, after those of their
bytes that the core had already in flight, and cleans or drops the lines. Registers are as before. -/
def LinesBack (i : Instr) (s : State) (g : Group) (p : Path) (gd : Guard) (lines : List L1Line) (drop : Bool) :
    Prop :=
  let parts := lines.flatMap (fun l => l.dirtyParts (fun _ => g.owner false (lowLane (g.active p gd))) l.dirty
    (s.slice l.line))
  let u := lines.foldl (fun (u : State) l => u.pullBacks l.cluster l.core l.line 128) s
  ∃ t h, exec i s = .next t ∧ t.group? g.id = some h ∧ Went g h p (p.following i) p.stack ∧ FileSame g h ∧
    t.mem = u.mem ∧ (parts = [] → t.ops = u.ops) ∧
    (parts ≠ [] → ∃ o, t.ops = u.ops ++ [o] ∧ o.kind = .writeback ∧ o.parts = parts ∧ o.paths = [1] ∧
      h.flights = g.flights ++ [{ path := 1, op := o.id, done := false }]) ∧
    (∀ l ∈ lines, if drop then t.l1? l.cluster l.core l.line = none
      else ∃ y, t.l1? l.cluster l.core l.line = some y ∧ y.dirty = 0)

/-- Every piece of a store lies in private words in local memory, which no access of the group that is still to be
performed names, and the core's L1 has room for their lines (R21, R62). -/
structure PrivRoom (s : State) (g : Group) (sp : Space) (ps : List (Nat × Piece)) : Prop where
  words : ∀ x ∈ ps, x.2.inL1 sp = true ∧ s.ownPending g x.2.key x.2.size 0 = false
  lines : (s.l1.filter (fun l => l.cluster == g.id.cluster && l.core == g.id.core)).length + ps.length ≤ 1024
  clean : ∀ x ∈ ps, ∀ l, s.l1? g.id.cluster g.id.core (lineOf x.2.key) = some l → l.kind = .priv g.ctx ∨ l.dirty = 0

/-- Instruction `i` leaves its pieces in private lines of the core's L1: each that no other piece overlaps reads there
as its data. No register, path counter, operation or byte of storage changes. -/
def StoresPrivate (i : Instr) (s : State) (g : Group) (p : Path) (ps : List (Nat × Piece)) (data : Nat → Nat) : Prop :=
  ∃ t h, exec i s = .next t ∧ t.group? g.id = some h ∧ Went g h p (p.following i) p.stack ∧
    FileSame g h ∧ SpecialSame g h ∧ OthersSame g.id s t ∧ t.mem = s.mem ∧ t.ops = s.ops ∧
    ∀ x ∈ ps, (∀ y ∈ ps, y ≠ x → overlap x.2.key x.2.size y.2.key y.2.size = false) →
      ∃ l, t.l1? g.id.cluster g.id.core (lineOf x.2.key) = some l ∧ l.kind = .priv g.ctx ∧
        l.num (x.2.key % 128) x.2.size = x.2.data (data x.1)

/-- The parts of a load: bytes that L1 or the store buffer holds are taken at once (R62, R67, R82), and so
are device registers. -/
def State.loadParts (s : State) (g : Group) (sp : Space) (wide : Bool) (ps : List (Nat × Piece)) : List Part :=
  ps.map (fun x =>
    let y := s.loadPart g sp x.2 (x.2.part x.1 (g.owner wide x.1) 0 0)
    if y.via = .reg then { y with got := some (s.readSpace y.key y.size) } else y)

/-- Register word `k` of a lane whose value is `v`: extended from fewer than 32 bits as R169 says. -/
def Dest.word (d : Dest) (v k : Nat) : Word :=
  if d.regs = 1 ∧ d.width < 4 then
    (if d.sext then (BitVec.ofNat (8 * d.width) v).signExtend 32 else (BitVec.ofNat (8 * d.width) v).zeroExtend 32)
  else BitVec.ofNat 32 (v / 2 ^ (32 * k))

/-- A destination that the encodings admit: vector registers v0 to v191, or group-wide registers in one
lane's place (R101, R102), of at least a byte. -/
def Dest.ok (d : Dest) : Prop :=
  0 < d.width ∧ ((d.g = true ∧ 192 ≤ d.reg ∧ d.reg + d.regs ≤ 256) ∨ (d.g = false ∧ d.reg + d.regs ≤ 192))

/-- A part that waits for its bytes, which storage gives it now. -/
def State.readPart (s : State) (y : Part) : Part :=
  if y.got.isSome then y else { y with got := some (overlay y.size y.fwdMask y.fwd (s.read y.key y.size)) }

/-- What the two forms of `ratom` name (R405). -/
def remoteOf (x : RatomForm) : Remote where
  g := x.g
  gd := x.gd
  op := x.op
  w64 := x.w64
  d := x.d
  a := x.a
  b := x.b
  c := x.c
  e := none

def remoteOfCas (x : RatomCasForm) : Remote where
  g := x.g
  gd := x.gd
  op := .cas
  w64 := x.w64
  d := x.d
  a := x.a
  b := x.b
  c := x.c
  e := some x.e

/-- The timeline operand of `tlsig` and `tlwait` (R277). -/
def Group.timelineLoc (g : Group) (p : Path) (a : Fin 64) : Loc where
  space := .g
  a := (g.rd64 p (192 + a.val) 0).toNat
  handle := 0

/-- The request `n` has gone to its slice, and part `i` of its operation, `y`, is next and free to be served
(R77). -/
structure Served (s : State) (n : Nat) (q : Req) (o : Op) (i : Nat) (y : Part) : Prop where
  req : s.req? n = some q
  sent : q.sent = true
  op : s.op? q.op = some o
  next : q.nextPart o = some (i, y)
  free : s.partFree o y = true
  turn : o.turn i y = true

/-- The L1 of a core takes a line without writing another back: it holds fewer than 1,024 lines, and no dirty
one at that place (R21, R62). -/
def State.l1Room (s : State) (cluster core line : Nat) : Prop :=
  (s.l1.filter (fun x => x.cluster == cluster && x.core == core)).length < 1024 ∧
    ∀ l, s.l1? cluster core line = some l → l.dirty = 0

/-- Part `i` of operation `n` holds what it read. -/
def PartGot (t : State) (n i v : Nat) : Prop :=
  ∃ o z, t.op? n = some o ∧ o.parts[i]? = some z ∧ z.got = some v

/-- A cell as `cell.init` leaves it (R206). -/
def Cell.fresh (base target : Nat) (track : Bool) : Cell where
  packed := 0
  bitmap := 0
  chunkBase := base
  armCore := 0
  armSlot := 0
  fault := 0
  track := track
  arm := false
  phase := false
  arrived := 0
  target := target
  count := 0

/-- A matrix instruction of a full path may name tile `z`, which is bound and unmarked, and the reservation
table has room for it (R221, R227, R228, R240, R247). -/
structure TileReady (s : State) (g : Group) (p : Path) (gd : Guard) (z : Nat) (y : AccTile) : Prop where
  guard : g.guard gd = true
  full : p.mask = allLanes
  tile : (s.engine g.engineNum).tile? g.id z = some y
  clean : y.mark = none ∧ y.releasing = false
  room : s.tableHold g = none

/-- Instruction `i` retires and stands last in the reservation table of its engine as `op` on tile `z`; no
register, no storage and no accumulator tile has changed. -/
def EntersTable (i : Instr) (s : State) (g : Group) (p : Path) (z : Nat) (op : MatOp) : Prop :=
  ∃ t h x, exec i s = .next t ∧ t.group? g.id = some h ∧ Went g h p (p.following i) p.stack ∧ FileSame g h ∧
    SpecialSame { g with flights := h.flights } h ∧ OthersSame g.id s t ∧ t.mem = s.mem ∧
    (t.engine g.engineNum).entries = (s.engine g.engineNum).entries ++ [x] ∧ x.gid = g.id ∧ x.z = z ∧ x.op = op ∧
    x.clock = s.clock ∧ (t.engine g.engineNum).tiles = (s.engine g.engineNum).tiles

/-- The entry `x` of engine `n`, which holds product `m`, has the metadata of its current step: the state and the
product from which a pass goes on. A sparse product pops its queue's next entry when it comes to a step, and what it
names of A's stream lies within A's region (R235 to R237). -/
inductive Supplied (s : State) (n : Nat) (x : MatEntry) (m : Mma) : State → Mma → Prop where
  | dense (h : m.sparse = none) : Supplied s n x m s m
  | held (q : Nat) (h : m.sparse = some q) (at' : m.step < m.popped.length) : Supplied s n x m s m
  | popped (q w : Nat) (rest : List Nat) (g : Group) (h : m.sparse = some q) (at' : m.popped.length = m.step)
      (clean : ((s.engine n).queue x.kid q).poisoned = false) (queue : ((s.engine n).queue x.kid q).entries = w :: rest)
      (plain : w.testBit 31 = false) (form : entryBad w = false) (group : s.group? x.gid = some g)
      (fits : m.stream + { m with popped := m.popped ++ [w] }.streamBytes ≤ s.srcLimit g m.a.region m.a.tile) :
      Supplied s n x m (s.setEngine n ((s.engine n).setQueue { kid := x.kid, q := q, entries := rest, poisoned := false }))
        { m with popped := m.popped ++ [w] }

/-- The entry `x` of engine `n` has taken the pass of product `m` after which the blocks `rest` of its step are left:
it goes on with the first of them, or with the next step, and its engine grants no pass before this one has ended. No
accumulator tile, storage byte or group has changed (R222, R223, R235, R245). -/
structure PassTaken (s t : State) (n : Nat) (x : MatEntry) (m : Mma) (rest : List Nat) : Prop where
  entry : ∃ y ∈ (t.engine n).entries, y.id = x.id ∧ y.ends = s.clock + m.passClocks ∧ y.op = .mma { m with
    block := rest.headD 0
    step := if rest.isEmpty then m.step + 1 else m.step
    stream := if rest.isEmpty then m.stream + m.streamBytes else m.stream }
  last : (t.engine n).last = s.clock + m.passClocks
  tiles : (t.engine n).tiles = (s.engine n).tiles
  metas : (t.engine n).metas = (s.engine n).metas
  mem : t.mem = s.mem
  groups : t.groups = s.groups

/-- The entry `x` of engine `n` is abandoned with code `c`: it leaves the table, and its tile holds the mark. It has
made no consuming decrement (R240). -/
structure Abandoned (s t : State) (n : Nat) (x : MatEntry) (c : Code) : Prop where
  entries : ∀ y ∈ (t.engine n).entries, y.id ≠ x.id
  mark : ∀ y, (s.engine n).tile? x.gid x.z = some y →
    (t.engine n).tile? x.gid x.z = some { y with mark := some (c, x.pc, x.wid) }
  crews : t.crews = s.crews
  mem : t.mem = s.mem
  groups : t.groups = s.groups

/-- A group-wide operand of a block compress (R217). -/
def Group.packRegion (g : Group) (p : Path) (r : Fin 64) (sp : Space) : Region where
  space := sp
  base := if sp = .g then (g.rd64 p (192 + r.val) 0).toNat else (g.rdS p r).toNat
  team := g.cTeam true 0

/-- Instruction `i` takes tile `k` of a pool, partition `x` of crew `c`: the tile is HELD with `n` reads owed, its
handle is in `d`, and every other tile is as before (R352, R353, R359). -/
def TakesTile (i : Instr) (s : State) (g : Group) (p : Path) (pool : Nat) (d : Fin 64) (n k : Nat) (c : Crew)
    (x : Partition) : Prop :=
  ∃ t h c' x', exec i s = .next t ∧ t.group? g.id = some h ∧ Went g h p (p.following i) p.stack ∧
    (∀ r l, l < 32 → h.reg r l = if r = 192 + d.val then handleOf (x.tile k).gen pool k else g.reg r l) ∧
    PredsSame g h ∧ SpecialSame g h ∧ t.mem = s.mem ∧
    t.crew? g.kid g.crew = some c' ∧ c'.part? pool = some x' ∧ x'.heldn = x.heldn + 1 ∧
    (x'.tile k).st = .held ∧ (x'.tile k).count = n ∧ (x'.tile k).gen = (x.tile k).gen ∧
    (∀ j, j ≠ k → x'.tile j = x.tile j) ∧ (∀ j, j ≠ pool → c'.part? j = c.part? j)

/-! ### Traps -/

/-- The trap that a group records: code, lane, KIND, SPACE and DETAIL in TRAPINFO with the PCW of `pc`
(R259). -/
def infoWord (g : Group) (code lane kind space detail : Nat) (pc : DWord) : DWord :=
  BitVec.ofNat 64 (trapInfo code lane kind space detail (g.pcw pc))

/-- Storage is in its canonical form, and so is every register and predicate map of a group. -/
def Group.canonical (g : Group) : Bool :=
  SMap.wf 0 g.v && SMap.wf 0 g.s && SMap.wf 0 g.p && SMap.wf 0 g.tokE && SMap.wf 0 g.tokW

end Sys2Proof.Machine
end

