-- ==== Sys2Proof/Certificates/Slice0/Obligations.lean ====
section
/-! DEFINITION. The statements about the machine. -/

open Sys2Proof Sys2Proof.Machine

/-! ### Lane-wise and group-wide results -/

/-- R173 and R178: two-source integer and logic instructions, their result in every acting lane, low w bits
of the exact value or the clamped value of R174, extended as R169 says. -/
def Obligations.IntegerResults : Prop :=
  ∀ e ∈ ([(Instr.add, fun f a b => f.ty.fitSat f.sat (f.ty.val a + f.ty.val b)),
      (Instr.sub, fun f a b => f.ty.fitSat f.sat (f.ty.val a - f.ty.val b)),
      (Instr.mul, fun f a b => f.ty.fit (f.ty.val a * f.ty.val b)),
      (Instr.mulhi, fun f a b => f.ty.fit (f.ty.val a * f.ty.val b / 2 ^ f.ty.width)),
      (Instr.min, fun f a b => f.ty.fit (if f.ty.val a ≤ f.ty.val b then f.ty.val a else f.ty.val b)),
      (Instr.max, fun f a b => f.ty.fit (if f.ty.val a ≤ f.ty.val b then f.ty.val b else f.ty.val a)),
      (Instr.and, fun f a b => f.ty.fit (a &&& b).toNat),
      (Instr.or, fun f a b => f.ty.fit (a ||| b).toNat),
      (Instr.xor, fun f a b => f.ty.fit (a ^^^ b).toNat),
      (Instr.andn, fun f a b => f.ty.fit (a &&& ~~~b).toNat)] :
      List ((AluForm → Instr) × (AluForm → DWord → DWord → DWord))),
    ∀ f s g p, Ready s (e.1 f) g p →
      LaneResult (e.1 f) s g p f.ty.regs f.d (g.acting p f.g f.gd) (fun l =>
        e.2 f (g.rdN p f.ty.regs f.a l) (g.src p f.ty.regs f.b f.ty.imm l))
/-- R179 and R180: shifts, rotation and field extraction; their second source is one 32-bit register or an
immediate taken as it stands.
R173, R178, R180 and R181: one-source integer instructions, and the three-source `mad` and `bfi`. -/
def Obligations.ShiftUnaryAndTernaryResults : Prop :=
  (∀ e ∈ ([(Instr.shl, fun t a b => if b.toNat % 256 ≥ t.width then 0 else t.fit (t.bits a * 2 ^ (b.toNat % 256) : Nat)),
       (Instr.shr, fun t a b => if b.toNat % 256 ≥ t.width then 0 else t.fit (t.bits a / 2 ^ (b.toNat % 256) : Nat)),
       (Instr.sar, fun t a b => t.fit (t.val a / 2 ^ (if b.toNat % 256 ≥ t.width then t.width else b.toNat % 256))),
       (Instr.rot, fun t a b => t.fit (t.bits a * 2 ^ (b.toNat % 256 % t.width) +
         t.bits a / 2 ^ (t.width - b.toNat % 256 % t.width) : Nat)),
       (Instr.bfe, fun t a b => laneBfe t a b)] :
       List ((AluForm → Instr) × (IType → DWord → DWord → DWord))),
     ∀ f s g p, Ready s (e.1 f) g p →
       LaneResult (e.1 f) s g p f.ty.regs f.d (g.acting p f.g f.gd) (fun l =>
         e.2 f.ty (g.rdN p f.ty.regs f.a l) (g.src p 1 f.b rawImm l))) ∧
  ((∀ e ∈ ([(Instr.abs, fun f a => f.ty.fitSat f.sat (f.ty.val a).natAbs),
       (Instr.neg, fun f a => f.ty.fitSat f.sat (-f.ty.val a)),
       (Instr.not, fun f a => f.ty.fit (~~~a).toNat),
       (Instr.bcnt, fun f a => BitVec.ofNat 64 (popCount (f.ty.bits a) f.ty.width)),
       (Instr.clz, fun f a => BitVec.ofNat 64 (f.ty.width - bitLen (f.ty.bits a))),
       (Instr.brev, fun f a => f.ty.fit (revBits (f.ty.bits a) f.ty.width : Nat))] :
       List ((UnForm → Instr) × (UnForm → DWord → DWord))),
     ∀ f s g p, Ready s (e.1 f) g p →
       LaneResult (e.1 f) s g p f.ty.regs f.d (g.acting p f.g f.gd) (fun l => e.2 f (g.rdN p f.ty.regs f.a l))) ∧
   (∀ f s g p, Ready s (.mad f) g p →
     LaneResult (.mad f) s g p f.ty.regs f.d (g.acting p f.g f.gd) (fun l =>
       f.ty.fitSat f.sat (f.ty.val (g.rdN p f.ty.regs f.a l) * f.ty.val (g.rdN p f.ty.regs f.b l) +
         f.ty.val (g.src p f.ty.regs f.c f.ty.imm l)))) ∧
   (∀ f s g p, Ready s (.bfi f) g p →
     LaneResult (.bfi f) s g p f.ty.regs f.d (g.acting p f.g f.gd) (fun l =>
       laneBfi f.ty (g.rdN p f.ty.regs f.a l) (g.rdN p f.ty.regs f.b l) (g.src p 1 f.c rawImm l))))

/-- R176 and R103: `addc` and `subc` write the sum or difference with the carry that they read, and the
predicate that they read takes the carry or borrow out; p7 and q7 still read true. -/
def Obligations.CarryResults : Prop :=
  ∀ e ∈ ([(Instr.addc, fun t a b c => t.val a + t.val b + (if c then 1 else 0), fun t r => decide (r ≥ 2 ^ t.width)),
      (Instr.subc, fun t a b c => t.val a - t.val b - (if c then 1 else 0), fun _ r => decide (r < 0))] :
      List ((CarryForm → Instr) × (IType → DWord → DWord → Bool → Int) × (IType → Int → Bool))),
    ∀ f s g p, Ready s (e.1 f) g p →
      let r := fun l => e.2.1 f.ty (g.rdN p f.ty.regs f.a l) (g.rdN p f.ty.regs f.b l) (g.predIn f.g f.c l)
      let ls := g.acting p f.g f.gd
      ∃ t h, exec (e.1 f) s = .next t ∧ Retired s t g h p (p.following (e.1 f)) p.stack ∧
        Wrote g h f.ty.regs f.d ls (fun l => f.ty.fit (r l)) ∧
        (if f.g then (if ls = [] then PredsSame g h else WroteQ g h f.c (e.2.2 f.ty (r 0)))
          else WrotePred g h f.c ls (fun l => e.2.2 f.ty (r l)))
/-- R177 and R185: comparisons write the predicate of each acting lane, or the group predicate, and no
register; a comparison with a NaN is false but for `.ne` and `.un`. -/
def Obligations.ComparisonResults : Prop :=
  (∀ f s g p, Ready s (.cmp f) g p →
    PredResult (.cmp f) s g p f.g f.d (g.acting p f.g f.gd) (fun l =>
      let x := f.ty.val (g.rdN p f.ty.regs f.a l)
      let y := f.ty.val (g.src p f.ty.regs f.b f.ty.imm l)
      match f.cond with
      | .eq => decide (x = y)
      | .ne => decide (x ≠ y)
      | .lt => decide (x < y)
      | .le => decide (x ≤ y)
      | .gt => decide (y < x)
      | .ge => decide (y ≤ x))) ∧
  (∀ f s g p, Ready s (.fcmp f) g p →
    PredResult (.fcmp f) s g p false f.d (g.acting p false f.gd) (fun l =>
      let o := (f.fmt.fmt.decode (g.rdN p 1 f.a l).toNat).cmp (f.fmt.fmt.decode (g.src p 1 f.b rawImm l).toNat)
      match f.cond with
      | .eq => o == some .eq
      | .ne => o != some .eq
      | .lt => o == some .lt
      | .le => o == some .lt || o == some .eq
      | .gt => o == some .gt
      | .ge => o == some .gt || o == some .eq
      | .un => o.isNone
      | .ord => o.isSome))
/-- R175, R193 and R194: `div`, `rem`, `lred`, `lscan` and `topk`; division by zero gives all ones and the
dividend, and a reduction combines the active lanes alone. -/
def Obligations.LongLatencyResults : Prop :=
  (∀ f s g p, Ready s (.div f) g p →
    LaneResult (.div f) s g p f.ty.regs f.d (g.acting p false f.gd) (fun l =>
      let a := f.ty.val (g.rdN p f.ty.regs f.a l)
      let b := f.ty.val (g.src p f.ty.regs f.b f.ty.imm l)
      f.ty.fit (if b = 0 then -1 else a.tdiv b))) ∧
  (∀ f s g p, Ready s (.rem f) g p →
    LaneResult (.rem f) s g p f.ty.regs f.d (g.acting p false f.gd) (fun l =>
      let a := f.ty.val (g.rdN p f.ty.regs f.a l)
      let b := f.ty.val (g.src p f.ty.regs f.b f.ty.imm l)
      f.ty.fit (if b = 0 then a else a.tmod b))) ∧
  (∀ f s g p, Ready s (.lred f) g p →
    LaneResult (.lred f) s g p f.ty.regs f.d (g.acting p false f.gd) (fun _ =>
      redCombine f.ty f.op ((lanesOf (g.active p f.gd)).map (g.rdN p f.ty.regs f.a)))) ∧
  (∀ f s g p, Ready s (.lscan f) g p →
    LaneResult (.lscan f) s g p f.ty.regs f.d (g.acting p false f.gd) (fun l =>
      redCombine f.ty f.op (((lanesOf (g.active p f.gd)).filter
        (fun m => if f.excl then decide (m < l) else decide (m ≤ l))).map (g.rdN p f.ty.regs f.a)))) ∧
  (∀ f s g p, Ready s (.topk f) g p →
    LaneResult (.topk f) s g p 1 f.d (g.acting p false f.gd) (fun l =>
      topkLane f.ty f.min f.rank f.k.val (lanesOf (g.active p f.gd)) (g.rdN p f.ty.regs f.a) l))
/-- R182 to R184, R186 and R187: floating instructions, each element decoded, computed exactly and
rounded once to nearest even; `fabs` and `fneg` change the sign bit alone. -/
def Obligations.FloatingResults : Prop :=
  (∀ e ∈ ([(Instr.fadd, Fmt.addCodes), (Instr.fsub, Fmt.subCodes), (Instr.fmul, Fmt.mulCodes),
      (Instr.fmin, Fmt.minCodes), (Instr.fmax, Fmt.maxCodes)] : List ((FAluForm → Instr) × (Fmt → Nat → Nat → Nat))),
    ∀ f s g p, Ready s (e.1 f) g p →
      LaneResult (e.1 f) s g p 1 f.d (g.acting p false f.gd) (fun l =>
        f.fmt.map2 (e.2 f.fmt.fmt) (g.rdN p 1 f.a l) (g.src p 1 f.b rawImm l))) ∧
  (∀ f s g p, Ready s (.fma f) g p →
    LaneResult (.fma f) s g p 1 f.d (g.acting p false f.gd) (fun l =>
      f.fmt.map3 (fun a b c => f.fmt.fmt.rne false
        (((f.fmt.fmt.decode a).mul (f.fmt.fmt.decode b)).add (f.fmt.fmt.decode c)))
        (g.rdN p 1 f.a l) (g.rdN p 1 f.b l) (g.src p 1 f.c rawImm l))) ∧
  (∀ e ∈ ([(Instr.fabs, fun t a => a % 2 ^ (t.size - 1)), (Instr.fneg, fun t a => a ^^^ 2 ^ (t.size - 1)),
      (Instr.fclass, Fmt.classMask)] : List ((FUnForm → Instr) × (Fmt → Nat → Nat))),
    ∀ f s g p, Ready s (e.1 f) g p →
      LaneResult (e.1 f) s g p 1 f.d (g.acting p false f.gd) (fun l => f.fmt.map1 (e.2 f.fmt.fmt) (g.rdN p 1 f.a l))) ∧
  (∀ f s g p, Ready s (.dot2 f) g p →
    LaneResult (.dot2 f) s g p 1 f.d (g.acting p false f.gd) (fun l =>
      laneDot2 f.fmt (g.rdN p 1 f.a l) (g.rdN p 1 f.b l) (g.rdN p 1 f.c l)))
/-- R188: the function instructions round the exact value of each element once (the model's reading of
their accuracy, log 14). -/
def Obligations.FunctionResults : Prop :=
  ∀ e ∈ ([(Instr.rcp, FVal.rcp), (Instr.rsqrt, FVal.rsqrt), (Instr.sqrt, FVal.sqrt), (Instr.exp2, FVal.exp2),
      (Instr.log2, FVal.log2), (Instr.sinpi, FVal.sinpi), (Instr.tanh, FVal.tanh)] :
      List ((FLongForm → Instr) × (FVal → FVal))),
    ∀ f s g p, Ready s (e.1 f) g p →
      LaneResult (e.1 f) s g p 1 f.d (g.acting p false f.gd) (fun l =>
        f.fmt.map1 (fun c => f.fmt.fmt.rne false (e.2 (f.fmt.fmt.decode c))) (g.rdN p 1 f.a l))
/-- R189 to R192: conversion, byte permute, and lane exchange, which reads its source lane whether or not
that lane is active. -/
def Obligations.ConversionAndExchangeResults : Prop :=
  (∀ f s g p, Ready s (.cvt f) g p →
    LaneResult (.cvt f) s g p f.dst.regs f.d (g.acting p false f.gd) (fun l =>
      laneCvt f.dst f.src f.sat f.trunc (g.rdN p f.src.regs f.a l))) ∧
  (∀ f s g p, Ready s (.prmb f) g p →
    LaneResult (.prmb f) s g p 1 f.d (g.acting p false f.gd) (fun l =>
      lanePrmb f.b.isNone (g.rdN p 1 f.a l) (match f.b with | some b => g.rdN p 1 b l | none => 0)
        (g.src p 1 f.c rawImm l))) ∧
  (∀ f s g p, Ready s (.shfl f) g p →
    LaneResult (.shfl f) s g p (wregs f.w64) f.d (g.acting p false f.gd) (fun l =>
      let t := (g.src p 1 f.b rawImm l).toNat % 32
      g.rdN p (wregs f.w64) f.a (match f.mode with
        | .idx => t
        | .up => if t ≤ l then l - t else l
        | .down => if l + t ≤ 31 then l + t else l
        | .xor => l ^^^ t)))
/-- R159, R161 and R335: moves, selection, and the reads of state registers and of the reorder record. -/
def Obligations.MoveResults : Prop :=
  (∀ f s g p, Ready s (.mov f) g p →
    LaneResult (.mov f) s g p (wregs f.w64) f.d (g.acting p f.g f.gd) (fun l => g.rdN p (wregs f.w64) f.a l)) ∧
  (∀ f s g p, Ready s (.movi32 f) g p →
    LaneResult (.movi32 f) s g p 1 f.d (g.acting p f.g f.gd) (fun _ => f.imm.zeroExtend 64)) ∧
  (∀ f s g p, Ready s (.movi64 f) g p →
    LaneResult (.movi64 f) s g p 2 f.d (g.acting p f.g f.gd) (fun _ => f.imm)) ∧
  (∀ f s g p, Ready s (.sel f) g p →
    LaneResult (.sel f) s g p (wregs f.w64) f.d (g.acting p f.g f.gd) (fun l =>
      if g.predIn f.g f.c l then g.rdN p (wregs f.w64) f.a l else g.rdN p (wregs f.w64) f.b l)) ∧
  (∀ f s g p, Ready s (.getsr f) g p →
    LaneResult (.getsr f) s g p f.sel.regs f.d (g.acting p f.g f.gd) (fun l => s.sreg g f.sel l)) ∧
  (∀ f s g p, Ready s (.rinfo f) g p →
    LaneResult (.rinfo f) s g p 1 f.d (g.acting p f.g f.gd) (fun l => (s.rinfo g f.sel l).zeroExtend 64))
/-- R162 to R165: group predicates, votes over the lanes of the path, broadcasts, and the mask, count and
first-set instructions; each acts once, when its guard holds. -/
def Obligations.GroupWideResults : Prop :=
  (∀ gd d a s g p, Ready s (.setq gd d a) g p →
    PredResult (.setq gd d a) s g p true d (g.onceLanes gd) (fun _ => g.rdS p a != 0)) ∧
  (∀ gd d a b s g p, Ready s (.qand gd d a b) g p →
    PredResult (.qand gd d a b) s g p true d (g.onceLanes gd) (fun _ => g.qpred a.val && g.qpred b.val)) ∧
  (∀ gd d a b s g p, Ready s (.qor gd d a b) g p →
    PredResult (.qor gd d a b) s g p true d (g.onceLanes gd) (fun _ => g.qpred a.val || g.qpred b.val)) ∧
  (∀ gd d a s g p, Ready s (.qnot gd d a) g p →
    PredResult (.qnot gd d a) s g p true d (g.onceLanes gd) (fun _ => !g.qpred a.val)) ∧
  (∀ gd d b s g p, Ready s (.vote gd (.ballot d b)) g p →
    LaneResult (.vote gd (.ballot d b)) s g p 1 (.s d) (g.onceLanes gd)
      (fun _ => (p.mask &&& g.pred b.val).zeroExtend 64)) ∧
  (∀ gd d b s g p, Ready s (.vote gd (.any d b)) g p →
    PredResult (.vote gd (.any d b)) s g p true d (g.onceLanes gd) (fun _ => p.mask &&& g.pred b.val != 0)) ∧
  (∀ gd d b s g p, Ready s (.vote gd (.all d b)) g p →
    PredResult (.vote gd (.all d b)) s g p true d (g.onceLanes gd) (fun _ => p.mask &&& ~~~(g.pred b.val) == 0)) ∧
  (∀ gd d a s g p, Ready s (.vote gd (.eq d a)) g p →
    PredResult (.vote gd (.eq d a)) s g p true d (g.onceLanes gd) (fun _ =>
      (lanesOf p.mask).all (fun l => g.rd p a.val l == g.rd p a.val (lowLane p.mask)))) ∧
  (∀ gd w64 d a b s g p, Ready s (.bcast gd w64 d a b) g p →
    LaneResult (.bcast gd w64 d a b) s g p (wregs w64) (.s d) (g.onceLanes gd) (fun _ =>
      g.rdN p (wregs w64) (.v a) (match b with
        | some r => (g.rdS p r).toNat % 32
        | none => lowLane p.mask))) ∧
  (∀ gd w64 d a l s g p, Ready s (.bcastImm gd w64 d a l) g p →
    LaneResult (.bcastImm gd w64 d a l) s g p (wregs w64) (.s d) (g.onceLanes gd) (fun _ =>
      g.rdN p (wregs w64) (.v a) l.val)) ∧
  (∀ gd d s g p, Ready s (.actm gd d) g p →
    LaneResult (.actm gd d) s g p 1 (.s d) (g.onceLanes gd) (fun _ => p.mask.zeroExtend 64)) ∧
  (∀ gd d a s g p, Ready s (.popc gd d a) g p →
    LaneResult (.popc gd d a) s g p 1 (.s d) (g.onceLanes gd) (fun _ =>
      BitVec.ofNat 64 (lanesOf (g.rdS p a)).length)) ∧
  (∀ gd d a s g p, Ready s (.ffs gd d a) g p →
    LaneResult (.ffs gd d a) s g p 1 (.s d) (g.onceLanes gd) (fun _ =>
      BitVec.ofNat 64 (((lanesOf (g.rdS p a)).head?).getD 32)))
/-! ### Control -/

/-- R148 and R149: transfers. With a true guard the whole path goes to the target, `call` pushing the address
after itself and `ret` popping one; with a false guard it falls through, a form that names a register pair whatever
the pair holds. A `ret` with an empty return stack ends every lane of its path as `exit` does, where no token is
pending and no mark is left to raise.
R147: a `call` keeps the return addresses below the top eight in the path's return-stack area, and changes
no other byte.
R126, R148 and R149: a transfer to an address that is not a multiple of 4 raises MISALIGNED_TARGET at its
own address, and a `call` on a full return stack raises SPACE_BOUNDS: the group records the trap (in the lowest lane
of the path, log 12; the order of return addresses in the area is log 9's choice). -/
def Obligations.Transfers : Prop :=
  ((∀ gd disp s g p, Ready s (.br gd disp) g p → (p.pc + disp.signExtend 64).toNat % 4 = 0 →
     MovesTo (.br gd disp) s g p (if g.guard gd then p.pc + disp.signExtend 64 else p.following (.br gd disp)) p.stack) ∧
   (∀ gd a s g p, Ready s (.jmpi gd a) g p →
     (g.guard gd = false → MovesTo (.jmpi gd a) s g p (p.following (.jmpi gd a)) p.stack) ∧
     (g.guard gd = true → (g.rd64 p (192 + a.val) 0).toNat % 4 = 0 →
       MovesTo (.jmpi gd a) s g p (g.rd64 p (192 + a.val) 0) p.stack)) ∧
   (∀ gd disp s g p, Ready s (.call gd disp) g p → (p.pc + disp.signExtend 64).toNat % 4 = 0 →
     (g.guard gd = false → MovesTo (.call gd disp) s g p (p.following (.call gd disp)) p.stack) ∧
     (g.guard gd = true → p.stack.length < 256 → CallsTo (.call gd disp) s g p (p.pc + disp.signExtend 64))) ∧
   (∀ gd a s g p, Ready s (.callReg gd a) g p →
     (g.guard gd = false → MovesTo (.callReg gd a) s g p (p.following (.callReg gd a)) p.stack) ∧
     (g.guard gd = true → (g.rd64 p (192 + a.val) 0).toNat % 4 = 0 → p.stack.length < 256 →
       CallsTo (.callReg gd a) s g p (g.rd64 p (192 + a.val) 0))) ∧
   (∀ gd s g p, Ready s (.ret gd) g p →
     (g.guard gd = false → MovesTo (.ret gd) s g p (p.following (.ret gd)) p.stack) ∧
     (∀ pc rest, g.guard gd = true → p.stack = pc :: rest → MovesTo (.ret gd) s g p pc rest) ∧
     (g.guard gd = true → p.stack = [] → g.phase = .live → g.tokE = [] → g.frame = none → s.marks g = [] →
       EndsLanes (.ret gd) s g p p.mask))) ∧
  ((∀ gd disp s g p, Ready s (.br gd disp) g p → (p.pc + disp.signExtend 64).toNat % 4 ≠ 0 →
     Traps (.br gd disp) s g p .misalignedTarget) ∧
   (∀ gd a s g p, Ready s (.jmpi gd a) g p → g.guard gd = true → (g.rd64 p (192 + a.val) 0).toNat % 4 ≠ 0 →
     Traps (.jmpi gd a) s g p .misalignedTarget) ∧
   (∀ gd disp s g p, Ready s (.call gd disp) g p →
     ((p.pc + disp.signExtend 64).toNat % 4 ≠ 0 → Traps (.call gd disp) s g p .misalignedTarget) ∧
     (g.guard gd = true → (p.pc + disp.signExtend 64).toNat % 4 = 0 → 256 ≤ p.stack.length →
       Traps (.call gd disp) s g p .spaceBounds)) ∧
   (∀ gd a s g p, Ready s (.callReg gd a) g p → g.guard gd = true →
     ((g.rd64 p (192 + a.val) 0).toNat % 4 ≠ 0 → Traps (.callReg gd a) s g p .misalignedTarget) ∧
     ((g.rd64 p (192 + a.val) 0).toNat % 4 = 0 → 256 ≤ p.stack.length → Traps (.callReg gd a) s g p .spaceBounds)))

/-- R150: a divergent branch. No lane taken: the path falls through. Every lane taken: it goes to the target.
Otherwise the token takes the path's lanes, the lanes not taken keep the path and its slot when the other
slot is free, which takes the rest; and with both slots in use the smaller part is detached as a fragment, which
joins the queue at the end of the clock (R304). A target that is not a multiple of 4 raises MISALIGNED_TARGET (R148).
R151: reconvergence. With no lanes expected the path goes on. Lanes that do not complete the token
park the path there and free its slot. The lanes that complete it leave one path, with the expected lanes,
after the instruction, in the slot of the last arrival, and the token is empty; where the return stacks of the parked
paths differ, or the path has a lane that is not expected, it raises ILLEGAL_CONVERGENCE.
R147, R301, R305: deep return addresses of a new or parked path, and the record of a spilled fragment, are kept in the
save area. The order of return addresses in an area is log 9's choice, the record number that of log 52 (DEDUCED), that
the joined path goes on after the `rcv` of the path whose arrival completes the token is log 22 (DEDUCED), and the
lane of a trap is log 12 (DEDUCED). -/
def Obligations.DivergenceAndReconvergence : Prop :=
  (∀ gd tok disp s g p, Ready s (.brd gd tok disp) g p → (p.pc + disp.signExtend 64).toNat % 4 ≠ 0 →
     Traps (.brd gd tok disp) s g p .misalignedTarget) ∧
  (∀ gd tok disp s g p, Ready s (.brd gd tok disp) g p → (p.pc + disp.signExtend 64).toNat % 4 = 0 →
     let i : Instr := .brd gd tok disp
     let tgt := p.pc + disp.signExtend 64
     let t := g.active p gd
     let n := p.mask &&& ~~~t
     (t = 0 → MovesTo i s g p (p.following i) p.stack) ∧
     (t ≠ 0 → n = 0 → MovesTo i s g p tgt p.stack) ∧
     (t ≠ 0 → n ≠ 0 → ∀ m, p.place = .slot m → g.slotPath? (otherSlot m) = none →
       ∃ u h q r, exec i s = .next u ∧ u.group? g.id = some h ∧ h.path? p.id = some q ∧ r ∈ h.paths ∧
         q.pc = p.following i ∧ q.mask = n ∧ q.place = .slot m ∧ q.stack = p.stack ∧
         r.pc = tgt ∧ r.mask = t ∧ r.place = .slot (otherSlot m) ∧ r.stack = p.stack ∧
         SMap.get 0 h.tokE tok.val = SMap.get 0 g.tokE tok.val ||| p.mask ∧
         (∀ k, k ≠ tok.val → SMap.get 0 h.tokE k = SMap.get 0 g.tokE k) ∧ FileSame g h ∧
         DeviceSame s { u with mem := s.mem } ∧ WroteWords s u (s.deepKey g r) r.deep) ∧
     (t ≠ 0 → n ≠ 0 → ∀ m, p.place = .slot m → (g.slotPath? (otherSlot m)).isSome →
       let small := if (lanesOf t).length ≤ (lanesOf n).length then t else n
       ∃ u h q r, exec i s = .next u ∧ u.group? g.id = some h ∧ h.path? p.id = some q ∧ r ∈ h.paths ∧
         q.mask = p.mask &&& ~~~small ∧ q.pc = (if small = t then p.following i else tgt) ∧ q.place = .slot m ∧
         r.mask = small ∧ r.pc = (if small = t then tgt else p.following i) ∧ r.place = .detached ∧
         r.dtime = s.time ∧ r.stack = p.stack ∧
         SMap.get 0 h.tokE tok.val = SMap.get 0 g.tokE tok.val ||| p.mask ∧ FileSame g h ∧ DeviceSame s u)) ∧
  (∀ tok s g p, Ready s (.rcv tok) g p →
     let i : Instr := .rcv tok
     let e := SMap.get 0 g.tokE tok.val
     let w := SMap.get 0 g.tokW tok.val ||| p.mask
     (e = 0 → MovesTo i s g p (p.following i) p.stack) ∧
     (e ≠ 0 → p.mask &&& ~~~e = 0 → w ≠ e →
       ∃ u h q, exec i s = .next u ∧ u.group? g.id = some h ∧ h.path? p.id = some q ∧ q.park = some (.rcv tok) ∧
         q.pc = p.pc ∧ q.mask = p.mask ∧ (∃ k spilled, q.place = .queued k spilled) ∧ q.stack = p.stack ∧
         SMap.get 0 h.tokW tok.val = w ∧ h.tokE = g.tokE ∧ FileSame g h ∧
         DeviceSame s { u with mem := s.mem } ∧ FragKept s u g q) ∧
     (e ≠ 0 → p.mask &&& ~~~e = 0 → w = e → (∀ q ∈ g.paths, q.park = some (.rcv tok) → q.stack = p.stack) →
       ∃ u h q, exec i s = .next u ∧ u.group? g.id = some h ∧ h.path? p.id = some q ∧ q.mask = e ∧
         q.pc = p.pc + 8 ∧ q.place = p.place ∧ q.stack = p.stack ∧ q.park = none ∧
         (∀ r ∈ h.paths, r.park ≠ some (.rcv tok)) ∧ SMap.get 0 h.tokE tok.val = 0 ∧ SMap.get 0 h.tokW tok.val = 0 ∧
         FileSame g h ∧ DeviceSame s u) ∧
     (e ≠ 0 → p.mask &&& ~~~e ≠ 0 → TrapsIn i s g p .illegalConvergence (lowLane (p.mask &&& ~~~e))) ∧
     (e ≠ 0 → p.mask &&& ~~~e = 0 → w = e → (∃ q ∈ g.paths, q.park = some (.rcv tok) ∧ q.stack ≠ p.stack) →
       TrapsIn i s g p .illegalConvergence (lowLane e)))

/-- R152: the active lanes of an `exit` end, and their reservations are cleared. Where no token is pending and no mark
is left to raise, the group goes on with its other lanes, those of the issuing path after the `exit` and every other
path where it stands, and drains when none is left. Registers, the other groups, and every byte of storage but the
crew's arrival words (R341) and cells whose interrupts the group had requested (R209) are as before. -/
def Obligations.ExitEndsLanes : Prop :=
  ∀ gd s g p, Ready s (.exit gd) g p → g.phase = .live → g.tokE = [] → g.frame = none → s.marks g = [] →
    EndsLanes (.exit gd) s g p (g.active p gd)
/-- R153, R154 and R259: a software trap with a handler set and no frame held vectors the quiet group: the
paths and tokens as they stand after the instruction become the frame, TRAPINFO names the trap, and one path
of every live lane runs at HANDLER.
R157: `halt` with a false guard goes on; in a context with a debugger attached it halts the group after
itself, between two instructions.
R140: where a window of another path still awaits its result, the group stops once it is written. -/
def Obligations.SoftwareTrapsAndHalts : Prop :=
  (∀ gd code s g p, ∀ e ∈ [(Instr.trap gd code, Code.userTrap), (Instr.trapBreak gd code, Code.brk)],
     Ready s e.1 g p → g.active p gd ≠ 0 → g.handler ≠ 0 → g.frame = none → s.quiet g = true →
       s.stuck g = [] → g.trapping = none →
     ∃ t h f q x, exec e.1 s = .next t ∧ t.group? g.id = some h ∧
       h.trapinfo = infoWord g e.2.num (lowLane (g.active p gd)) 0 0 code.toNat p.pc ∧
       h.frame = some f ∧ f.tokE = g.tokE ∧ f.tokW = g.tokW ∧
       f.paths.find? (fun y => y.id == p.id) = some q ∧ p.MovedTo q (p.following e.1) p.stack ∧
       h.paths = [x] ∧ x.pc = g.handler ∧ x.mask = g.live ∧ x.stack = [] ∧ x.place = .slot 0 ∧
       h.tokE = [] ∧ h.tokW = [] ∧ FileSame g h ∧ t.mem = s.mem) ∧
  (∀ gd s g p, Ready s (.halt gd) g p →
     (g.guard gd = false → MovesTo (.halt gd) s g p (p.following (.halt gd)) p.stack) ∧
     (g.guard gd = true → (s.ctx? g.ctx).any (·.debug) = true → g.windowPending = false →
       ∃ t h, exec (.halt gd) s = .next t ∧ t.group? g.id = some h ∧ h.phase = .halted ∧ h.stop = some .halt ∧
         h.before = g.phase ∧ Went g h p (p.following (.halt gd)) p.stack ∧ FileSame g h ∧ t.mem = s.mem) ∧
     (g.guard gd = true → (s.ctx? g.ctx).any (·.debug) = true →
       (∃ q ∈ g.paths, q.id ≠ p.id ∧ ∃ w ∈ q.windows, w.op.isSome = true) →
       ∃ t h, exec (.halt gd) s = .next t ∧ t.group? g.id = some h ∧ h.phase = g.phase ∧ h.stopping = some .halt ∧
         Went g h p (p.following (.halt gd)) p.stack ∧ FileSame g h ∧ t.mem = s.mem))
/-- R155 and R316: `tret` in a handler restores the frozen paths and tokens, and changes no byte of storage outside
the return-stack areas that hold their deep return addresses (R147); where the addresses stand within an area, from
its base on, is the model's choice (log 9, DESIGN CHOICE); outside a handler it raises ILLEGAL_OPCODE. -/
def Obligations.HandlerReturn : Prop :=
  (∀ s g p f, Ready s .tret g p → g.frame = some f → g.paths.length = 1 →
     (∀ k, SMap.get 0 f.tokE k = 0 ∨ SMap.get 0 f.tokW k ≠ SMap.get 0 f.tokE k) →
     ∃ t h, exec .tret s = .next t ∧ t.group? g.id = some h ∧ h.paths = f.paths ∧ h.tokE = f.tokE ∧
       h.tokW = f.tokW ∧ h.frame = none ∧ h.handler = g.handler ∧ FileSame g h ∧ DeviceSame s { t with mem := s.mem } ∧
       ∀ a, (∀ q ∈ f.paths, a < s.deepKey g q ∨ s.deepKey g q + 8 * q.deep.length ≤ a) → t.byte a = s.byte a) ∧
  (∀ s g p, Ready s .tret g p → g.frame = none →
     Traps .tret s g p .illegalOpcode)

/-- R117, R156 and R158: a safe point goes on unless a pre-emption of the context is requested, when the path
parks behind it with the live mask given, to go on there; `yield` goes on and then waits.
R125: a pad word that is zero above its length code sends the path to the next 32-byte boundary; any
other raises PAD_NONZERO. -/
def Obligations.SafePointsYieldsAndPads : Prop :=
  ((∀ s g p, Ready s .safept g p →
     (s.preempting g.ctx = false → MovesTo .safept s g p (p.following .safept) p.stack) ∧
     (s.preempting g.ctx = true → ∃ t h q, exec .safept s = .next t ∧ t.group? g.id = some h ∧
       h.path? p.id = some q ∧ q.park = some (.safept 0xFFFFFFFF) ∧ q.pc = p.following .safept ∧ q.mask = p.mask ∧ q.stack = p.stack ∧
       q.place = p.place ∧ FileSame g h ∧
       DeviceSame s t)) ∧
   (∀ m s g p, Ready s (.safeptMask m) g p →
     (s.preempting g.ctx = false → MovesTo (.safeptMask m) s g p (p.following (.safeptMask m)) p.stack) ∧
     (s.preempting g.ctx = true → ∃ t h q, exec (.safeptMask m) s = .next t ∧ t.group? g.id = some h ∧
       h.path? p.id = some q ∧ q.park = some (.safept m) ∧ q.pc = p.following (.safeptMask m) ∧ q.mask = p.mask ∧
       q.stack = p.stack ∧ q.place = p.place ∧ FileSame g h ∧ DeviceSame s t)) ∧
   (∀ gd s g p, Ready s (.yield gd) g p →
     (g.guard gd = false → MovesTo (.yield gd) s g p (p.following (.yield gd)) p.stack) ∧
     (g.guard gd = true → ∃ t h q, exec (.yield gd) s = .next t ∧ t.group? g.id = some h ∧ h.path? p.id = some q ∧
       q.pc = p.following (.yield gd) ∧ q.mask = p.mask ∧ q.stack = p.stack ∧ q.park = some (.yield (s.clock + 16)) ∧
       FileSame g h ∧ DeviceSame s t))) ∧
  (∀ w s g p, s.issuer = some (g.id, p.id) → s.group? g.id = some g → g.path? p.id = some p →
     (w = 3 → ∃ t h q, exec (.padWord w) s = .next t ∧ t.group? g.id = some h ∧ h.path? p.id = some q ∧
       q.pc = BitVec.ofNat 64 ((p.pc.toNat / 32 + 1) * 32) ∧ q.mask = p.mask ∧ q.stack = p.stack ∧
       FileSame g h ∧ DeviceSame s t ∧ OthersSame g.id s t) ∧
     (w ≠ 3 → exec (.padWord w) s = .next (s.begun.trapAt g p .padNonzero 0)))

/-- R160: `setsr` sets HANDLER from an even pair when its guard holds, and changes no other special register;
an address that is not a multiple of 4 raises MISALIGNED_TARGET. It reads the pair with its windows ended
(R139). -/
def Obligations.HandlerRegisterWrites : Prop :=
  ∀ gd a s g p, Ready s (.setsr gd a) g p →
    let v := g.rd64 { p with windows := [] } (192 + a.val) 0
    (g.guard gd = true → v.toNat % 4 = 0 →
      ∃ t h, exec (.setsr gd a) s = .next t ∧ t.group? g.id = some h ∧ h.handler = v ∧
        h.trapinfo = g.trapinfo ∧ h.tokE = g.tokE ∧ h.tokW = g.tokW ∧ h.frame = g.frame ∧
        Went g h p (p.following (.setsr gd a)) p.stack ∧ FileSame g h ∧ DeviceSame s t ∧ OthersSame g.id s t) ∧
    (g.guard gd = false → MovesTo (.setsr gd a) s g p (p.following (.setsr gd a)) p.stack) ∧
    (g.guard gd = true → v.toNat % 4 ≠ 0 →
      Traps (.setsr gd a) s g p .misalignedTarget)
/-! ### Memory: instructions -/

/-- R196, R198, R199 and R201: a load whose checks pass retires and leaves its pieces in flight on the paths
of its space (R69), with the destination they will be written to and, for a consuming load, the tiles whose
COUNT it owes; a load with no acting lane only goes on. Pieces that lie in device registers are read at issue (log 13,
DEDUCED from R65). -/
def Obligations.LoadsStart : Prop :=
  (∀ f s g p, Ready s (.ld f) g p →
    let w := ldstWant .load (f.ty.width / 8) (f.ty.width / 8) f.g
    let ls := (g.acting p f.g f.gd).map (fun l => (l, addrLoc f.addr g p f.space l))
    (ls = [] → MovesTo (.ld f) s g p (p.following (.ld f)) p.stack) ∧
    (∀ ps, ls ≠ [] → Granted s g p w f.cm ls ps →
      let ys := s.begun.loadParts g f.space f.g ps
      Starts (.ld f) s g p (.load (LdForm.dest f (maskOf (g.acting p f.g f.gd))) (if f.cm then g.tilesOf ls else [])) ys
        (if f.space = .p ∧ ys.all (fun y => y.got.isSome) then [] else pathsOf g.hdr ls false))) ∧
  (∀ f s g p, Ready s (.ldv f) g p →
    let w := ldstWant .load (4 * vRegs f.size) 16 false
    let ls := (g.acting p false f.gd).map (fun l => (l, addrLoc f.addr g p f.space l))
    (ls = [] → MovesTo (.ldv f) s g p (p.following (.ldv f)) p.stack) ∧
    (∀ ps, ls ≠ [] → Granted s g p w f.cm ls ps →
      let ys := s.begun.loadParts g f.space false ps
      Starts (.ldv f) s g p (.load (LdvForm.dest f (maskOf (g.acting p false f.gd))) (if f.cm then g.tilesOf ls else [])) ys
        (if f.space = .p ∧ ys.all (fun y => y.got.isSome) then [] else pathsOf g.hdr ls false)))
/-- R198, R201, R52 and R74: a store whose checks pass retires and leaves its pieces in flight with their
data, in lane order and within a window in rising offset, on the paths of its space.
R62: a store of one register or of a run to private words in local memory leaves its bytes in the core's L1, and
neither storage nor any path counter changes.
R65: a store to device registers, which the registers take at once while its acknowledgement is still to come
(log 13, DEDUCED). -/
def Obligations.StoresStart : Prop :=
  ((∀ f s g p ps, Ready s (.st f) g p →
     let ls := (g.acting p f.g f.gd).map (fun l => (l, addrLoc f.addr g p f.space l))
     ls ≠ [] → Granted s g p (ldstWant .store (f.ty.width / 8) (f.ty.width / 8) f.g) false ls ps → ps ≠ [] →
     (∀ x ∈ ps, x.2.via ≠ .reg ∧ x.2.inL1 f.space = false) →
     Starts (.st f) s g p .store ((sortBy (fun (x : Nat × Piece) => x.2.order) ps).map (fun x =>
       x.2.part x.1 (g.owner f.g x.1) (x.2.data (g.num p (f.ty.width == 64) f.data x.1)) 0)) (pathsOf g.hdr ls true)) ∧
   (∀ f s g p ps, Ready s (.stv f) g p →
     let ls := (g.acting p false f.gd).map (fun l => (l, addrLoc f.addr g p f.space l))
     ls ≠ [] → Granted s g p (ldstWant .store (4 * vRegs f.size) 16 false) false ls ps → ps ≠ [] →
     (∀ x ∈ ps, x.2.via ≠ .reg ∧ x.2.inL1 f.space = false) →
     Starts (.stv f) s g p .store ((sortBy (fun (x : Nat × Piece) => x.2.order) ps).map (fun x =>
       x.2.part x.1 (g.owner false x.1) (x.2.data (g.runNum p f.data (vRegs f.size) x.1)) 0)) (pathsOf g.hdr ls true))) ∧
  ((∀ f s g p ps, Ready s (.st f) g p →
     let ls := (g.acting p f.g f.gd).map (fun l => (l, addrLoc f.addr g p f.space l))
     ls ≠ [] → Granted s g p (ldstWant .store (f.ty.width / 8) (f.ty.width / 8) f.g) false ls ps →
     PrivRoom s g f.space ps → StoresPrivate (.st f) s g p ps (g.num p (f.ty.width == 64) f.data)) ∧
   (∀ f s g p ps, Ready s (.stv f) g p →
     let ls := (g.acting p false f.gd).map (fun l => (l, addrLoc f.addr g p f.space l))
     ls ≠ [] → Granted s g p (ldstWant .store (4 * vRegs f.size) 16 false) false ls ps →
     PrivRoom s g f.space ps → StoresPrivate (.stv f) s g p ps (g.runNum p f.data (vRegs f.size)))) ∧
  (∀ f s g p ps l, Ready s (.st f) g p →
     let ls := (g.acting p f.g f.gd).map (fun l => (l, addrLoc f.addr g p f.space l))
     ls.head? = some l → Granted s g p (ldstWant .store (f.ty.width / 8) (f.ty.width / 8) f.g) false ls ps → ps ≠ [] →
     (∀ x ∈ ps, x.2.via = .reg) →
     let xs := sortBy (fun (x : Nat × Piece) => x.2.order) ps
     let v := fun (x : Nat × Piece) => x.2.data (g.num p (f.ty.width == 64) f.data x.1)
     let o := (s.opened (.st f) g p).newOp g p (maskOf (g.acting p f.g f.gd)) .store (xs.map (fun x =>
       { x.2.part x.1 (g.owner f.g x.1) (v x) 0 with got := some 0 })) (pathsOf g.hdr ls true) (g.tilesOf ls)
     let u := ((s.opened (.st f) g p).recordMem g l.2 (pathOf g.hdr l.2 true) true).startOp g o (xs.map (·.2.lease)) []
     exec (.st f) s = .next ((xs.foldl (fun (u : State) x => u.writeSpace (some g.ctx) x.2.key x.2.size (v x)) u).finish
       (.st f) g p (fun q => q.next (.st f))))

/-- R196, R200, R259 and R375: a memory instruction whose checks fail in some lane records the code that stands
first in the trap list, with that lane, its path as DETAIL and its address; a page that no leaf covers sends
the path to wait for its walk, and one that the host is to provide for the host (R380). None of these has changed a
register or storage.
R73, R77 and R90 (log 65): a window access of a load or store that the group's own stores still hold back is held,
with stall reason 15, and has no effect. -/
def Obligations.AccessChecks : Prop :=
  (∀ f s g p, Ready s (.ld f) g p →
    Refused (.ld f) s g p (ldstWant .load (f.ty.width / 8) (f.ty.width / 8) f.g) f.cm
      ((g.acting p f.g f.gd).map (fun l => (l, addrLoc f.addr g p f.space l)))
      (fun l => pathOf g.hdr (addrLoc f.addr g p f.space l) false)) ∧
  (∀ f s g p, Ready s (.st f) g p →
    Refused (.st f) s g p (ldstWant .store (f.ty.width / 8) (f.ty.width / 8) f.g) false
      ((g.acting p f.g f.gd).map (fun l => (l, addrLoc f.addr g p f.space l)))
      (fun l => pathOf g.hdr (addrLoc f.addr g p f.space l) true)) ∧
  (∀ f s g p, Ready s (.ldv f) g p →
    Refused (.ldv f) s g p (ldstWant .load (4 * vRegs f.size) 16 false) f.cm
      ((g.acting p false f.gd).map (fun l => (l, addrLoc f.addr g p f.space l)))
      (fun l => pathOf g.hdr (addrLoc f.addr g p f.space l) false)) ∧
  (∀ f s g p, Ready s (.stv f) g p →
    Refused (.stv f) s g p (ldstWant .store (4 * vRegs f.size) 16 false) false
      ((g.acting p false f.gd).map (fun l => (l, addrLoc f.addr g p f.space l)))
      (fun l => pathOf g.hdr (addrLoc f.addr g p f.space l) true)) ∧
  (∀ f s g p, Ready s (.atom f) g p →
    Refused (.atom f) s g p (atomWant .atomic (if f.w64 then 8 else 4) f.g .misalignedAtomic) false
      ((g.acting p f.g f.gd).map (fun l => (l, atomLoc g p f.x f.base f.disp l))) (fun _ => if f.x then 4 else 0)) ∧
  (∀ f s g p, Ready s (.red f) g p →
    Refused (.red f) s g p (atomWant .atomic (if f.w64 then 8 else 4) f.g .misalignedAtomic) false
      ((g.acting p f.g f.gd).map (fun l => (l, atomLoc g p f.x f.base f.disp l))) (fun _ => if f.x then 4 else 1)) ∧
  (∀ f s g p, Ready s (.ldr f) g p →
    Refused (.ldr f) s g p (atomWant .load (if f.w64 then 8 else 4) f.g .misaligned) false
      ((g.acting p f.g f.gd).map (fun l => (l, atomLoc g p f.x f.base f.disp l))) (fun _ => if f.x then 4 else 0)) ∧
  (∀ f s g p, Ready s (.stc f) g p →
    Refused (.stc f) s g p (atomWant .store (if f.w64 then 8 else 4) f.g .misaligned) false
      ((g.acting p f.g f.gd).map (fun l => (l, atomLoc g p f.x f.base f.disp l))) (fun _ => if f.x then 4 else 0))
/-- R212 to R214: atomics, reductions and reservation accesses whose checks pass retire and leave each lane's
access in flight for its home, with its operand, on path 0, 1 or 4. -/
def Obligations.AtomicsStart : Prop :=
  (∀ f s g p ps, Ready s (.atom f) g p →
    let ls := (g.acting p f.g f.gd).map (fun l => (l, atomLoc g p f.x f.base f.disp l))
    ls ≠ [] → Granted s g p (atomWant .atomic (if f.w64 then 8 else 4) f.g .misalignedAtomic) false ls ps →
    Starts (.atom f) s g p
      (.atom f.op f.w64 (some (resultDest f.g f.d (wregs f.w64) (maskOf (g.acting p f.g f.gd)))))
      (ps.map (fun x => x.2.part x.1 (g.owner f.g x.1) (g.num p f.w64 f.b x.1)
        (match f.c with
          | some r => g.num p f.w64 r x.1
          | none => 0))) [if f.x then 4 else 0]) ∧
  (∀ f s g p ps, Ready s (.red f) g p →
    let ls := (g.acting p f.g f.gd).map (fun l => (l, atomLoc g p f.x f.base f.disp l))
    ls ≠ [] → Granted s g p (atomWant .atomic (if f.w64 then 8 else 4) f.g .misalignedAtomic) false ls ps →
    Starts (.red f) s g p (.atom f.op f.w64 none)
      (ps.map (fun x => x.2.part x.1 (g.owner f.g x.1) (g.num p f.w64 f.b x.1) 0)) [if f.x then 4 else 1]) ∧
  (∀ f s g p ps, Ready s (.ldr f) g p →
    let ls := (g.acting p f.g f.gd).map (fun l => (l, atomLoc g p f.x f.base f.disp l))
    ls ≠ [] → Granted s g p (atomWant .load (if f.w64 then 8 else 4) f.g .misaligned) false ls ps →
    Starts (.ldr f) s g p (.ldr (resultDest f.g f.d (wregs f.w64) (maskOf (g.acting p f.g f.gd))) f.g)
      (ps.map (fun x => x.2.part x.1 (g.owner f.g x.1) 0 0)) [if f.x then 4 else 0]) ∧
  (∀ f s g p ps, Ready s (.stc f) g p →
    let ls := (g.acting p f.g f.gd).map (fun l => (l, atomLoc g p f.x f.base f.disp l))
    ls ≠ [] → Granted s g p (atomWant .store (if f.w64 then 8 else 4) f.g .misaligned) false ls ps →
    Starts (.stc f) s g p (.stc (resultDest f.g f.d 1 (maskOf (g.acting p f.g f.gd))) f.g)
      (ps.map (fun x => x.2.part x.1 (g.owner f.g x.1) (g.num p f.w64 f.b x.1) 0)) [if f.x then 4 else 0])
/-- R210, R84 to R88: `waitc` goes on once its path's counter is at or below the threshold and until then is
held; a fence retires whatever its guard, and stays pending unless its condition already holds. -/
def Obligations.WaitsAndFences : Prop :=
  (∀ gd path thr s g p, Ready s (.waitc gd path thr) g p →
    let t := match thr with
      | .reg r => (g.rdS { p with windows := [] } r).toNat
      | .imm t => t.val
    (g.guard gd = false ∨ g.count path.val ≤ t →
      MovesTo (.waitc gd path thr) s g p (p.following (.waitc gd path thr)) p.stack) ∧
    (g.guard gd = true → t < g.count path.val →
      exec (.waitc gd path thr) s = .next (s.begun.modGroup g.id (fun g => g.hold s.clock p.id 2 true)))) ∧
  (∀ e ∈ ([(Instr.fenceRel, true, false, false), (Instr.fenceAcq, false, true, false),
      (Instr.fenceSc, true, true, true)] : List ((Guard → Scope → Instr) × Bool × Bool × Bool)),
    ∀ gd scope s g p, Ready s (e.1 gd scope) g p →
      let f : Fence := { id := s.nextId, rel := e.2.1, acq := e.2.2.1, sc := e.2.2.2, scope := scope, upTo := s.nextId }
      ∃ t h, exec (e.1 gd scope) s = .next t ∧ t.group? g.id = some h ∧ Went g h p (p.following (e.1 gd scope)) p.stack ∧
        FileSame g h ∧ SpecialSame { g with fences := h.fences } h ∧ t.mem = s.mem ∧ t.ops = s.ops ∧
        (s.fenceMet g f = true → (∀ x ∈ h.fences, x.id ≠ f.id) ∧
          h.scTime = if e.2.2.2 ∧ scope ≠ .group then some (s.time, s.nextId + 1) else g.scTime) ∧
        (s.fenceMet g f = false → h.fences = g.fences ++ [f] ∧ h.scTime = g.scTime)) ∧
  (∀ i n s g f, s.group? i = some g → g.id = i → g.fences.find? (fun x => x.id == n) = some f → s.fenceMet g f = true →
    exec (.fenceComplete i n) s = .next (s.setGroup (g.fenceDone f s.time s.nextId)) ∧
    (∀ x ∈ (g.fenceDone f s.time s.nextId).fences, x.id ≠ n))
/-- R215 and R216: outside mark mode, whose window may hold it back, a prefetch changes no register, storage or
counter and raises nothing; `flush.p` and `inval.p` with no acting lane only go on, and otherwise write the dirty
words of the lines that they name, the group's or those of an address per lane, back on path 1 and clean or drop the
lines. Their pages are checked as for a store of a word (R374). Write-backs of the core to the lines that are still in
flight land first (log 17, DEDUCED). -/
def Obligations.PrefetchAndPrivateLines : Prop :=
  (∀ gd addr s g p, Ready s (.prefetch gd addr) g p → s.cong.mode ≠ 1 →
    ∃ t h, exec (.prefetch gd addr) s = .next t ∧ t.group? g.id = some h ∧
      Went g h p (p.following (.prefetch gd addr)) p.stack ∧ FileSame g h ∧ SpecialSame g h ∧ OthersSame g.id s t ∧
      t.mem = s.mem) ∧
  (∀ e ∈ ([(Instr.flush, false), (Instr.inval, true)] : List ((Guard → LineArg → Instr) × Bool)),
    ∀ gd arg s g p, Ready s (e.1 gd arg) g p →
      (g.active p gd = 0 → MovesTo (e.1 gd arg) s g p (p.following (e.1 gd arg)) p.stack) ∧
      (∀ a, arg = .all a → g.active p gd ≠ 0 →
        (∀ c, joinLanes (s.begun.groupPages g p) = .ok c → (∀ k, g.count k < 63) → s.cong.mode ≠ 1 →
          LinesBack (e.1 gd arg) s g p gd (s.privLines g (s.groupLines g)) e.2) ∧
        (∀ c lane va, joinLanes (s.begun.groupPages g p) = .trap c lane va → (c = .pageFault → s.faultWait g p = false) →
          exec (e.1 gd arg) s = .next ((s.opened (e.1 gd arg) g p).trap g (p.faults c lane 1 va))) ∧
        (∀ pages, joinLanes (s.begun.groupPages g p) = .wait pages → WaitsIn (e.1 gd arg) s g p (.walk pages))) ∧
      (∀ a, arg = .at a →
        let ls := (lanesOf (g.active p gd)).map (fun l => (l, addrLoc a g p .p l))
        (∀ ps, ls ≠ [] → Granted s g p (atomWant .store 4 false .misaligned) false ls ps →
          LinesBack (e.1 gd arg) s g p gd (s.privLines g (ps.map (fun x => lineOf x.2.key))) e.2) ∧
        Refused (e.1 gd arg) s g p (atomWant .store 4 false .misaligned) false ls (fun _ => 1)))
/-! ### Memory: the accesses in flight -/

/-- R70, R82, R169 and R52: a delivered load writes each lane's bytes, extended, to its destination and no other
register, completes on its paths and changes no storage; of a load on several paths the accesses of one path are
delivered apart, to their lanes alone; the acknowledgement of a store to scratch SRAM writes the part's bytes and no others, and that of a part already applied at its slice writes none.
Scratch SRAM is read at delivery and written at acknowledgement, and each path of a load or store on several is
delivered or acknowledged apart (log 11, DEDUCED from R70, R77 and R89); acknowledgements of one group for the same
bytes come in the order of its accesses (log 55, DEDUCED); a full L1 writes back what has stood in it longest
(log 7). R77, R79, R80, R82,
R212, R214 and R276: a slice serves a load with the bytes of its line, changes no storage but for what a full L1
writes back, and grants a lease that its expiry record covers; applies a store's bytes and no others, with T_w
not before TIME or the record; applies an atomic to the bytes that it found; takes or tests a reservation; and
applies a timeline signal, releasing the waits that it satisfies. -/
def Obligations.AccessService : Prop :=
  ((∀ n s o g d, s.op? n = some o → o.kind = .load d [] → s.opGroup o = some g → d.ok →
     (∀ y ∈ o.parts, y.got.isSome = true ∨ (y.via = .bank ∧ y.done = false ∧ s.partFree o y = true)) →
     (∀ r ∈ s.reqs, r.op = n → r.slice < 96) →
     ∃ t h, exec (.loadDelivered (.whole n)) s = .next t ∧ t.group? g.id = some h ∧
       (∀ l ∈ d.laneList, ∀ k, k < d.regs → h.reg (d.reg + k) l = d.word (laneValue (o.parts.map s.readPart) l) k) ∧
       (∀ c l, l < 32 → (c < d.reg ∨ d.reg + d.regs ≤ c ∨ (c < 192 ∧ l ∉ d.laneList)) → h.reg c l = g.reg c l) ∧
       PredsSame g h ∧ (∀ x ∈ h.flights, x.op = n → x.path ∈ o.paths → x.done = true) ∧ t.op? n = none ∧
       t.mem = s.mem ∧ OthersSame g.id s t) ∧
   (∀ n k s o g d, s.op? n = some o → o.kind = .load d [] → s.opGroup o = some g → d.ok → 2 ≤ o.paths.length → k ∈ o.paths →
     (∀ y ∈ o.parts, y.path = k → y.got.isSome = true) → (∀ r ∈ s.reqs, r.op = n → r.slice < 96) →
     ∃ t h x, exec (.loadDelivered (.onPath n k)) s = .next t ∧ t.group? g.id = some h ∧
       (∀ l ∈ d.laneList, (∃ y ∈ o.parts, y.path = k ∧ y.lane = l) → ∀ j, j < d.regs →
         h.reg (d.reg + j) l = d.word (laneValue o.parts l) j) ∧
       (∀ c l, l < 32 → (c < d.reg ∨ d.reg + d.regs ≤ c ∨ (c < 192 ∧ ∀ y ∈ o.parts, y.path = k → y.lane ≠ l)) →
         h.reg c l = g.reg c l) ∧
       PredsSame g h ∧ (∀ f ∈ h.flights, f.op = n → f.path = k → f.done = true) ∧ t.op? n = some x ∧
       x.paths = o.paths.filter (· != k) ∧ t.mem = s.mem ∧ OthersSame g.id s t) ∧
   (∀ n k s o y, s.op? n = some o → o.kind = .store → o.parts[k]? = some y → y.done = false →
     (∀ r ∈ s.reqs, r.op = n → r.slice = 96 → k ∈ r.parts → r.back = true) →
     s.ackTurn o k y = true → (y.got = none → y.via = .bank ∧ s.partFree o y = true) →
     ∃ t, exec (.storeAck n k) s = .next t ∧
       (y.got = none → WroteBytes s t y.key y.size y.b) ∧ (y.got.isSome = true → t.mem = s.mem) ∧
       ((∃ (j : Nat) (z : Part), j ≠ k ∧ o.parts[j]? = some z ∧ z.done = false) → ∃ x, t.op? n = some x ∧
         (∃ z, x.parts[k]? = some z ∧ z.done = true) ∧ ∀ j, j ≠ k → x.parts[j]? = o.parts[j]?) ∧
       ((∀ (j : Nat) (z : Part), o.parts[j]? = some z → (j = k ∨ z.done = true) ∧ z.sysDone = true) → t.op? n = none))) ∧
  ((∀ n q s o d c, s.req? n = some q → q.sent = true → q.slice < 96 → s.op? q.op = some o → o.kind = .load d c →
     (∃ i ∈ q.parts, ∃ y, o.parts[i]? = some y ∧ y.got = none) →
     (∀ i ∈ q.parts, ∀ y, o.parts[i]? = some y → y.done = false ∧ s.partFree o y = true) →
     (q.lease = 8 → s.backsDone q.cluster q.core q.line = true) →
     ∃ t x, exec (.sliceLoad n none) s = .next t ∧ t.op? q.op = some x ∧ x.kind = o.kind ∧
       (s.l1Room q.cluster q.core q.line → t.mem = s.mem) ∧
       (∀ (i : Nat) (y : Part), o.parts[i]? = some y → ∃ z, x.parts[i]? = some z ∧
         z.got = if i ∈ q.parts then (s.readPart y).got else y.got) ∧
       (∀ ns, leaseTime q.lease = some ns → q.line < 2 ^ 49 → s.l1? q.cluster q.core q.line = none →
         (∃ l, t.l1? q.cluster q.core q.line = some l ∧ l.kind = .leased (s.time + ns) s.time ∧
           ∀ k, k < 128 → SMap.get 0 l.bytes k = s.byte (q.line + k)) ∧
         ∃ e, t.expiry.find? q.line = some e ∧ s.time + ns ≤ e)) ∧
   (∀ n q s o i y, Served s n q o i y → q.slice < 96 → (o.kind = .store ∨ o.kind = .writeback) →
     ∃ t, exec (.sliceStore n none) s = .next t ∧ WroteBytes s t y.key y.size y.b ∧ PartGot t q.op i 0 ∧
       (∃ x z, t.op? q.op = some x ∧ x.parts[i]? = some z ∧ z.tw = s.writeTime y.key ∧ s.time ≤ z.tw) ∧
       ∀ r ∈ t.resv, r ∈ s.resv ∧ (r.owner = y.who ∨ overlap y.key y.size r.key (if r.w64 then 8 else 4) = false)) ∧
   (∀ n q s o i y op w64 d, Served s n q o i y → q.slice < 96 → o.kind = .atom op w64 d →
     ∃ t, exec (.sliceAtomic n none) s = .next t ∧
       WroteBytes s t y.key y.size (op.apply w64 (s.read y.key y.size) y.b y.c) ∧
       PartGot t q.op i (s.read y.key y.size)) ∧
   (∀ n q s o i y d w, Served s n q o i y → q.slice < 96 → o.kind = .ldr d w →
     ∃ t, exec (.sliceAtomic n none) s = .next t ∧ t.mem = s.mem ∧ PartGot t q.op i (s.read y.key y.size) ∧
       { owner := y.who, key := y.key, w64 := y.size == 8, clock := s.clock } ∈ t.resv) ∧
   (∀ n q s o i y d w, Served s n q o i y → q.slice < 96 → o.kind = .stc d w →
     ∃ t, exec (.sliceAtomic n none) s = .next t ∧ (∀ r ∈ t.resv, r.owner ≠ y.who) ∧
       (s.reserved y.who y.key (y.size == 8) = true → WroteBytes s t y.key y.size y.b ∧ PartGot t q.op i 0) ∧
       (s.reserved y.who y.key (y.size == 8) = false → t.mem = s.mem ∧ PartGot t q.op i 1)) ∧
   (∀ n q s o i y set v, s.reqs.find? (fun r => r.op == n) = some q → Served s q.id q o i y → o.kind = .tlsig set v →
     ∃ t, exec (.timelineSignal n) s = .next t ∧
       WroteBytes s t y.key 8 (if set then v else Nat.max (s.read y.key 8) v) ∧
       ∀ j g k p va thr e sys dl, s.group? j = some g → g.path? k = some p →
         p.park = some (.tlwait y.key va thr e sys dl) → thr ≤ t.read y.key 8 → (∀ d, dl = some d → s.time ≤ d) →
         ∃ h r, t.group? j = some h ∧ h.path? k = some r ∧ r.park = some (.tlwait y.key va 0 e sys dl)))

/-- R19, R83, R214, R308 and R311: a token's visit sends one request of its cluster for the slice, if it has one,
and passes the token on; a completion
reply makes its parts complete at system scope; a congestion sample sets the allowance; a crossbar reply moves
the core's window as the mark that its slice echoed says; a reservation ends 4,096 clocks after its `ldr`. -/
def Obligations.NetworkSteps : Prop :=
  (∀ slice s, let c := SMap.get 0 s.token slice
    ((∀ r ∈ s.reqs, ¬(r.cluster = c ∧ r.slice = slice ∧ r.sent = false ∧ r.waiting = false)) →
      ∃ t, exec (.opticalToken slice) s = .next t ∧ SMap.get 0 t.token slice = (c + 1) % 24 ∧ t.reqs = s.reqs ∧
        t.mem = s.mem ∧ t.groups = s.groups) ∧
    (slice < 96 → (∃ r ∈ s.reqs, r.cluster = c ∧ r.slice = slice ∧ r.sent = false ∧ r.waiting = false) →
      ∃ t a r b, exec (.opticalToken slice) s = .next t ∧ SMap.get 0 t.token slice = (c + 1) % 24 ∧
        s.reqs = a ++ r :: b ∧ r.cluster = c ∧ r.slice = slice ∧ r.sent = false ∧ r.waiting = false ∧
        (∀ x ∈ a, ¬(x.cluster = c ∧ x.slice = slice ∧ x.sent = false ∧ x.waiting = false)) ∧
        t.reqs = a ++ { r with sent := true,
                               mark := s.cong.mode == 1 && decide (s.cq c slice ≥ s.cong.markat) } :: b ∧
        t.mem = s.mem ∧ t.groups = s.groups)) ∧
  (∀ n q s o, s.req? n = some q → q.slice ≥ 96 → s.op? q.op = some o →
    (∀ i ∈ q.parts, ∀ y, o.parts[i]? = some y → y.got.isSome = true) →
    (∃ (i : Nat) (y : Part), o.parts[i]? = some y ∧ y.done = false) →
    ∃ t x, exec (.completionReply n) s = .next t ∧
      t.op? q.op = some x ∧ t.mem = s.mem ∧
      ∀ (i : Nat) (y : Part), o.parts[i]? = some y → ∃ z, x.parts[i]? = some z ∧ z.sysDone = (y.sysDone || q.parts.contains i)) ∧
  (∀ cluster s, s.clock % 256 = 0 →
    let l := maxNat ((List.range 96).map (s.cq cluster))
    ∃ t, exec (.congestionSample cluster) s = .next t ∧
      pairGet 64 t.cong.allow cluster =
        (if l < 8 then 64 else if l < 16 then 32 else if l < 24 then 16 else if l < 32 then 8 else 4) ∧
      pairGet 64 t.cong.allowHost cluster = Nat.min 64 (Nat.max 4 (pairGet 64 s.cong.rate cluster)) ∧
      (∀ k, k ≠ cluster → pairGet 64 t.cong.allow k = pairGet 64 s.cong.allow k) ∧ t.groups = s.groups ∧ t.mem = s.mem) ∧
  (∀ cluster core marked s, s.cong.echo.find? (fun e => e.1 == cluster * 24 + core) = some (cluster * 24 + core, marked) →
    let k := cluster * 24 + core
    let w := pairGet 256 s.cong.win k
    ∃ t, exec (.crossbarReply cluster core marked) s = .next t ∧ t.cong.echo = s.cong.echo.erase (k, marked) ∧
      pairGet 256 t.cong.win k = (if marked = false then Nat.min 256 (w + 1)
        else if 64 ≤ pairGet 64 s.cong.replies k then Nat.max 4 (w / 2) else w) ∧
      (∀ j, j ≠ k → pairGet 256 t.cong.win j = pairGet 256 s.cong.win j) ∧ t.groups = s.groups ∧ t.mem = s.mem) ∧
  (∀ n s r, s.resv[n]? = some r → r.clock + 4096 ≤ s.clock →
    exec (.reservationExpire n) s = .next { s with resv := s.resv.eraseIdx n })
/-! ### Completion cells, copies and block compress -/

/-- R204 to R209: the cell instructions with a true guard and a good address, on the cell as the group's own
earlier accesses leave it (log 11, DEDUCED from R77 and R206): initialise, arrive, test, wait, which reads with its windows ended (R139), and arm. What is written is the cell's 32
bytes and no other byte of storage.
R154, R209 and R259: a pending completion interrupt vectors a quiet group that has a handler and holds
no frame; TRAPINFO has KIND 1, the cell's space and its offset. -/
def Obligations.CellsAndInterrupts : Prop :=
  ((∀ f s g p, Ready s (.cellInit f) g p → g.guard f.gd = true → s.cellCheck g f.k (g.rdS p f.a).toNat = none →
     0 < (g.rdS p f.b).toNat → (g.rdS p f.b).toNat ≤ 65535 →
     let r := s.cellRef g f.k (g.rdS p f.a).toNat
     let u := s.begun.pullOwn g r.key 32
     ∃ t h, exec (.cellInit f) s = .next t ∧ t.group? g.id = some h ∧ Went g h p (p.following (.cellInit f)) p.stack ∧
       FileSame g h ∧ SpecialSame { g with intReq := h.intReq, flights := h.flights, fences := h.fences } h ∧
       ∃ track, WroteBytes u t r.key 32 (Cell.fresh (g.rdS p f.c).toNat (g.rdS p f.b).toNat track).toNat) ∧
   (∀ f s g p, Ready s (.cellArrive f) g p → g.guard f.gd = true → s.cellCheck g f.k (g.rdS p f.a).toNat = none →
     let r := s.cellRef g f.k (g.rdS p f.a).toNat
     let u := s.begun.pullOwn g r.key 32
     let c := u.cell r
     ∀ n, c.addCount (g.rdS p f.b).toInt = some n → c.arrived + 1 ≤ c.target →
     ∃ t h, exec (.cellArrive f) s = .next t ∧ t.group? g.id = some h ∧
       Went g h p (p.following (.cellArrive f)) p.stack ∧ PredsSame g h ∧
       (∀ k l, l < 32 → h.reg k l = if k = 192 + f.d.val then (if c.phase then 1 else 0) else g.reg k l) ∧
       WroteBytes u t r.key 32 (Cell.toNat (if c.arrived + 1 = c.target ∧ n = 0
         then { c with count := 0, arrived := 0, phase := !c.phase, bitmap := 0, arm := false }
         else { c with count := n, arrived := c.arrived + 1 }))) ∧
   (∀ f s g p, Ready s (.cellTest f) g p → g.guard f.gd = true → s.cellCheck g f.k (g.rdS p f.a).toNat = none →
     let r := s.cellRef g f.k (g.rdS p f.a).toNat
     let u := s.begun.pullOwn g r.key 32
     let m := (u.cell r).met f.phase (chunkMask g p f.b)
     (m = true → (u.cell r).raised = none) →
     ∃ t h, exec (.cellTest f) s = .next t ∧ t.group? g.id = some h ∧ Went g h p (p.following (.cellTest f)) p.stack ∧
       RegsSame g h ∧ WroteQ g h f.d m ∧ BytesSame u t) ∧
   (∀ f s g p, Ready s (.cellWait f) g p → g.guard f.gd = true →
     let o : Path := { p with windows := [] }
     s.cellCheck g f.k (g.rdS o f.a).toNat = none →
     let r := s.cellRef g f.k (g.rdS o f.a).toNat
     let u := s.begun.pullOwn g r.key 32
     let c := u.cell r
     (c.met f.phase (chunkMask g o f.b) = true → c.raised = none →
       ∃ t h, exec (.cellWait f) s = .next t ∧ t.group? g.id = some h ∧
         Went g h p (p.following (.cellWait f)) p.stack ∧ FileSame g h ∧ BytesSame u t) ∧
     (c.met f.phase (chunkMask g o f.b) = false → WaitsIn (.cellWait f) s g p (.cell r f.phase (chunkMask g o f.b) f.ext))) ∧
   (∀ f s g p, Ready s (.cellArm f) g p → g.guard f.gd = true → s.cellCheck g f.k (g.rdS p f.a).toNat = none →
     let r := s.cellRef g f.k (g.rdS p f.a).toNat
     let u := s.begun.pullOwn g r.key 32
     let c := u.cell r
     c.arm = false → g.intReq.length + g.intPend.length < 4 →
     ∃ t h, exec (.cellArm f) s = .next t ∧ t.group? g.id = some h ∧ Went g h p (p.following (.cellArm f)) p.stack ∧
       FileSame g h ∧
       (c.phase ≠ f.phase → h.intPend = g.intPend ++ [r.info] ∧ h.intReq = g.intReq ∧ BytesSame u t) ∧
       (c.phase = f.phase → h.intReq = g.intReq ++ [r] ∧ h.intPend = g.intPend ∧
         WroteBytes u t r.key 32 (Cell.toNat { c with arm := true, armCore := g.id.core, armSlot := g.id.slot })))) ∧
  (∀ i s g p r rest, s.group? i = some g → g.id = i → g.intPend = CellRef.info r :: rest → r.off < 2 ^ 25 →
     g.handler ≠ 0 → g.frame = none → g.phase = .live → g.trapping = none → s.quiet g = true → s.stuck g = [] →
     g.slotPath? g.cs = some p →
     ∃ t h f x, exec (.completionInterrupt i) s = .next t ∧ t.group? i = some h ∧ h.intPend = rest ∧
       h.trapinfo = infoWord g 0 0 1 (bit01 r.k) (r.off / 32) p.pc ∧ h.frame = some f ∧ f.tokE = g.tokE ∧ f.tokW = g.tokW ∧
       f.paths.map (fun q => (q.id, q.pc, q.mask, q.stack)) = g.paths.map (fun q => (q.id, q.pc, q.mask, q.stack)) ∧
       h.paths = [x] ∧ x.pc = g.handler ∧ x.mask = g.live ∧ FileSame g h ∧ t.mem = s.mem)

/-- R92, R202, R203 and R205: `cpa` retires and forks its copies on path 5; a transfer of one lane whose requests have been sent and whose T_w
has passed copies its bytes, takes them from the cell's COUNT, and completes the cell's phase when
that leaves every arrival made and COUNT zero.
R217, R218 and R237: `bcomp` forks its run on path 5; the run that meets no fault leaves the packed
blocks, their metadata entries in the queue and PACKED and an arrival in the cell; one that faults leaves a poison
entry and FAULT; both once the requests of R19 that the run lacks have been sent, which it makes first; an entry
that waits is pushed when the queue has room. -/
def Obligations.CopiesAndCompression : Prop :=
  ((∀ f s g p ps, Ready s (.cpa f) g p → g.active p f.gd ≠ 0 → s.cellCheck g f.ck (g.rdS p f.c).toNat = none →
     let n := esizeBytes f.size
     let ls := (lanesOf (g.active p f.gd)).map (fun l => (l, copyLoc g p f.a f.dspace l, copyLoc g p f.b f.sspace l))
     joinLanes (ls.map (fun x => (x.1, pairRes (s.begun.laneAccess g p (copyWant .store n) x.1 x.2.1)
       (s.begun.laneAccess g p (copyWant .load n) x.1 x.2.2)))) = .ok ps → g.count 5 < 63 →
     let cs := numberCopies (ls.map (fun x => laneCopy g x.1 x.2.1 x.2.2 n ((ps.filter (fun y => y.1 == x.1)).map (·.2))))
     Starts (.cpa f) s g p (.cpa (s.cellRef g f.ck (g.rdS p f.c).toNat) cs (cs.foldl (fun acc c => addNew c.xfer acc) []) [])
       [] [5]) ∧
   (∀ n x s o cell cs left c d k, s.op? n = some o → o.kind = .cpa cell cs left [] → x ∈ left →
     cs.filter (fun c => c.xfer == x) = [c] → c.got = none → c.dst = [d] → c.tileSrc = none → c.tileDst = none →
     s.forkReady o = true → s.carried n [c.src, d] = true → s.writeTime d ≤ s.time →
     (∀ y ∈ cs, c.lane < y.lane → ∀ e ∈ y.dst, overlap d c.size e y.size = false) →
     overlap cell.key 32 d c.size = false → (s.cell cell).addCount (-(c.size : Int)) = some k →
     ∃ t, exec (.cpaTransfer n x) s = .next t ∧
       (∀ j, j < c.size → t.byte (d + j) = s.byte (c.src + j)) ∧
       (∀ a, (a < d ∨ d + c.size ≤ a) → (a < cell.key ∨ cell.key + 32 ≤ a) → t.byte a = s.byte a) ∧
       (t.cell cell).count = k ∧
       (k = 0 ∧ (s.cell cell).arrived = (s.cell cell).target →
         (t.cell cell).phase = !(s.cell cell).phase ∧ (t.cell cell).arrived = 0) ∧
       (¬(k = 0 ∧ (s.cell cell).arrived = (s.cell cell).target) →
         (t.cell cell).phase = (s.cell cell).phase ∧ (t.cell cell).arrived = (s.cell cell).arrived) ∧
       (left = [x] → t.op? n = none))) ∧
  ((∀ f s g p, Ready s (.bcomp f) g p → g.active p f.gd ≠ 0 → s.cellCheck g f.ck (g.rdS p f.c).toNat = none →
     (g.packRegion p f.a f.sspace).base % 16 = 0 → (g.packRegion p f.b f.dspace).base % 16 = 0 → g.count 5 < 63 →
     Starts (.bcomp f) s g p (.bcomp (s.cellRef g f.ck (g.rdS p f.c).toNat) (g.packRegion p f.a f.sspace) (g.packRegion p f.b f.dspace)
       (f.n.val + 1) f.big f.two f.q.val false [] 0 none) [] [5]) ∧
   (∀ n s o cell src dst steps big two q es pk code, s.op? n = some o →
     o.kind = .bcomp cell src dst steps big two q false es pk code → s.forkReady o = true →
     let x := s.pack o src dst steps big two
     let old := ((s.engine o.engineNum).queue o.kid q).entries
     let ask := s.packAsk o src dst steps (if two then 2 else 1) x
     (∀ u, ask = some u → (x.code = none → exec (.bcompFinish n) s = .next u) ∧
       (x.code ≠ none → exec (.bcompFault n) s = .next u)) ∧
     (x.code = none → ask = none → x.tw ≤ s.time → old.length + steps ≤ 64 → s.mqinitOpen o q = false →
       ∃ t, exec (.bcompFinish n) s = .next t ∧ t.op? n = none ∧
         (∀ a, (a < cell.key ∨ cell.key + 32 ≤ a) → t.byte a = x.s.byte a) ∧
         ((x.s.cell cell).arrived + 1 ≤ (x.s.cell cell).target → (t.cell cell).packed = x.off % 2 ^ 32) ∧
         ((t.engine o.engineNum).queue o.kid q).entries =
           old ++ (List.range steps).map (fun j => SMap.get 0 x.maps j + bit01 big * 2 ^ 24)) ∧
     (∀ c, x.code = some c → ask = none → x.tw ≤ s.time → old.length < 64 → s.mqinitOpen o q = false →
       ∃ t, exec (.bcompFault n) s = .next t ∧ t.op? n = none ∧ (t.cell cell).fault ≠ 0 ∧
         ((t.engine o.engineNum).queue o.kid q).entries = old ++ [2 ^ 31])) ∧
   (∀ n s o cell src dst steps big two q es pk code, s.op? n = some o →
     o.kind = .bcomp cell src dst steps big two q true es pk code → s.mqinitOpen o q = false → es ≠ [] →
     let old := ((s.engine o.engineNum).queue o.kid q).entries
     ∃ t, exec (.metadataPush n) s = .next t ∧
       ((t.engine o.engineNum).queue o.kid q).entries = old ++ es.take (64 - old.length) ∧
       (∃ y, t.op? n = some y ∧ y.kind = .bcomp cell src dst steps big two q true (es.drop (64 - old.length)) pk code) ∧
       t.mem = s.mem ∧ t.groups = s.groups))

/-! ### Matrix engines -/

/-- R226 to R228: `mres` binds the tiles of its mask, each element zero, when the engine has room, and waits
until it has; `mrel` unbinds a tile that no queued instruction of the group names at once, and any other when
the last one has completed. -/
def Obligations.MatrixReservation : Prop :=
  (∀ gd mask s g p, Ready s (.mres gd mask) g p → g.guard gd = true → p.mask = allLanes →
    (∀ z ∈ maskTiles mask, (s.engine g.engineNum).tile? g.id z = none) →
    let n := (s.engine g.engineNum).tiles.length + (maskTiles mask).length
    (n ≤ 32 → ∃ t h, exec (.mres gd mask) s = .next t ∧ t.group? g.id = some h ∧
      Went g h p (p.following (.mres gd mask)) p.stack ∧ FileSame g h ∧ SpecialSame g h ∧ t.mem = s.mem ∧
      (∀ z ∈ maskTiles mask, ∃ y, (t.engine g.engineNum).tile? g.id z = some y ∧ y.data = [] ∧ y.mark = none ∧
        y.releasing = false) ∧
      (∀ j z, (j ≠ g.id ∨ z ∉ maskTiles mask) → (t.engine g.engineNum).tile? j z = (s.engine g.engineNum).tile? j z)) ∧
    (32 < n → WaitsIn (.mres gd mask) s g p (.mres mask))) ∧
  (∀ i k s g p mask, Ready { s with issuer := some (i, k) } (.mres { grp := true, neg := false, idx := 7 } mask) g p →
    p.park = some (.mres mask) → g.rebind = [] → s.isNext i k = true → s.canBind g mask = true →
    ∃ t h q, exec (.mresBind i k) s = .next t ∧ t.group? i = some h ∧ h.path? k = some q ∧ q.park = none ∧
      q.pc = p.pc + 8 ∧ q.mask = p.mask ∧ FileSame g h ∧ t.mem = s.mem ∧
      (∀ z ∈ maskTiles mask, ∃ y, (t.engine g.engineNum).tile? i z = some y ∧ y.data = [])) ∧
  (∀ gd mask s g p, Ready s (.mrel gd mask) g p → g.guard gd = true → p.mask = allLanes →
    (∀ z ∈ maskTiles mask, ∃ y, (s.engine g.engineNum).tile? g.id z = some y ∧ y.mark = none ∧ y.releasing = false) →
    ∃ t h, exec (.mrel gd mask) s = .next t ∧ t.group? g.id = some h ∧
      Went g h p (p.following (.mrel gd mask)) p.stack ∧ FileSame g h ∧ SpecialSame g h ∧ t.mem = s.mem ∧
      (∀ z ∈ maskTiles mask, if (s.engine g.engineNum).free g.id z then (t.engine g.engineNum).tile? g.id z = none
        else ∃ y, (t.engine g.engineNum).tile? g.id z = some y ∧ y.releasing = true) ∧
      (∀ j z, (j ≠ g.id ∨ z ∉ maskTiles mask) → (t.engine g.engineNum).tile? j z = (s.engine g.engineNum).tile? j z)) ∧
  (∀ i z s y, (s.engine (engineNum i.cluster i.core)).tile? i z.val = some y → y.releasing = true → y.mark = none →
    (s.engine (engineNum i.cluster i.core)).free i z.val = true →
    ∃ t, exec (.mrelUnbind i z) s = .next t ∧ (t.engine (engineNum i.cluster i.core)).tile? i z.val = none ∧
      (∀ j w, (j ≠ i ∨ w ≠ z.val) → (t.engine (engineNum i.cluster i.core)).tile? j w =
        (s.engine (engineNum i.cluster i.core)).tile? j w) ∧ t.groups = s.groups ∧ t.mem = s.mem)
/-- R221, R222, R228 to R233, R235 to R240, R244, R245: `mzero` and an `mma` whose operands pass their checks enter the
table. A product, dense, gathered or sparse, takes one pass of a K step at a time, its operands latched before the
step's first pass once their requests have been sent; a sparse one pops the metadata entry of each step first. The
consuming decrements of `.ca` and `.cb` are made when every byte of both operands has been latched: COUNT falls, and at
zero the tile returns with its generation advanced. A poisoned or malformed entry, a stream that leaves its region, a
handle no longer current or a COUNT that does not cover the decrements abandons the product. When its last pass has
ended the tile takes the product; an entry that waits 1,024 clocks is promoted. When operands and scales are latched is
log 16 (DESIGN CHOICE). -/
def Obligations.MatrixProducts : Prop :=
  (∀ gd d s g p y, Ready s (.mzero gd d) g p → TileReady s g p gd d.val y → EntersTable (.mzero gd d) s g p d.val .zero) ∧
  (∀ f s g p y m, Ready s (.mma f) g p → TileReady s g p f.gd f.d.val y → mmaOf f g p = some m → m.a.odd = false →
    m.b.odd = false → s.srcBeyond g m.a m.k (if m.sparse.isSome then 1 else m.k * nfmtSize m.a.fmt) = false →
    s.srcBeyond g m.b m.k (64 * nfmtSize m.b.fmt) = false → s.srcStale g m.a = false → s.srcStale g m.b = false →
    EntersTable (.mma f) s g p f.d.val (.mma m)) ∧
  (∀ cluster quad s x m, let n := quadEngine cluster quad
    s.throttleClock n = true → (s.engine n).last ≤ s.clock → s.granted (s.engine n) = some x → x.op = .mma m →
    (∀ u k b rest, Supplied s n x m u k → k.passes.filter (fun c => decide (c ≥ k.block)) = b :: rest →
      let fresh := k.bv.length ≤ 96 * k.step
      let l := u.latch x k
      (¬fresh → ∃ t, exec (.matrixPass cluster quad) s = .next t ∧ PassTaken u t n x k rest ∧ t.crews = s.crews) ∧
      (fresh → u.mmaLive k = true → u.reached x.id (u.stepKeys x k) = false →
        ∃ t, exec (.matrixPass cluster quad) s = .next t ∧ (∃ y ∈ (t.engine n).entries, y.id = x.id ∧ y.op = .mma k) ∧
          t.reqs = (u.askFor x.id x.gid.cluster x.gid.core (u.stepKeys x k)).reqs ∧
          (t.engine n).last = (s.engine n).last ∧ t.crews = s.crews ∧ t.mem = s.mem ∧ t.groups = s.groups) ∧
      (fresh → u.mmaLive k = true → u.reached x.id (u.stepKeys x k) = true →
        (l.due = [] → ∃ t, exec (.matrixPass cluster quad) s = .next t ∧ PassTaken u t n x l rest ∧ t.crews = s.crews) ∧
        (l.due ≠ [] → l.due.all u.tileLive = true → u.owed l.due = true →
          ∃ t, exec (.matrixPass cluster quad) s = .next t ∧ PassTaken u t n x { l with eaten := true } rest ∧
            t.crews = (u.eat l.due).crews) ∧
        (∀ g, l.due.all u.tileLive = false → u.group? x.gid = some g → g.phase = .live →
          ∃ t, exec (.matrixPass cluster quad) s = .next t ∧ Abandoned u t n x .tileStale) ∧
        (∀ g, l.due.all u.tileLive = true → u.owed l.due = false → u.group? x.gid = some g → g.phase = .live →
          ∃ t, exec (.matrixPass cluster quad) s = .next t ∧ Abandoned u t n x .tileOverread)) ∧
      (∀ g, fresh → u.mmaLive k = false → u.group? x.gid = some g → g.phase = .live →
        ∃ t, exec (.matrixPass cluster quad) s = .next t ∧ Abandoned u t n x .tileStale)) ∧
    (∀ q g, m.sparse = some q → m.popped.length = m.step → s.group? x.gid = some g → g.phase = .live →
      let e := (s.engine n).queue x.kid q
      (e.poisoned = true → ∃ t, exec (.matrixPass cluster quad) s = .next t ∧ Abandoned s t n x .matrixMetaPoison) ∧
      (∀ w rest, e.poisoned = false → e.entries = w :: rest → w.testBit 31 = true →
        ∃ t, exec (.matrixPass cluster quad) s = .next t ∧ Abandoned s t n x .matrixMetaPoison ∧
          (t.engine n).queue x.kid q = { kid := x.kid, q := q, entries := [], poisoned := true }) ∧
      (∀ w rest, e.poisoned = false → e.entries = w :: rest → w.testBit 31 = false → entryBad w = true →
        ∃ t, exec (.matrixPass cluster quad) s = .next t ∧ Abandoned s t n x .matrixFormat ∧
          ((t.engine n).queue x.kid q).entries = rest) ∧
      (∀ w rest, e.poisoned = false → e.entries = w :: rest → w.testBit 31 = false → entryBad w = false →
        s.srcLimit g m.a.region m.a.tile < m.stream + { m with popped := m.popped ++ [w] }.streamBytes →
        ∃ t, exec (.matrixPass cluster quad) s = .next t ∧ Abandoned s t n x .spaceBounds ∧
          ((t.engine n).queue x.kid q).entries = rest))) ∧
  (∀ (s : State) (r : TileRef) c x, s.crew? r.kid r.crew = some c → c.part? r.pool = some x → (x.tile r.index).st = .held →
    0 < (x.tile r.index).count →
    ∃ c' x', (s.eat [r]).crew? r.kid r.crew = some c' ∧ c'.part? r.pool = some x' ∧
      (2 ≤ (x.tile r.index).count → x'.tile r.index = { x.tile r.index with count := (x.tile r.index).count - 1 }) ∧
      ((x.tile r.index).count = 1 → (x'.tile r.index).gen = ((x.tile r.index).gen + 1) % 256 ∧
        (x'.tile r.index).st = if (x.tile r.index).adm = 0 then .free else .returning) ∧
      (∀ j, j ≠ r.index → x'.tile j = x.tile j) ∧ (∀ j, j ≠ r.pool → c'.part? j = c.part? j)) ∧
  (∀ cluster quad n s x y, (s.engine (quadEngine cluster quad)).entries.find? (fun x => x.id == n) = some x →
    (s.engine (quadEngine cluster quad)).marked x.gid x.z = false → s.first (s.engine (quadEngine cluster quad)) x false = true →
    (s.engine (quadEngine cluster quad)).tile? x.gid x.z = some y →
    (x.op = .zero → ∃ t w, exec (.mmaComplete cluster quad n) s = .next t ∧
      (t.engine (quadEngine cluster quad)).tile? x.gid x.z = some w ∧ (∀ k, SMap.get 0 w.data k = 0) ∧
      (∀ e ∈ (t.engine (quadEngine cluster quad)).entries, e.id ≠ n) ∧ t.mem = s.mem ∧ t.groups = s.groups) ∧
    (∀ m, x.op = .mma m → m.steps ≤ m.step → x.ends ≤ s.clock →
      ∃ t w, exec (.mmaComplete cluster quad n) s = .next t ∧
        (t.engine (quadEngine cluster quad)).tile? x.gid x.z = some w ∧
        (∀ i j, i < 64 → j < 64 → SMap.get 0 w.data (64 * i + j) = BitVec.ofNat 32 (m.element y.data i j)) ∧
        (∀ e ∈ (t.engine (quadEngine cluster quad)).entries, e.id ≠ n) ∧ t.mem = s.mem ∧ t.groups = s.groups)) ∧
  (∀ cluster quad n s x, x ∈ (s.engine (quadEngine cluster quad)).entries → x.id = n → x.since + 1024 ≤ s.clock →
    ∃ t, exec (.arbiterPromote cluster quad n) s = .next t ∧
      { x with promoted := true } ∈ (t.engine (quadEngine cluster quad)).entries ∧ t.mem = s.mem ∧ t.groups = s.groups)
/-- R238, R241 to R243: `mqinit` empties its queue and leaves its words to be read, each becoming an entry;
`mdrain` and `mload` take their table entry and path 6 or none; a part of a drain is written with the tile's
elements rounded toward zero, in every image of the destination, and an image of an `.add` drain takes its sums with
what it held in one step, after those of the group's earlier `.add` drains to it; a handle no longer current stops a
drain with TILE_STALE; a load gives the tile every element converted exactly, all read in one step (log 16, DESIGN
CHOICE); each ends by freeing its entry. -/
def Obligations.MatrixTransfers : Prop :=
  (∀ f s g p, Ready s (.mqinit f) g p → g.guard f.gd = true → p.mask = allLanes → (g.rdS p f.a).toNat % 4 = 0 →
    (g.rdS p f.b).toNat ≤ 64 →
    (g.rdS p f.a).toNat + 4 * (g.rdS p f.b).toNat ≤ s.regionSize g (if f.k then .k else .c) →
    ∃ t h, exec (.mqinit f) s = .next t ∧ t.group? g.id = some h ∧ Went g h p (p.following (.mqinit f)) p.stack ∧
      FileSame g h ∧ t.mem = s.mem ∧ ((t.engine g.engineNum).queue g.kid f.q.val).entries = [] ∧
      ((t.engine g.engineNum).queue g.kid f.q.val).poisoned = false ∧
      ((g.rdS p f.b).toNat = 0 → t.ops = s.ops) ∧
      ((g.rdS p f.b).toNat ≠ 0 → ∃ o, t.ops = s.ops ++ [o] ∧ o.kind = .mqinit f.q.val
        ((List.range (g.rdS p f.b).toNat).map (fun j =>
          s.localKey g true 0 (if f.k then .k else .c) ((g.rdS p f.a).toNat + 4 * j))) 0)) ∧
  (∀ n s o q keys j key, s.op? n = some o → o.kind = .mqinit q keys j → keys[j]? = some key → s.forkReady o = true →
    s.mqinitBefore o q = false → ((s.engine o.engineNum).queue o.kid q).entries.length < 64 →
    ∃ t, exec (.mqinitWord n) s = .next t ∧ ((t.engine o.engineNum).queue o.kid q).entries =
        ((s.engine o.engineNum).queue o.kid q).entries ++ [s.read key 4] ∧
      (j + 1 = keys.length → t.op? n = none) ∧
      (j + 1 ≠ keys.length → ∃ x, t.op? n = some x ∧ x.kind = .mqinit q keys (j + 1)) ∧ t.mem = s.mem) ∧
  (∀ f s g p y ps, Ready s (.mdrain f) g p → TileReady s g p f.gd f.c.val y →
    let b := matrixBase g p f.space f.a
    let w := (g.rdS p f.b).toNat
    64 * nfmtSize f.fmt ≤ w → b.1 % 16 = 0 → w % 16 = 0 → g.count 6 < 63 →
    s.begun.rowsAccess g p .store f.space b.1 b.2 w (nfmtSize f.fmt) = .ok ps →
    ps.length = 256 * nfmtSize f.fmt →
    ∃ o, EntersTable (.mdrain f) s g p f.c.val (.drain o) ∧
      Starts (.mdrain f) s g p (.mdrain f.c.val f.fmt f.add none [ps.map (fun x => x.2.key)]
        (List.range (if f.add then 1 else 256 * nfmtSize f.fmt)) (if f.space = .h then some (g.tileRef b.2) else none)) [] [6]) ∧
  (∀ f s g p y ps, Ready s (.mload f) g p → TileReady s g p f.gd f.d.val y →
    let b := matrixBase g p f.space f.a
    let w := (g.rdS p f.b).toNat
    64 * nfmtSize f.fmt ≤ w → b.1 % 16 = 0 → w % 16 = 0 →
    s.begun.rowsAccess g p .load f.space b.1 b.2 w (nfmtSize f.fmt) = .ok ps →
    ∃ o, EntersTable (.mload f) s g p f.d.val (.load o) ∧
      Starts (.mload f) s g p (.mload f.d.val f.fmt (ps.map (fun x => x.2.key))
        (if f.space = .h then some (g.tileRef b.2) else none)) [] []) ∧
  (∀ n k s o x z fmt add data d images left tile, s.op? n = some o → o.kind = .mdrain z fmt add data images left tile →
    (s.engine o.engineNum).entryOf? n = some x → k ∈ left → (s.engine o.engineNum).marked x.gid z = false →
    s.forkReady o = true → (add = true → s.addBefore o images.flatten = false) →
    (data = none → s.first (s.engine o.engineNum) x false = true ∧
      ∃ y, (s.engine o.engineNum).tile? x.gid z = some y ∧ d = y.elements) → (∀ e, data = some e → d = e) →
    let keys := if add then images.getD k [] else images.map (fun l => l.getD k 0)
    (tile.all s.tileLive = true → s.carried n keys = true → keys.Nodup → (∀ a ∈ keys, a % 16 = 0) →
      ∃ t u, exec (.mdrainApply n k) s = .next t ∧
        (∀ j b, j < keys.length → b < 16 → t.byte (keys.getD j 0 + b) = BitVec.ofNat 8
          (drainPart fmt add d (if add then j else k) (s.read (keys.getD j 0) 16) / 256 ^ b)) ∧
        (∀ a, (∀ c ∈ keys, a < c ∨ c + 16 ≤ a) → t.byte a = s.byte a) ∧ t.op? n = some u ∧
        u.kind = .mdrain z fmt add (some d) images (left.filter (· != k)) tile) ∧
    (tile.all s.tileLive = false → ∀ g, (s.endMatrix o).opGroup o = some g →
      exec (.mdrainApply n k) s = .next ((s.endMatrix o).trap g { markTrap .tileStale o.pc o.low none with detail := 6 }) ∧
      (s.endMatrix o).op? n = none ∧ ((s.endMatrix o).engine o.engineNum).entryOf? n = none ∧ (s.endMatrix o).mem = s.mem)) ∧
  (∀ n s o x z fmt add d images tile, s.op? n = some o → o.kind = .mdrain z fmt add d images [] tile →
    (s.engine o.engineNum).entryOf? n = some x → o.tw ≤ s.time → s.first (s.engine o.engineNum) x false = true →
    ∃ t, exec (.mdrainComplete n) s = .next t ∧ t.op? n = none ∧ (t.engine o.engineNum).entryOf? n = none ∧
      t.mem = s.mem) ∧
  (∀ n s o x y z fmt keys tile, s.op? n = some o → o.kind = .mload z fmt keys tile → tile.all s.tileLive = true →
    (s.engine o.engineNum).entryOf? n = some x → (s.engine o.engineNum).marked x.gid z = false →
    s.forkReady o = true → s.carried n keys = true → s.first (s.engine o.engineNum) x false = true →
    (s.engine o.engineNum).tile? x.gid z = some y →
    ∃ t w, exec (.mloadComplete n) s = .next t ∧ t.op? n = none ∧ (t.engine o.engineNum).entryOf? n = none ∧
      t.mem = s.mem ∧ (t.engine o.engineNum).tile? x.gid z = some w ∧
      ∀ k, k < 4096 → SMap.get 0 w.data k = BitVec.ofNat 32 (fmtF32.rne false (fmt.fmt.decode
        (s.read (keys.getD (k / (16 / nfmtSize fmt)) 0 + k % (16 / nfmtSize fmt) * nfmtSize fmt) (nfmtSize fmt)))))
/-! ### Tiles and handle queues -/

/-- R352, R353, R359 to R363: `talloc` takes the lowest FREE tile of the pool that is not granted to a waiting path,
past those that other paths next to issue on this clock take first (log 58, DEDUCED); it becomes HELD with the reads
given, and its handle is written; or `talloc` waits, its count read before the wait, and takes the tile that it is
granted; `tinfo` reads a handle's tile; `tpart` writes the number held and sets the limit.
R353 to R355: the delivery of a consuming load lowers the tile's COUNT; at zero the tile returns with
its generation advanced, and is FREE when no admitted access is left.
R364 to R367: a push reserves the tail slot of each queue and goes on, showing the handle there once the
group's earlier accesses are released, which QPUSH_VISIBLE does for one that had to wait; a pop takes the head,
or waits; `qtry` reports instead of waiting. -/
def Obligations.TilesAndQueues : Prop :=
  ((∀ i gd pool d n s g p, ((∃ b, i = .talloc gd pool d b ∧ n = (g.rdS (p.reading i) b).toNat) ∨ ∃ m, i = .tallocImm gd pool d m ∧ n = m.toNat) →
     Ready s i g p →
     let granted := s.grants g.kid g.crew pool.val
     let ahead := s.begun.tallocAhead g (p.reading i) pool
     (p.tallocWait pool.val = none → g.guard gd = true → 0 < n → n ≤ 255 →
       (∀ k c x, s.tallocTile g pool.val ahead = some k → s.groupCrew g = some c → c.part? pool.val = some x →
         TakesTile i s g p pool.val d n k c x ∧ (x.tile k).st = .free ∧ k ∉ granted ∧
         ((List.range k).filter (fun j => (x.tile j).st = .free ∧ j ∉ granted)).length = ahead) ∧
       (s.tallocTile g pool.val ahead = none → WaitsIn i s g p (.talloc pool.val n none))) ∧
     (∀ m, p.tallocWait pool.val = some (m, none) → WaitsIn i s g p (.talloc pool.val m none)) ∧
     (∀ m k c x, p.tallocWait pool.val = some (m, some k) → s.groupCrew g = some c → c.part? pool.val = some x →
       TakesTile i s g p pool.val d m k c x)) ∧
   (∀ gd d a s g p, Ready s (.tinfo gd d a) g p →
     LaneResult (.tinfo gd d a) s g p 1 (.s d) (g.onceLanes gd) (fun _ =>
       (s.tileInfo g (g.rdS p a).toNat).zeroExtend 64)) ∧
   (∀ gd pool d b s g p c x, Ready s (.tpart gd pool d b) g p → g.guard gd = true → s.groupCrew g = some c →
     c.part? pool.val = some x → (g.rdS p b).toNat ≤ g.hdr.tiles pool.val →
     ∃ t h c' x', exec (.tpart gd pool d b) s = .next t ∧ t.group? g.id = some h ∧
       Went g h p (p.following (.tpart gd pool d b)) p.stack ∧
       (∀ k l, l < 32 → h.reg k l = if k = 192 + d.val then BitVec.ofNat 32 x.heldn else g.reg k l) ∧ PredsSame g h ∧
       t.crew? g.kid g.crew = some c' ∧ c'.part? pool.val = some x' ∧ x'.heldn = x.heldn ∧
       x'.lim = (if (g.rdS p b).toNat = 0 then x.lim else (g.rdS p b).toNat) ∧ (∀ j, x'.tile j = x.tile j) ∧ t.mem = s.mem)) ∧
  (∀ n s o d r g c x, s.op? n = some o → o.kind = .load d [r] → o.admitted = [r] → s.opGroup o = some g →
     (∀ y ∈ o.parts, y.got.isSome = true) → (∀ q ∈ s.reqs, q.op = n → q.slice < 96) → s.tileBusy o [r] = false → s.crew? r.kid r.crew = some c →
     c.part? r.pool = some x → (x.tile r.index).st = .held →
     ∃ t c' x', exec (.loadDelivered (.whole n)) s = .next t ∧ t.crew? r.kid r.crew = some c' ∧ c'.part? r.pool = some x' ∧
       t.mem = s.mem ∧
       (2 ≤ (x.tile r.index).count → (x'.tile r.index).st = .held ∧ (x'.tile r.index).count = (x.tile r.index).count - 1 ∧
         (x'.tile r.index).gen = (x.tile r.index).gen ∧ x'.heldn = x.heldn) ∧
       ((x.tile r.index).count = 1 → (x'.tile r.index).gen = ((x.tile r.index).gen + 1) % 256 ∧
         (x'.tile r.index).st = (if (x.tile r.index).adm ≤ 1 then .free else .returning) ∧
         x'.heldn = (if (x.tile r.index).adm ≤ 1 then x.heldn - 1 else x.heldn)) ∧
       (∀ j, j ≠ r.index → x'.tile j = x.tile j)) ∧
  ((∀ i gd a qs h s g p c, ((∃ q : Fin 16, i = .qpush gd q a ∧ qs = [q.val]) ∨ (∃ b, i = .qmc gd a b ∧ (g.rdS p b).toNat ≠ 0 ∧
       (g.rdS p b).toNat < 2 ^ g.hdr.hqs.length ∧ qs = (List.range 16).filter (fun k => (g.rdS p b).toNat.testBit k))) →
     h = g.rdS p a → Ready s i g p → g.guard gd = true →
     s.groupCrew g = some c → (∀ k ∈ qs, s.pushCheck g h.toNat k = none) →
     (∀ (k : Nat) (x : HQueue), c.hqs[k]? = some x → ∀ y ∈ x.slots, y.1 < x.pushed) →
     ∃ t g' q' c', exec i s = .next t ∧ t.group? g.id = some g' ∧ g'.path? p.id = some q' ∧ q'.pc = p.following i ∧
       q'.mask = p.mask ∧ FileSame g g' ∧ SpecialSame g g' ∧ t.mem = s.mem ∧ t.crew? g.kid g.crew = some c' ∧
       (∀ (k : Nat) (x : HQueue), k ∈ qs → c.hqs[k]? = some x → ∃ x', c'.hqs[k]? = some x' ∧ x'.pushed = x.pushed + 1 ∧
         x'.slots = x.slots ++ [(x.pushed, if s.released g .crew s.nextId then some h else none)]) ∧
       (∀ k, k ∉ qs → c'.hqs[k]? = c.hqs[k]?) ∧
       (s.released g .crew s.nextId = true → q'.park = none) ∧
       (s.released g .crew s.nextId = false → ∃ places, q'.park = some (.push s.nextId h places))) ∧
   (∀ i k s g p c upTo h q n x, s.group? i = some g → g.id = i → g.path? k = some p → p.id = k →
     p.park = some (.push upTo h [(q, n)]) → g.phase ≠ .saved → s.released g .crew upTo = true → s.groupCrew g = some c →
     c.hqs[q]? = some x →
     ∃ t g' p' c' x', exec (.qpushVisible i k) s = .next t ∧ t.group? i = some g' ∧ g'.path? k = some p' ∧
       p'.park = none ∧ p'.pc = p.pc ∧ FileSame g g' ∧ t.mem = s.mem ∧ t.crew? g.kid g.crew = some c' ∧
       c'.hqs[q]? = some x' ∧ x'.slots = x.slots.map (fun y => if y.1 = n then (y.1, some h) else y)) ∧
   (∀ gd q d s g p, Ready s (.qpop gd q d) g p → g.guard gd = true →
     (∀ h c x, s.qpopHead g p q.val = some h → s.groupCrew g = some c → c.hqs[q.val]? = some x →
       ∃ t g' c' x', exec (.qpop gd q d) s = .next t ∧ t.group? g.id = some g' ∧
         Went g g' p (p.following (.qpop gd q d)) p.stack ∧ PredsSame g g' ∧
         (∀ k l, l < 32 → g'.reg k l = if k = 192 + d.val then h else g.reg k l) ∧ t.mem = s.mem ∧
         t.crew? g.kid g.crew = some c' ∧ c'.hqs[q.val]? = some x' ∧ ∃ n, x.slots = (n, some h) :: x'.slots) ∧
     (s.qpopHead g p q.val = none → WaitsIn (.qpop gd q d) s g p (.qpop q.val))) ∧
   (∀ gd q d c s g p, Ready s (.qtry gd q d c) g p → g.guard gd = true → s.waiters g p (Park.isQpop q.val) = [] →
     (∀ h x y, s.qpopHead g p q.val = some h → s.groupCrew g = some x → x.hqs[q.val]? = some y →
       ∃ t g' x' y', exec (.qtry gd q d c) s = .next t ∧ t.group? g.id = some g' ∧
         Went g g' p (p.following (.qtry gd q d c)) p.stack ∧ WroteQ g g' c true ∧
         (∀ k l, l < 32 → g'.reg k l = if k = 192 + d.val then h else g.reg k l) ∧ t.mem = s.mem ∧
         t.crew? g.kid g.crew = some x' ∧ x'.hqs[q.val]? = some y' ∧ ∃ n, y.slots = (n, some h) :: y'.slots) ∧
     (s.qpopHead g p q.val = none → PredResult (.qtry gd q d c) s g p true c [0] (fun _ => false))))

/-! ### Reorder and barriers -/

/-- R319 to R322, R327: `reorder` with every key in range waits for the group's accesses, and arrives when they have
drained; a key out of range raises REORDER_KEY_RANGE in the lowest such lane (lane as in log 12, DEDUCED). The arrival
ends the path and bins every lane with its key, predicates and the registers of the payload's octets.
R298, R315, R326 and R330: a dissolving group ends with its exit record counted; a rebuilt group starts, once no group
of the crew dissolves and no private write-back is in flight (log 74, DEDUCED), in the lowest free slot of the chosen
core, one path of all its lanes after the `reorder`, with each record's registers and predicates, those of a spilled
record read back from its area, in its lane, the shared group-wide payload, the key in s62 and the count in s63. -/
def Obligations.Reordering : Prop :=
  ((∀ f s g p, Ready s (.reorder f) g p → g.frame = none → p.inReorder = false →
     (∀ y ∈ (s.engine g.engineNum).tiles, y.owner ≠ g.id) →
     let outside := (lanesOf p.mask).filter (fun l => decide ((g.rd { p with windows := [] } f.a.code l).toNat ≥ g.hdr.keys))
     (outside = [] → s.drained g = false → WaitsIn (.reorder f) s g p (.reorder f)) ∧
     (∀ l rest, outside = l :: rest → TrapsIn (.reorder f) s g p .reorderKeyRange l)) ∧
   (∀ i k s g p f c e, Ready { s with issuer := some (i, k) } (.reorder f) g p → s.drained g = true → g.tokE = [] →
     (e = exec (.reorder f) { s with issuer := some (i, k) } ∧ (p.inReorder = true ∨ (g.frame = none ∧
       (∀ y ∈ (s.engine g.engineNum).tiles, y.owner ≠ g.id) ∧
       ∀ l ∈ lanesOf p.mask, (g.rd { p with windows := [] } f.a.code l).toNat < g.hdr.keys)) ∨
      e = exec (.reorderArrive i k) s ∧ p.park = some (.reorder f) ∧ s.isNext i k = true) →
     (∀ q ∈ g.paths, q.id = k → q = p) → s.groupCrew g = some c → c.insts = [] →
     (∀ l ∈ lanesOf p.mask, ∃ th, g.thread? l = some th ∧ th.arrivals = c.instDone) →
     ∃ t, e = .next t ∧
       (∃ h, t.group? i = some h ∧ h.path? k = none ∧ h.live = g.live &&& ~~~p.mask ∧
         (g.live = p.mask → h.phase = .dissolving)) ∧
       ∀ l ∈ lanesOf p.mask, ∀ th, g.thread? l = some th → ∃ c' inst x, t.crew? g.kid g.crew = some c' ∧
         inst ∈ c'.insts ∧ x ∈ inst.recs ++ inst.ready.flatten ∧ x.thread.wid = th.wid ∧
         x.key = (g.reg f.a.code l).toNat ∧ x.p = g.lanePreds l ∧ x.v = g.payloadV f.vmask.toNat l)) ∧
  ((∀ i s g, s.group? i = some g → g.id = i → g.phase = .dissolving →
     ∃ t, exec (.dissolveEnd i) s = .next t ∧ t.group? i = none ∧ (∀ j, j ≠ i → t.group? j = s.group? j) ∧
       t.read ((s.desc g.ctx).save + 0x7FF8) 8 = (s.read ((s.desc g.ctx).save + 0x7FF8) 8 + 1) % 2 ^ 64) ∧
   (∀ kid crew s c l inst rest set sets r core slot, s.crew? kid crew = some c → s.launch? kid = some l →
     c.insts = inst :: rest → inst.ready = set :: sets → inst.ref = some r → s.emitCore c l.hdr = some core →
     s.preempting l.ctx = false → c.image = none → s.settling c = false → s.freeSlot c.cluster core = some slot →
     set.length ≤ 32 →
     (∀ x ∈ set, SMap.wf 0 x.v = true ∧ ∀ e ∈ x.v, e.1 < 192) →
     let u := s.landRecords c.cluster l.ctx c.spillArea inst.rspill r.vmask l.hdr.team set
     let held := fun x => u.readBack l.ctx c.spillArea inst.rspill r.vmask l.hdr.team x
     (∀ x ∈ set, x.spilled = false → held x = x) ∧
     ∃ t h q, exec (.reorderEmit kid crew) s = .next t ∧
       t.group? { cluster := c.cluster, core := core, slot := slot } = some h ∧ h.ctx = l.ctx ∧ h.kid = c.kid ∧
       h.crew = c.crew ∧ h.handler = r.handler ∧ h.rebuilt = true ∧ h.paths = [q] ∧ q.pc = r.pc + 12 ∧ q.stack = r.stack ∧
       q.park = none ∧ (∀ n, n < 32 → q.mask.getLsbD n = decide (n < set.length)) ∧
       (∀ n x, set[n]? = some x → (∀ k, k < 192 → h.reg k n = SMap.get 0 (held x).v k) ∧
         (∀ k, k < 7 → (h.pred k).getLsbD n = (held x).p.testBit k)) ∧
       (∀ k, k < 62 → h.reg (192 + k) 0 = SMap.get 0 r.s k) ∧
       h.reg (192 + 63) 0 = BitVec.ofNat 32 set.length ∧
       (∀ k, (∀ x ∈ set, x.key = k) → set ≠ [] → h.reg (192 + 62) 0 = BitVec.ofNat 32 k) ∧
       ((∀ x ∈ set, x.spilled = false) →
         ∀ j, j ≠ { cluster := c.cluster, core := core, slot := slot } → t.group? j = s.group? j)))

/-- R337, R340, R342, R344 to R347: once the group's accesses are released, the arrivals of the active lanes
step their barrier, which completes its phase when its condition holds; `bar.sync` then waits while one is
pending, as `bar.wait` does; arrivals that must wait for the release, and those at another crew, are
applied by their own events. -/
def Obligations.BarrierInstructions : Prop :=
  (∀ e ∈ ([(Instr.barArrive, false), (Instr.barSync, true)] : List ((BarForm → Instr) × Bool)),
    ∀ f s g p c, Ready s (e.1 f) g p → s.groupCrew g = some c →
    let act := g.active p f.gd
    let cnt := f.cnt.map (fun r => (g.rdS (p.reading (e.1 f)) r).toNat)
    (act = 0 → MovesTo (e.1 f) s g p (p.following (e.1 f)) p.stack) ∧
    (∀ team b ws, act ≠ 0 → s.released g (barScope f.crew) s.nextId = true →
      s.arriveLanes g c f.b.val f.crew cnt (lanesOf act) { entries := [], words := [] } =
        .ok { entries := [(team, b)], words := ws } →
      ∃ t h q c', exec (e.1 f) s = .next t ∧ t.group? g.id = some h ∧ h.path? p.id = some q ∧ q.pc = p.following (e.1 f) ∧
        q.mask = p.mask ∧ FileSame g h ∧ SpecialSame g h ∧ t.crew? g.kid g.crew = some c' ∧
        c'.bar? team f.b.val = some (if b.complete then b.next else b) ∧
        q.park = (if e.2 ∧ t.anyPending h act f.crew f.b.val then some (.bar f.b.val f.crew act) else none) ∧
        (b.complete = false → c.image = none → q.place = p.place → ∀ a, (∀ w ∈ ws, a < w.1 ∨ w.1 + 4 ≤ a) → t.byte a = s.byte a)) ∧
    (act ≠ 0 → s.released g (barScope f.crew) s.nextId = false →
      ∃ t h q, exec (e.1 f) s = .next t ∧ t.group? g.id = some h ∧ h.path? p.id = some q ∧ q.pc = p.following (e.1 f) ∧
        q.mask = p.mask ∧ q.park = some (.barArrive s.nextId f.b.val f.crew act cnt e.2) ∧ FileSame g h ∧ t.mem = s.mem ∧
        t.crews = s.crews)) ∧
  (∀ f s g p, Ready s (.barWait f) g p →
    (s.anyPending g (g.active p f.gd) f.crew f.b.val = false → MovesTo (.barWait f) s g p (p.following (.barWait f)) p.stack) ∧
    (s.anyPending g (g.active p f.gd) f.crew f.b.val = true →
      WaitsIn (.barWait f) s g p (.bar f.b.val f.crew (g.active p f.gd)))) ∧
  (∀ i k s g p c n b crew lanes cnt team x ws, s.group? i = some g → g.id = i → g.path? k = some p → p.id = k →
    p.park = some (.barArrive n b crew lanes cnt false) → g.phase ≠ .saved → s.released g (barScope crew) n = true → s.groupCrew g = some c →
    s.arriveLanes g c b crew cnt (lanesOf lanes) { entries := [], words := [] } =
      .ok { entries := [(team, x)], words := ws } →
    ∃ t h q c', exec (.barArrivalApply i k) s = .next t ∧ t.group? i = some h ∧ h.path? k = some q ∧ q.park = none ∧
      q.pc = p.pc ∧ q.mask = p.mask ∧ FileSame g h ∧ t.crew? g.kid g.crew = some c' ∧
      c'.bar? team b = some (if x.complete then x.next else x)) ∧
  (∀ f s g p c, Ready s (.barArriveRem f) g p →
    let act := g.active p f.gd
    let team := f.team.map (fun r => (g.rdS p r).toNat)
    act ≠ 0 → s.crew? g.kid (g.rdS p f.crewReg).toNat = some c → (∀ n, team = some n → n < c.teams.length) →
    g.count 1 < 63 →
    Starts (.barArriveRem f) s g p
      (.barRemote (g.rdS p f.crewReg).toNat team f.b.val (g.rdS p f.cnt).toNat (lanesOf act).length) [] [1]) ∧
  (∀ n s o crew team b cnt lanes c x y, s.op? n = some o → o.kind = .barRemote crew team b cnt lanes →
    (∀ g, s.opGroup o = some g → s.released g .device n = true) → s.crew? o.kid crew = some c →
    c.bar? team b = some x → x.arriveMany cnt lanes = some y →
    ∃ t c', exec (.barRemoteApply n) s = .next t ∧ t.op? n = none ∧ t.crew? o.kid crew = some c' ∧
      c'.bar? team b = some (if y.complete then y.next else y) ∧
      ∀ g, s.opGroup o = some g → ∃ h, t.group? g.id = some h ∧
        ∀ x ∈ h.flights, x.op = n → x.path ∈ o.paths → x.done = true)
/-! ### Queues from programs, timelines -/

/-- R267, R268, R270, R294, R295 and R99: a `launch` retires with its kick in flight on path 1, which is sent
once its release holds; a kick that reaches a queue raises K, starts an idle queue, and stops one that it
overruns as torn, but only raises K of a held one; a doorbell write is a kick once its link's writes are complete. -/
def Obligations.LaunchesAndKicks : Prop :=
  (∀ f s g p, Ready s (.launch f) g p → g.guard f.gd = true → (g.rdS p f.a).toNat < 64 →
    let c := match f.c with
      | some r => (g.rdS p r).toNat % 256
      | none => g.ctx
    let q := (g.rdS p f.a).toNat
    let v := (g.rd64 p (192 + f.b.val) 0).toNat
    q < (s.desc c).nq → (s.ctxOf c).st ≠ .free → (f.c = none ∨ s.priv g.ctx = true) → g.count 1 < 63 → s.Numbered →
    ∃ t h r o, exec (.launch f) s = .next t ∧ t.group? g.id = some h ∧ h.path? p.id = some r ∧ r.pc = p.following (.launch f) ∧
      r.mask = p.mask ∧ FileSame g h ∧ SpecialSame { g with flights := h.flights } h ∧ t.mem = s.mem ∧
      t.op? s.nextId = some o ∧ o.kind = .kick c q v ∧ o.paths = [1] ∧
      h.flights = g.flights ++ [{ path := 1, op := s.nextId, done := false }] ∧
      (s.released g (if f.sys then .system else .device) s.nextId = true → r.park = none ∧ o.sentKick c q v = true) ∧
      (s.released g (if f.sys then .system else .device) s.nextId = false →
        r.park = some (.launch s.nextId f.sys c q v) ∧ o.sentKick c q v = false)) ∧
  (∀ i k s g p n sys c q v o, s.group? i = some g → g.id = i → g.path? k = some p → p.id = k →
    p.park = some (.launch n sys c q v) → s.released g (if sys then .system else .device) n = true →
    g.phase ≠ .saved → s.op? n = some o → o.kind = .kick c q v → o.parts ≠ [] →
    ∃ t h r x, exec (.launchKickSent i k) s = .next t ∧ t.group? i = some h ∧ h.path? k = some r ∧ r.park = none ∧
      r.pc = p.pc ∧ r.mask = p.mask ∧ FileSame g h ∧ t.op? n = some x ∧ x.sentKick c q v = true ∧ t.mem = s.mem) ∧
  (∀ c q v s x, s.ctx? c = some x → x.st ≠ .free → x.st ≠ .killing → x.st ≠ .killed → q < x.desc.nq →
    (x.queue q).st ≠ .disabled → (x.queue q).k < v.toNat →
    ∃ t, exec (.kick c q v) s = .next t ∧ (t.queue c q).k = v.toNat ∧ (t.queue c q).qrd = (x.queue q).qrd ∧
      (v.toNat < (x.queue q).qrd + 2 ^ (x.queue q).logn → (t.queue c q).st =
        if (x.queue q).st = .idle ∧ (x.queue q).qrd ≤ v.toNat then .reading else (x.queue q).st) ∧
      ((x.queue q).qrd + 2 ^ (x.queue q).logn ≤ v.toNat → ((x.queue q).st = .idle ∨ (x.queue q).st = .reading) →
        (t.queue c q).st = .stopped ∧ (t.queue c q).code = 0x80 ∧ t.links.intcause.testBit 0 = true) ∧
      ((x.queue q).st = .held → (t.queue c q).st = .held ∧ t.links = s.links) ∧
      (∀ o, s.ops.find? (fun o => o.sentKick c q v.toNat) = some o → t.op? o.id = none) ∧ t.mem = s.mem) ∧
  (∀ c q v s x, s.ctx? c = some x → (x.queue q).st ≠ .disabled → v.toNat ≤ (x.queue q).k → q < x.desc.nq → x.st ≠ .free →
    s.ops.find? (fun o => o.sentKick c q v.toNat) = none → exec (.kick c q v) s = .next s) ∧
  (∀ link page off v s, link < 2 → page < 256 → off < 0x200 → off % 8 = 0 → s.links.bells = [] →
    (s.linkReady link = true → exec (.doorbell link page off 8 v) s = .next (s.kick page (off / 8) v.toNat)) ∧
    (s.linkReady link = false → exec (.doorbell link page off 8 v) s =
      .next { s with links := { s.links with bells := [(link, page, off / 8, v.toNat)] } }))
/-- R276 to R279: `tlsig` retires with its update in flight on path 1, whose request goes to the timeline's
home once its release holds; `tlwait` sets its predicate when the timeline has reached the threshold before the
timeout, clears it when the timeout has passed, and until then waits at the word that it found (log 20, DEDUCED),
which it finds anew after an invalidation of the page (R379). It reads its operands with its windows ended (R139). -/
def Obligations.TimelineInstructions : Prop :=
  (∀ f s g p l x, Ready s (.tlsig f) g p → g.guard f.gd = true → s.Numbered →
    Granted s g p (atomWant .atomic 8 true .misaligned) false [(lowLane p.mask, g.timelineLoc p f.a)] [(l, x)] →
    let v := (g.rd64 p (192 + f.b.val) 0).toNat
    ∃ t h r o, exec (.tlsig f) s = .next t ∧ t.group? g.id = some h ∧ h.path? p.id = some r ∧
      r.pc = p.following (.tlsig f) ∧ r.mask = p.mask ∧ FileSame g h ∧ t.mem = s.mem ∧ t.op? s.nextId = some o ∧
      o.kind = .tlsig f.set v ∧ o.paths = [1] ∧ o.parts.map (fun y => (y.key, y.b)) = [(x.key, v)] ∧
      (s.released g (if f.sys then .system else .device) s.nextId = true → r.park = none ∧
        ∃ q ∈ t.reqs, q.op = s.nextId ∧ q.line = lineOf x.key ∧ q.parts = [0] ∧ some q.slice = (s.viaOf x.key).queue) ∧
      (s.released g (if f.sys then .system else .device) s.nextId = false → t.reqs = s.reqs ∧
        r.park = some (.tlsig s.nextId f.sys f.set (g.timelineLoc p f.a).a x.key v))) ∧
  (∀ i k s g p n sys set va key v o y, s.group? i = some g → g.id = i → g.path? k = some p → p.id = k →
    p.park = some (.tlsig n sys set va key v) → s.released g (if sys then .system else .device) n = true →
    g.phase ≠ .saved → s.signalHeld g n = false → s.op? n = some o → o.kind = .tlsig set v → o.parts = [y] → y.got = none →
    ∃ t h r, exec (.tlsigSent i k) s = .next t ∧ t.group? i = some h ∧ h.path? k = some r ∧ r.park = none ∧
      r.pc = p.pc ∧ FileSame g h ∧ t.mem = s.mem ∧
      ∃ q ∈ t.reqs, q.op = o.id ∧ q.line = lineOf y.key ∧ q.parts = [0] ∧ some q.slice = (s.viaOf y.key).queue) ∧
  (∀ i gd d a b ext sys us s g p l x, ((∃ f : TlwaitForm, i = .tlwait f ∧ gd = f.gd ∧ d = f.d ∧ a = f.a ∧ b = f.b ∧
      ext = f.ext ∧ sys = f.sys ∧ us = none) ∨ (∃ f : TlwaitExtForm, i = .tlwaitExt f ∧ gd = f.gd ∧ d = f.d ∧ a = f.a ∧
      b = f.b ∧ ext = true ∧ sys = f.sys ∧ us = some f.us.toNat)) →
    Ready s i g p → g.guard gd = true →
    let o : Path := { p with windows := [] }
    let thr := (g.rd64 o (192 + b.val) 0).toNat
    (p.park = none → x.lease ≠ 6 →
      s.begun.access g o (atomWant .load 8 true .misaligned) false [(lowLane p.mask, g.timelineLoc o a)] = .ok [(l, x)] →
      (thr ≤ s.read x.key 8 → PredResult i s g p true d [0] (fun _ => true)) ∧
      (s.read x.key 8 < thr → WaitsIn i s g p (.tlwait x.key (g.timelineLoc o a).a thr ext sys
        (us.map (fun n => s.time + n * 1000))))) ∧
    (∀ key va n e y dl, p.park = some (.tlwait key va n e y dl) →
      let met := n ≤ s.read key 8 ∧ (n = 0 ∨ ∀ t, dl = some t → s.time ≤ t)
      (p.timedOut = true → PredResult i s g p true d [0] (fun _ => false)) ∧
      (p.timedOut = false → met → PredResult i s g p true d [0] (fun _ => true)) ∧
      (p.timedOut = false → ¬met → key ≠ noKey → WaitsIn i s g p (.tlwait key va n e y dl)) ∧
      (p.timedOut = false → ¬met → key = noKey → x.lease ≠ 6 →
        s.begun.access g o (atomWant .load 8 true .misaligned) false [(lowLane p.mask, g.timelineLoc o a)] = .ok [(l, x)] →
        (n ≤ s.read x.key 8 → (∀ t, dl = some t → s.time ≤ t) → PredResult i s g p true d [0] (fun _ => true)) ∧
        (s.read x.key 8 < n → WaitsIn i s g p (.tlwait x.key (g.timelineLoc o a).a n ext sys dl))))) ∧
  (∀ i k s g p key va thr ext sys d, s.group? i = some g → g.id = i → g.path? k = some p → p.id = k →
    p.park = some (.tlwait key va thr ext sys (some d)) → d ≤ s.time →
    (s.read key 8 < thr ∨ (thr ≠ 0 ∧ d < s.time)) →
    exec (.tlwaitTimeout i k) s = .next (s.setGroup (g.setPath { p with timedOut := true })))
/-! ### Messages, links and the outside -/

/-- R397 to R403: `msend` retires with its message held here and its operation on path 7; `mrecv` takes the
lowest free entry, writes its receive id and completes when a message comes; `mprobe` reads the overflow
queue's first match.
R404 and R403: `mwaitr` on a complete receive writes its status and frees the entry, on one whose timeout
has passed writes all ones, and otherwise waits. -/
def Obligations.MessagesAndReceives : Prop :=
  ((∀ f s g p, Ready s (.msend f) g p → g.guard f.gd = true → g.count 7 < 63 →
     let dst := (g.rdS p f.a).toNat
     let len := (g.rdS p f.c).toNat
     let buf := g.buffer f.k (g.rdS p f.b).toNat
     s.bufferTrap g buf.space dst false buf.base len f.tag.toNat = none → s.routeUp g.ctx (dst % 512) f.route = true →
     Starts (.msend f) s g p (.msend buf len none) [] [7] ∧
     ∃ t h, exec (.msend f) s = .next t ∧ t.links.held = s.links.held ++ [h] ∧ h.ctx = some g.ctx ∧ h.unread = true ∧
       h.pkt.dstDev = dst % 512 ∧ h.pkt.dstClu = dst / 512 ∧ h.pkt.tag = f.tag.toNat ∧ h.pkt.len = len ∧
       h.pkt.srcClu = g.id.cluster ∧ h.pkt.srcDev = s.links.devnum ∧ h.pkt.op = s.nextId ∧
       h.pkt.seq = pairGet 0 s.links.seqOut (flowKey g.flow (dst % 512) (dst / 512))) ∧
   (∀ f s g p e, Ready s (.mrecv f) g p → g.guard f.gd = true → g.count 7 < 63 →
     let len := (g.rdS p f.c).toNat
     let buf := g.buffer f.k (g.rdS p f.b).toNat
     s.bufferTrap g buf.space (g.rdS p f.a).toNat true buf.base len f.tag.toNat = none → e < 128 →
     e ∉ s.entriesUsed g.id.cluster → (∀ k, k < e → k ∈ s.entriesUsed g.id.cluster) →
     (∀ o ∈ s.links.overflow, ¬(o.cluster = g.id.cluster ∧ o.ctx = g.ctx)) →
     let rid := (pairGet 0 s.links.rgen (g.id.cluster * 128 + e) + 1) % 256 * 256 + e
     ∃ t h o x, exec (.mrecv f) s = .next t ∧ t.group? g.id = some h ∧ Went g h p (p.following (.mrecv f)) p.stack ∧
       PredsSame g h ∧ (∀ k l, l < 32 → h.reg k l = if k = 192 + f.d.val then BitVec.ofNat 32 rid else g.reg k l) ∧
       t.ops = s.ops ++ [o] ∧ o.kind = .mrecv rid ∧ o.paths = [7] ∧ t.links.posted = s.links.posted ++ [x] ∧
       x.entry = e ∧ x.cluster = g.id.cluster ∧ x.ctx = g.ctx ∧ x.sel = (g.rdS p f.a).toNat ∧ x.tag = f.tag.toNat ∧
       x.len = len ∧ x.op = o.id ∧ x.status = none ∧ t.mem = s.mem) ∧
   (∀ f s g p, Ready s (.mprobe f) g p → s.links.wordOk (g.rdS p f.a).toNat true = true → f.tag.toNat < 0x8000 →
     LaneResult (.mprobe f) s g p 1 (.s f.d) (g.onceLanes f.gd) (fun _ =>
       match s.links.overflow.find? (fun o => o.cluster == g.id.cluster && o.ctx == g.ctx &&
           selMatches (g.rdS p f.a).toNat f.tag.toNat o.pkt) with
         | some o => BitVec.ofNat 64 (pktStatus o.pkt false % 2 ^ 32)
         | none => 0xFFFFFFFF))) ∧
  ((∀ i gd d a us s g p x, ((∃ ext, i = .mwaitr gd ext d a ∧ us = none) ∨ ∃ n : Word, i = .mwaitrExt gd d a n ∧ us = some n.toNat) →
     Ready s i g p → g.guard gd = true → p.park = none →
     let rid := (g.rdS { p with windows := [] } a).toNat
     rid < 65536 → rid.testBit 7 = false →
     s.posted? g.id.cluster rid = some x → x.kid = g.kid → x.crew = g.crew →
     (∀ v, x.status = some v → ∃ t h, exec i s = .next t ∧ t.group? g.id = some h ∧ Went g h p (p.following i) p.stack ∧
       PredsSame g h ∧ (∀ k l, l < 32 → h.reg k l = if k = 192 + d.val then BitVec.ofNat 32 v else g.reg k l) ∧
       (∀ y ∈ t.links.posted, y ∈ s.links.posted ∧ ¬(y.cluster = x.cluster ∧ y.entry = x.entry)) ∧ t.mem = s.mem) ∧
     (x.status = none → p.timedOut = true → LaneResult i s g p 1 (.s d) [0] (fun _ => 0xFFFFFFFF)) ∧
     (x.status = none → p.timedOut = false → ∃ ext, WaitsIn i s g p
       (.mwaitr rid ext (us.map (fun n => s.time + n * 1000))))) ∧
   (∀ i k s g p rid e d, s.group? i = some g → g.id = i → g.path? k = some p → p.id = k →
     p.park = some (.mwaitr rid e (some d)) → d ≤ s.time → p.timedOut = false →
     (∃ x, s.posted? i.cluster rid = some x ∧ x.status = none) →
     exec (.mwaitrTimeout i k) s = .next (s.setGroup (g.setPath { p with timedOut := true }))) ∧
   (∀ i k s g p n, s.group? i = some g → g.id = i → g.path? k = some p → p.id = k → p.park = some (.yield n) →
     n ≤ s.clock → ∃ t h q, exec (.yieldExpire i k) s = .next t ∧ t.group? i = some h ∧ h.path? k = some q ∧
       q.park = none ∧ q.pc = p.pc ∧ q.mask = p.mask ∧ FileSame g h ∧ t.mem = s.mem))

/-- R391 to R393, R395 to R398 and R401: a packet that comes in by an UP port, into slots that are free, is held; a
held packet at the head of its class leaves by its next hop when the neighbour has slots for it, which it takes;
a message at its destination, in its sender's order, goes to the first receive posted for it or to the overflow
queue, or of a saved context into its image, and is answered; the answer completes the send. -/
def Obligations.MessageTransport : Prop :=
  (∀ port pkt s, port < 8 → s.links.port port = 2 → s.links.roleOf port ≠ 0 →
    (s.links.seen port).extent ((s.links.roleOf port - 1) / 2) ≠ 1 → pkt.typ < 6 →
    (s.links.seen port).inExtents pkt.dstDev = true → pktFlits pkt ≤ s.links.inputFree port pkt.cls.val → exec (.packetHop (.enter port pkt)) s = .next { s with links := { s.links with
      held := s.links.held ++ [{ port := port, pkt := pkt, ctx := none, unread := false }] } }) ∧
  (∀ n s h hop c data, s.links.held[n]? = some h →
    let l := s.links.seen h.port
    h.pkt.dstDev ≠ l.devnum → l.atHead l.devnum n h = true → s.mayLeave h = true → (s.wayOf h).isSome = true →
    l.moves h.port h.pkt.srcDev h.pkt.dstDev h.pkt.cls.val (pktFlits h.pkt) h.pkt.route
      (s.tablePort (s.tableCtx h) h.pkt.dstDev) = some (hop, c) → s.payload h = some data →
    (c = l.classAfter h.port h.pkt.cls.val hop ∨ h.pkt.cls.val < 2 ∧ c = l.classAfter h.port (h.pkt.cls.val + 2) hop) ∧
    pktFlits h.pkt ≤ l.room hop.port c ∧
    ∃ t, exec (.packetHop (.forward n)) s = .next t ∧ t.links.held = s.links.held.eraseIdx n ∧ t.mem = s.mem ∧
      t.groups = s.groups ∧ (∃ x ∈ t.links.sent, x.port = hop.port ∧ x.pkt.cls.val = c ∧ x.pkt.payload = data) ∧ pairGet 0 t.links.spent (3 * hop.port + slotKind c) =
        pairGet 0 s.links.spent (3 * hop.port + slotKind c) + pktFlits h.pkt ∧
      (∀ k o buf len b, h.ctx = some k → s.op? h.pkt.op = some o → o.kind = .msend buf len b →
        ∃ x, t.op? h.pkt.op = some x ∧ x.kind = .msend buf len (some hop.port))) ∧
  (∀ n s h c data, s.links.held[n]? = some h → s.links.atEnd h = true → h.pkt.typ = 0 →
    h.pkt.seq = pairGet 0 s.links.seqIn (flowKey (h.pkt.flow * 512 + h.pkt.srcDev) h.pkt.dstDev h.pkt.dstClu) →
    s.payload h = some data → s.jobCtx h.pkt.job = some c → c.desc.place.testBit h.pkt.dstClu = true → c.replayMode = 0 →
    let answered := fun (t : State) => if h.ctx.isSome then t.links.held = s.links.held.eraseIdx n
      else ∃ a, t.links.held = s.links.held.eraseIdx n ++ [a] ∧ a.pkt.typ = 5 ∧ a.pkt.dstDev = h.pkt.srcDev ∧
        a.pkt.op = h.pkt.op
    (c.st = .saved → (c.msgImage.filter (fun m => m.1 == h.pkt.dstClu)).length < 64 →
      let key := c.desc.messageKey h.pkt.dstClu (c.msgImage.filter (fun m => m.1 == h.pkt.dstClu)).length
      ∃ t, exec (.messageArrival n) s = .next t ∧ answered t ∧ t.links.overflow = s.links.overflow ∧
        t.read key 16 = pktWord h.pkt % 2 ^ 128 ∧
        (∀ j, j < data.length → j < 2048 → t.byte (key + 64 + j) = data.getD j 0) ∧
        (∀ a, (a < key ∨ key + 64 + data.length ≤ a) → t.byte a = s.byte a) ∧ t.groups = s.groups) ∧
    (c.st ≠ .saved → (∀ x ∈ s.links.posted, ¬(x.cluster = h.pkt.dstClu ∧ x.ctx = c.num)) →
      (s.links.overflow.filter (fun o => o.cluster == h.pkt.dstClu)).length < 64 →
      ∃ t, exec (.messageArrival n) s = .next t ∧ answered t ∧ t.links.overflow =
        s.links.overflow ++ [{ cluster := h.pkt.dstClu, ctx := c.num, pkt := { h.pkt with payload := data } }] ∧
        t.mem = s.mem ∧ t.groups = s.groups) ∧
    (∀ x, c.st ≠ .saved → s.links.posted = [x] → x.cluster = h.pkt.dstClu → x.ctx = c.num → x.status = none →
      selMatches x.sel x.tag h.pkt = true →
      ∃ t, exec (.messageArrival n) s = .next t ∧ answered t ∧ t.op? x.op = none ∧
        t.links.posted = [{ x with status := some (pktStatus h.pkt (decide (h.pkt.len > x.len))) }] ∧
        (∀ a, (∀ k ∈ x.key, a < k ∨ k + 4 ≤ a) → t.byte a = s.byte a) ∧
        (∀ k rest, x.key = k :: rest → (∀ y ∈ rest, k + 4 ≤ y ∨ y + 4 ≤ k) → ∀ j, j < 4 → j < data.length →
          t.byte (k + j) = data.getD j 0))) ∧
  (∀ n s o buf len, s.op? n = some o → o.kind = .msend buf len (some 11) →
    ∃ t, exec (.messageAnswer n) s = .next t ∧ t.op? n = none ∧ t.mem = s.mem ∧
      ∀ g h, s.opGroup o = some g → t.group? g.id = some h → FileSame g h ∧
        ∀ x ∈ h.flights, x.op = n → x.path ∈ o.paths → x.done = true)
/-- R405: `ratom` to this device is an atomic in .x on path 4; to another it is a request for that device's
chip scratchpad on path 0, or on path 1 without a result, each lane with its offset. -/
def Obligations.RemoteAtomicsStart : Prop :=
  ∀ i s g p, ∀ f : Remote, ((∃ x, i = .ratom x ∧ f = remoteOf x) ∨ (∃ x, i = .ratomCas x ∧ f = remoteOfCas x)) →
    Ready s i g p → g.acting p f.g f.gd ≠ [] → (∀ k, g.count k < 63) → s.cong.mode ≠ 1 →
    let n := if f.w64 then 8 else 4
    let dev := (g.rdS p f.a).toNat
    let ls := g.acting p f.g f.gd
    let dest := f.d.map (fun d => resultDest f.g d (wregs f.w64) (maskOf ls))
    let b := g.num p f.w64 (.s f.c) 0
    let c := match f.e with
      | some e => g.num p f.w64 (.s e) 0
      | none => 0
    s.links.inExtents dev = true →
    (∀ ps, dev = s.links.devnum → s.begun.access g p (atomWant .atomic n f.g .misalignedAtomic) false
        (ls.map (fun l => (l, Loc.mk .x (g.rd p f.b.code l).toNat 0))) = .ok ps →
      Starts i s g p (.atom f.op f.w64 dest) (ps.map (fun x => x.2.part x.1 (g.owner f.g x.1) b c)) [4]) ∧
    (dev ≠ s.links.devnum → (∀ l ∈ ls, (g.rd p f.b.code l).toNat % n = 0) → s.routeUp g.ctx dev .minimal = true →
      ∃ parts, parts.map (fun y => (y.lane, y.key, y.size, y.via, y.b, y.c)) = ls.map (fun l =>
          (l, remoteKey dev ((s.ctxOf g.ctx).fabjob % 65536) (g.rd p f.b.code l).toNat, n, Via.peer dev, b, c)) ∧
        Starts i s g p (.ratom f.op f.w64 dest) parts [if f.d.isSome then 0 else 1])
/-- R26, R83, R99, R126, R391, R405 to R407: atomics and stores off the device are performed at the peer's port or
the adapter, one part at a time; accesses from outside, those of peers by packets that have come in by a port, are
applied to local memory, or to a context's share of chip scratchpad, byte for byte, but none to live kernel text,
and are answered; reads change nothing and bring the bytes, those of the host in device-register space as 8-byte
reads, and zero for 1, 2 and 16 bytes (R65). -/
def Obligations.OutsideAccesses : Prop :=
  (∀ n q s o i y op w64 d, Served s n q o i y → ((q.slice = 96 ∧ (o.kind = .atom op w64 d ∨
      (o.kind = .ratom op w64 d ∧ s.remoteRefusal y = none))) ∨ (q.slice = 97 ∧ o.kind = .atom op w64 d)) →
    ∃ t, exec (if q.slice = 96 then .peerIngressAtomic (.outbound n) else .hostAtomic n) s = .next t ∧
      WroteBytes s t y.key y.size (op.apply w64 (s.read y.key y.size) y.b y.c) ∧
      PartGot t q.op i (s.read y.key y.size)) ∧
  (∀ n q s o i y, Served s n q o i y → 96 ≤ q.slice → o.kind = .store →
    ∃ t, exec (.ingressWrite (.outbound n)) s = .next t ∧ WroteBytes s t y.key y.size y.b ∧ PartGot t q.op i 0) ∧
  (∀ i k share a w64 op b c s, s.peerPacket i 3 = some k → k.body = .atomic share a w64 op b c →
    let n := if w64 then 8 else 4
    (∀ key, s.peerWord k share a n = .ok key → a % n = 0 → s.textHit key n = none →
      ∃ t x y, exec (.peerIngressAtomic (.inbound i)) s = .next t ∧
        WroteBytes s t key n (op.apply w64 (s.read key n) b c) ∧ t.links.held = s.links.held.eraseIdx i ++ [x, y] ∧
        x.pkt.typ = 4 ∧ x.pkt.payload = (List.range n).map (fun j => BitVec.ofNat 8 (s.read key n / 256 ^ j)) ∧
        y.pkt.typ = 5 ∧ y.pkt.body = .reply 0 (s.rangeTw key n)) ∧
    (∀ e, s.peerWord k share a n = .error e → ∃ t x, exec (.peerIngressAtomic (.inbound i)) s = .next t ∧ t.mem = s.mem ∧
      t.links.held = s.links.held.eraseIdx i ++ [x] ∧ x.pkt.body = .reply e.num 0)) ∧
  (∀ i k pa size s, s.peerPacket i 2 = some k → k.body = .addr pa size → 0 < size → pa + size ≤ localEnd →
    ∃ t, exec (.ingressWrite (.inbound i)) s = .next t ∧ (s.textHit pa size = none → WroteBytes s t pa size (leNat k.payload)) ∧
      (s.textHit pa size ≠ none → t.mem = s.mem)) ∧
  (∀ link pa size data s, 0 < size → pa + size ≤ localEnd →
    ∃ t, exec (.hostWrite link pa size data) s = .next t ∧ (s.textHit pa size = none → WroteBytes s t pa size data) ∧
      (s.textHit pa size ≠ none → t.mem = s.mem)) ∧
  (∀ link pa size data s, 0 < size → pa + size ≤ localEnd → s.textHit pa size = none →
    ∃ t, exec (.hostWrite link pa size data) s = .next t ∧
      ∀ l ∈ linesIn pa size, s.writeTime l ≤ pairGet 0 t.links.linkTw link) ∧
  (∀ i s, ∃ t, exec (.ingressRead (.inbound i)) s = .next t ∧ t.mem = s.mem ∧ t.groups = s.groups ∧ t.ops = s.ops ∧
    ∀ k pa size, s.peerPacket i 1 = some k → k.body = .addr pa size → 0 < size → size ≤ 2048 → pa + size ≤ localEnd →
      ∃ x, t.links.held = s.links.held.eraseIdx i ++ [x] ∧ x.pkt.typ = 4 ∧
        x.pkt.payload = (List.range size).map (fun j => s.byte (pa + j))) ∧
  (∀ link pa size s, ∃ t, exec (.hostRead link pa size) s = .next t ∧ t.mem = s.mem ∧ t.groups = s.groups ∧
    t.ops = s.ops ∧
    (0 < size → pa + size ≤ localEnd → t.links.hostData = (List.range size).map (fun j => s.byte (pa + j))) ∧
    (bits pa 51 49 = 3 → size = 1 ∨ size = 2 ∨ size = 16 → t.links.hostData = List.replicate size 0) ∧
    (bits pa 51 49 = 3 → ∀ n, 0 < n → size = 8 * n → size ≠ 16 → pa % 8 = 0 → t.links.hostData =
      (List.range size).map (fun k =>
        BitVec.ofNat 8 (s.readSpace ((pa % 2 ^ 49 + k) / 8 * 8) 8 / 256 ^ ((pa % 2 ^ 49 + k) % 8)))))
/-- R388 to R392: LINK_ENABLE starts training from DOWN or FAILED, which leads to UP within 1 ms and to FAILED after
it; LINK_DISABLE and a failed retry or a lost fibre take a link out of UP; each move interrupts the host, and one
that nothing is in flight on loses nothing; a flit's check changes nothing; a credit report sets the neighbour's
free slots and starts the count of flits sent since (log 57). -/
def Obligations.LinkStates : Prop :=
  (∀ n s, n < 10 → s.links.link n = 0 ∨ s.links.link n = 3 → ∃ t, exec (.linkEnable n) s = .next t ∧ t.links.link n = 1 ∧
    pairGet 0 t.links.trainStart n = s.time ∧ t.links.intcause.testBit 4 = true ∧ t.groups = s.groups ∧ t.mem = s.mem) ∧
  (∀ n s, n < 10 → s.links.link n = 1 →
    (s.time < pairGet 0 s.links.trainStart n + 1000000 → ∃ t, exec (.linkTrained n) s = .next t ∧ t.links.link n = 2 ∧
      t.links.intcause.testBit 4 = true ∧ t.groups = s.groups ∧ t.mem = s.mem) ∧
    (pairGet 0 s.links.trainStart n + 1000000 ≤ s.time → ∃ t, exec (.linkTrainTimeout n) s = .next t ∧ t.links.link n = 3 ∧
      t.links.intcause.testBit 4 = true ∧ t.groups = s.groups ∧ t.mem = s.mem)) ∧
  (∀ e ∈ ([(Instr.linkDisable, 0), (Instr.linkRetryFail, 3), (Instr.fibreLockLoss, 3)] : List ((Nat → Instr) × Nat)),
    ∀ n s, n < 10 → s.links.link n = 2 → (∀ h ∈ s.links.held, s.bufferedOn n h = false) → (∀ r ∈ s.reqs, r.link ≠ some n) →
      (∀ o ∈ s.ops, o.sentBy n = false) →
      ∃ t, exec (e.1 n) s = .next t ∧ t.links.link n = e.2 ∧ t.links.intcause.testBit 4 = true ∧ t.groups = s.groups ∧
        t.mem = s.mem) ∧
  (∀ n ok s, exec (.flitReceive n ok) s = .next s) ∧
  (∀ port sh e0 e1 s, port < 8 → s.links.port port = 2 → ∃ t, exec (.creditReport port sh e0 e1) s = .next t ∧
    pairGet 0 t.links.free port = Nat.min sh 1024 + Nat.min e0 66 * 2 ^ 11 + Nat.min e1 66 * 2 ^ 18 ∧
    (∀ x ∈ t.links.spent, x.1 / 3 ≠ port) ∧
    t.groups = s.groups ∧ t.mem = s.mem)
/-! ### Trace, windows and translation -/

/-- R424 to R426: `trace` and `mark` put an entry of four doublewords in the core's FIFO, `trace` where the context
has a ring, and waits for a place; `mark` counts as lost what finds none; `evt` writes a USER record, alone of
its clock; the drain writes the oldest entry to its context's ring, but not over live text (R126); a write of TRCBASE starts its ring again. -/
def Obligations.TraceRecords : Prop :=
  (∀ i gd v s g p, ((∃ a : Fin 64, i = .trace gd a ∧ v = (g.rd64 p (192 + a.val) 0).toNat) ∨
      (∃ imm : DWord, i = .traceImm gd imm ∧ v = imm.toNat)) → Ready s i g p →
    ((g.guard gd = false ∨ s.traceRing g.ctx = none) → MovesTo i s g p (p.following i) p.stack) ∧
    (g.guard gd = true → s.traceRing g.ctx ≠ none → (s.fifo g.id.cluster g.id.core).length < 256 →
      ∃ t h, exec i s = .next t ∧ Retired s t g h p (p.following i) p.stack ∧ FileSame g h ∧
        t.fifo g.id.cluster g.id.core = s.fifo g.id.cluster g.id.core ++ [(g.ctx, [s.coreTime g.id.cluster g.id.core, v,
          p.mask.toNat + g.pcw p.pc * 2 ^ 32, g.gval.toNat + g.id.core * 2 ^ 32 + g.id.cluster * 2 ^ 37 + g.ctx * 2 ^ 42 +
            Nat.min 0x3FFF (pairGet 0 s.recorder.lost (g.id.cluster * 24 + g.id.core)) * 2 ^ 50])] ∧
        pairGet 0 t.recorder.lost (g.id.cluster * 24 + g.id.core) = 0) ∧
    (g.guard gd = true → s.traceRing g.ctx ≠ none → 256 ≤ (s.fifo g.id.cluster g.id.core).length →
      WaitsIn i s g p .trace)) ∧
  (∀ gd block s g p, Ready s (.mark gd block) g p →
    (g.guard gd = false → MovesTo (.mark gd block) s g p (p.following (.mark gd block)) p.stack) ∧
    (g.guard gd = true → ∃ t h, exec (.mark gd block) s = .next t ∧
      Retired s t g h p (p.following (.mark gd block)) p.stack ∧ FileSame g h ∧
      (256 ≤ (s.fifo g.id.cluster g.id.core).length → t.fifo g.id.cluster g.id.core = s.fifo g.id.cluster g.id.core ∧
        pairGet 0 t.recorder.lost (g.id.cluster * 24 + g.id.core) =
          pairGet 0 s.recorder.lost (g.id.cluster * 24 + g.id.core) + 1) ∧
      ((s.fifo g.id.cluster g.id.core).length < 256 → ∃ x, t.fifo g.id.cluster g.id.core =
        s.fifo g.id.cluster g.id.core ++ [(g.ctx, [s.coreTime g.id.cluster g.id.core, block.toNat, 2 ^ 60, x])]))) ∧
  (∀ gd code a s g p, Ready s (.evt gd code a) g p →
    MovesTo (.evt gd code a) s g p (p.following (.evt gd code a)) p.stack ∧
    (g.guard gd = true → (s.ring g.id.cluster g.id.core).frozen = false → p.park = none →
      (s.ring g.id.cluster g.id.core).head < 4096 → (s.ring g.id.cluster g.id.core).clock ≠ s.clock →
      ∃ t, exec (.evt gd code a) s = .next t ∧
        SMap.get 0 (t.ring g.id.cluster g.id.core).recs (((t.ring g.id.cluster g.id.core).head + 4095) % 4096) =
          recordWord 6 g.ctx g.id.slot (s.coreTime g.id.cluster g.id.core) (code.toNat * 2 ^ 62 + (g.rdS p a).toNat * 2 ^ 30 + g.pcw p.pc * 4))) ∧
  (∀ cluster core c ws rest s x, s.fifo cluster core = (c, ws) :: rest → s.ctx? c = some x →
    (s.traceRing c = none → exec (.traceDrain cluster core) s = .next (s.setFifo cluster core rest)) ∧
    (∀ base n, s.traceRing c = some (base, n) → x.st ≠ .free → x.st ≠ .killing → x.st ≠ .killed → ws.length = 4 →
      let key := base + 32 * (x.trace.trchead % 2 ^ n)
      ∃ t, exec (.traceDrain cluster core) s = .next t ∧ t.fifo cluster core = rest ∧
        t.ctx? c = some { x with trace := { x.trace with trchead := (x.trace.trchead + 1) % 2 ^ 64 } } ∧ t.groups = s.groups ∧
        (key + 32 ≤ 768 * 2 ^ 30 → s.marked key 32 = false → (∀ (j w : Nat), ws[j]? = some w → t.read (key + 8 * j) 8 = w % 2 ^ 64) ∧
          ∀ a, (a < key ∨ key + 32 ≤ a) → t.byte a = s.byte a))) ∧
  (∀ c v s, c < 256 → ∃ t y, exec (.trcbaseWrite c v) s = .next t ∧ t.ctx? c = some y ∧
    y.trace.trcbase = bits v.toNat 51 12 * 4096 + v.toNat % 32 ∧ y.trace.trchead = 0 ∧ y.st = (s.ctxOf c).st ∧
    y.err = ((s.ctxOf c).err || decide (v.toNat % 32 ≠ 0 ∧ ¬(10 ≤ v.toNat % 32 ∧ v.toNat % 32 ≤ 24))) ∧
    t.groups = s.groups ∧ t.mem = s.mem)
/-- R386: `bindw` and `unbindw` retire, and their slot is bound or unbound when their release has completed: at once,
or at BINDW_COMPLETE; operands that R386 refuses trap and bind nothing, in the lowest lane of the path (log 12,
DEDUCED). -/
def Obligations.ShadowWindows : Prop :=
  (∀ i slot b gd s g p, ((∃ f : BindwForm, i = .bindw f ∧ gd = f.gd ∧ slot = f.slot.val ∧
        (let base := (g.rd64 p (192 + f.a.val) 0).toNat
         let index := (g.rd64 p (192 + f.b.val) 0).toNat
         let n := (g.rdS p f.c).toNat
         1 ≤ n ∧ n ≤ 2 ^ 28 ∧ base % esizeBytes f.e = 0 ∧ index % 4 = 0 ∧ base < 2 ^ 56 ∧ index < 2 ^ 56 ∧
           b = some (esizeBytes f.e, base, index, n))) ∨
      (∃ w : Fin 64, i = .unbindw gd w ∧ slot = w.val ∧ b = none)) →
    Ready s i g p → g.guard gd = true →
    (∃ t h q, exec i s = .next t ∧ t.group? g.id = some h ∧ h.path? p.id = some q ∧
      q.pc = p.following i ∧ q.mask = p.mask ∧ q.stack = p.stack ∧ FileSame g h ∧ SpecialSame g h ∧ OthersSame g.id s t ∧
      t.mem = s.mem ∧ t.ops = s.ops ∧
      (s.released g .device s.nextId = true → q.park = none ∧ ∀ x, s.ctx? g.ctx = some x →
        ∃ y, t.ctx? g.ctx = some y ∧ (∀ e, e ∈ y.wins ↔ ((e ∈ x.wins ∧ e.1 ≠ slot) ∨
          ∃ u, b = some u ∧ e = (slot, { esize := u.1, base := u.2.1, index := u.2.2.1, n := u.2.2.2 })))) ∧
      (s.released g .device s.nextId = false → q.park = some (.bindw s.nextId slot b) ∧
        ∀ x, s.ctx? g.ctx = some x → ∃ y, t.ctx? g.ctx = some y ∧ y.wins = x.wins))) ∧
  (∀ i gd s g p, ((∃ f : BindwForm, i = .bindw f ∧ gd = f.gd) ∨ ∃ w : Fin 64, i = .unbindw gd w) → Ready s i g p →
    g.guard gd = false → MovesTo i s g p (p.following i) p.stack) ∧
  (∀ i k s g p n slot b x, s.group? i = some g → g.path? k = some p → p.park = some (.bindw n slot b) →
    g.phase ≠ .saved → s.released g .device n = true → s.ctx? g.ctx = some x →
    ∃ t h q y, exec (.bindwComplete i k) s = .next t ∧ t.group? i = some h ∧ h.path? k = some q ∧ q.park = none ∧
      q.pc = p.pc ∧ q.mask = p.mask ∧ FileSame g h ∧ t.mem = s.mem ∧ t.ctx? g.ctx = some y ∧
      ∀ e, e ∈ y.wins ↔ ((e ∈ x.wins ∧ e.1 ≠ slot) ∨
        ∃ u, b = some u ∧ e = (slot, { esize := u.1, base := u.2.1, index := u.2.2.1, n := u.2.2.2 }))) ∧
  (∀ f s g p, Ready s (.bindw f) g p → g.guard f.gd = true →
    let base := (g.rd64 p (192 + f.a.val) 0).toNat
    let index := (g.rd64 p (192 + f.b.val) 0).toNat
    let n := (g.rdS p f.c).toNat
    ∀ c, ((n = 0 ∨ 2 ^ 28 < n) ∧ c = Code.illegalOperand) ∨
      (1 ≤ n ∧ n ≤ 2 ^ 28 ∧ (base % esizeBytes f.e ≠ 0 ∨ index % 4 ≠ 0) ∧ c = Code.misaligned) ∨
      (1 ≤ n ∧ n ≤ 2 ^ 28 ∧ base % esizeBytes f.e = 0 ∧ index % 4 = 0 ∧ (2 ^ 56 ≤ base ∨ 2 ^ 56 ≤ index) ∧ c = Code.spaceBounds) →
    Traps (.bindw f) s g p c)
/-- R375, R377 and R379 to R381: a miss starts or joins the walk of its page; a walk that finds a leaf enters it
in the caches of the clusters that joined it, and one that fails marks the paths that wait; a host-assisted fault
is recorded in the ring with an interrupt and the TIME of the fault, and its answer lifts or fails the waits on its
page, and a write of PFTAIL lets a crew's placement that found the ring full write its record; TLBINV drops the cached
entries of its range, has a `tlwait` there find its word anew (log 20, DEDUCED), and completes after the accesses issued
before and the walks of the range that were in flight. -/
def Obligations.TranslationAndFaults : Prop :=
  (∀ c cluster va s, s.wantsPage c cluster (pageOf va) = true →
    ((∃ w ∈ s.page.walks, w.ctx = c ∧ w.page = pageOf va) ∨
      (s.page.walks.filter (fun w => w.page / 65536 % 96 == pageOf va / 65536 % 96)).length < 64) →
    ∃ t, exec (.translationWalk c cluster va) s = .next t ∧ (∃ w ∈ t.page.walks, w.ctx = c ∧ w.page = pageOf va ∧
      cluster ∈ w.clusters) ∧ t.page.tlb = s.page.tlb ∧ t.groups = s.groups ∧ t.mem = s.mem) ∧
  (∀ c va s w, s.page.walks.find? (fun w => w.ctx == c && w.page == pageOf va) = some w →
    (∀ x ∈ s.page.wcache, x.1 ≠ c) →
    (∀ e b, s.walk c (pageOf va) = .ok (e, b) → ∃ t, exec (.walkComplete c va) s = .next t ∧ t.groups = s.groups ∧
      t.mem = s.mem ∧ (∀ w ∈ t.page.walks, ¬(w.ctx = c ∧ w.page = pageOf va)) ∧ ∀ k ∈ w.clusters, ∃ x ∈ t.page.tlb,
        x.cluster = k ∧ x.ctx = c ∧ x.page = pageOf va / 2 ^ b * 2 ^ b ∧ x.bits = b ∧ x.leaf = BitVec.ofNat 64 e) ∧
    (∀ level, s.walk c (pageOf va) = .error level → ∃ t, exec (.walkComplete c va) s = .next t ∧ t.page.tlb = s.page.tlb ∧
      t.mem = s.mem ∧ ∀ g ∈ s.groups, g.ctx = c → g.id.cluster ∈ w.clusters → ∀ p ∈ g.paths, ∀ pages,
        p.park = some (.walk pages) → pageOf va ∈ pages → ∃ h ∈ t.groups, h.id = g.id ∧ ∃ q ∈ h.paths, q.id = p.id ∧
          q.pc = p.pc ∧ (pageOf va, level, false) ∈ q.failed)) ∧
  (∀ i k page s g p todo kind pages time level, s.group? i = some g → g.path? k = some p →
    p.park = some (.hostFault todo pages time) → todo.find? (fun x => x.1 == page) = some (page, level, kind) →
    (∀ r ∈ s.page.recs, ¬(r.ctx = g.ctx ∧ r.page = page)) → s.page.pfhead - s.page.pftail < 4096 →
    let key := hostKey (s.page.pfbase + 32 * (s.page.pfhead % 4096))
    ∃ t h q, exec (.pageFaultRecord i k page) s = .next t ∧ t.page.pfhead = (s.page.pfhead + 1) % 2 ^ 64 ∧
      (∀ (j w : Nat), [s.page.pfhead, page, g.ctx + kind * 2 ^ 8 + level * 2 ^ 10, time][j]? = some w →
        t.read (key + 8 * j) 8 = w % 2 ^ 64) ∧ (∀ a, (a < key ∨ key + 32 ≤ a) → t.byte a = s.byte a) ∧
      t.links.intcause.testBit 1 = true ∧ { seq := s.page.pfhead, ctx := g.ctx, page := page } ∈ t.page.recs ∧
      t.group? i = some h ∧ h.path? k = some q ∧ FileSame g h ∧ q.pc = p.pc ∧
      q.park = some (.hostFault (todo.filter (fun x => x.1 != page)) pages time)) ∧
  (∀ v s r, s.page.recs.find? (fun r => r.seq == v.toNat / 2) = some r →
    (v.getLsbD 0 = true → ∀ l ∈ s.launches, l.ctx = r.ctx → ∀ w ∈ l.argWait, pageOf w.1 ≠ r.page) →
    ∃ t, exec (.pfresp v) s = .next t ∧ (∀ l ∈ t.launches, l.ctx = r.ctx → ∀ w ∈ l.argWait, pageOf w.1 ≠ r.page) ∧ (∀ x ∈ t.page.recs, x ∈ s.page.recs ∧ x.seq ≠ v.toNat / 2) ∧ t.mem = s.mem ∧
      ∀ g ∈ s.groups, g.ctx = r.ctx → ∀ p ∈ g.paths, ∀ todo pages time, p.park = some (.hostFault todo pages time) →
        r.page ∈ pages → ∃ h ∈ t.groups, h.id = g.id ∧ FileSame g h ∧ ∃ q ∈ h.paths, q.id = p.id ∧ q.pc = p.pc ∧
          (v.getLsbD 0 = false → ∀ f ∈ q.failed, f.1 ≠ r.page) ∧
          (v.getLsbD 0 = true → ∀ f ∈ q.failed, f.1 = r.page → f.2.2 = true)) ∧
  (∀ v s, s.page.recs.find? (fun r => r.seq == v.toNat / 2) = none → exec (.pfresp v) s = .next s) ∧
  (∀ v s, ∃ t, exec (.pftailWrite v) s = .next t ∧ t.page.pftail = v.toNat ∧ t.groups = s.groups ∧
    ((∀ l ∈ s.launches, l.argWait = none) → t.page.pfhead = s.page.pfhead ∧ t.page.recs = s.page.recs ∧ t.mem = s.mem) ∧
    ∀ l va level time, s.launches.filter (fun l => l.argWait.isSome) = [l] → l.argWait = some (va, level, time) →
      (∀ r ∈ s.page.recs, ¬(r.ctx = l.ctx ∧ r.page = pageOf va)) → s.page.pfhead - v.toNat < 4096 →
      { seq := s.page.pfhead, ctx := l.ctx, page := pageOf va } ∈ t.page.recs ∧ t.links.intcause.testBit 1 = true) ∧
  (∀ v s, ∃ t, exec (.tlbinv v) s = .next t ∧ t.groups = s.groups ∧ t.mem = s.mem ∧ t.page.tlb = s.page.tlb ∧
    (s.page.inv.length < 16 → t.page.inv = s.page.inv ++ [(v, none)] ∧ t.ctxs = s.ctxs) ∧
    (16 ≤ s.page.inv.length → t.page.inv = s.page.inv ∧ (t.ctxOf (bits v.toNat 15 8)).err = true)) ∧
  (∀ v s rest, s.page.inv = (v, none) :: rest → ∃ t, exec .tlbinvComplete s = .next t ∧ t.mem = s.mem ∧
    (∀ i g, s.group? i = some g → ∃ h, t.group? i = some h ∧ FileSame g h ∧
      h.paths.map (fun q => (q.id, q.pc, q.mask, q.stack)) = g.paths.map (fun q => (q.id, q.pc, q.mask, q.stack)) ∧
      (g.ctx = bits v.toNat 15 8 → ∀ p ∈ g.paths, ∀ key va n e y d, p.park = some (.tlwait key va n e y d) →
        overlap va 8 (tlbRange v).1 (tlbRange v).2 = true →
        ∃ q ∈ h.paths, q.id = p.id ∧ q.park = some (.tlwait noKey va n e y d))) ∧ (∀ x, x ∈ t.page.tlb ↔ (x ∈ s.page.tlb ∧ ¬(x.ctx = bits v.toNat 15 8 ∧
      overlap x.page (2 ^ x.bits) (tlbRange v).1 (tlbRange v).2 = true))) ∧
    ((∀ o ∈ s.ops, o.ctx = bits v.toNat 15 8 → s.nextId ≤ o.id) → (∀ w ∈ s.page.walks, w.ctx = bits v.toNat 15 8 →
      overlap w.page 65536 (tlbRange v).1 (tlbRange v).2 = true → s.nextId ≤ w.since) → t.page.inv = rest) ∧
    (((∃ o ∈ s.ops, o.ctx = bits v.toNat 15 8 ∧ o.id < s.nextId) ∨ (∃ w ∈ s.page.walks, w.ctx = bits v.toNat 15 8 ∧
      overlap w.page 65536 (tlbRange v).1 (tlbRange v).2 = true ∧ w.since < s.nextId)) →
      t.page.inv = (v, some s.nextId) :: rest))
/-! ### Slots, packets and kernels -/

/-- R301 to R304, R298, R312, R314 and R315: a slot that stood free when the clock began takes the ready fragment of
lowest WID, which keeps its record number (log 52, DEDUCED, in which record a fragment gets); a free split-table entry
takes the core's oldest spilled fragment;
when a ready fragment holds the lowest live WID and the run has ended, the higher path gives up its slot at the
first boundary without a window; a draining group that has ended leaves its exit record and its slot; a clock
without an issue counts in one stall counter; a marked group that was passed over ranks first, in the order of its
mark. R147, R255 and R305: the return addresses that a core does not hold, and the records of spilled fragments, are
kept in the save area, the oldest address lowest (log 9, DESIGN CHOICE). -/
def Obligations.SlotsAndFragments : Prop :=
  (∀ i slot s g p, s.group? i = some g → g.moving = true → g.slotPath? slot = none → slot ∈ g.vacant →
    p ∈ s.readyFragments g → g.path? p.id = some p →
    (∀ q ∈ s.readyFragments g, q = p ∨ g.lowWid p.mask < g.lowWid q.mask) →
    let q : Path := { p with place := .slot slot, kept := p.record? }
    ∃ t h, exec (.fragmentSlotFill i slot) s = .next t ∧ t.group? i = some h ∧
      h.path? p.id = some q ∧ (∀ k, k ≠ p.id → h.path? k = g.path? k) ∧ FileSame g h ∧
      SpecialSame g h ∧ OthersSame i s t ∧ WroteWords s t (s.deepKey g q) q.deep) ∧
  (∀ i slot s g, s.group? i = some g → slot ∉ g.vacant → exec (.fragmentSlotFill i slot) s = .next s) ∧
  (∀ cluster core s g p, s.group? g.id = some g → (g, p) ∈ s.spilledOn cluster core → g.path? p.id = some p →
    g.frame = none → s.splitUsed cluster core < 64 →
    (∀ x ∈ s.spilledOn cluster core, x = (g, p) ∨ p.dtime < x.2.dtime) →
    ∃ t h q, exec (.fragmentUnspill cluster core) s = .next t ∧ t.group? g.id = some h ∧ h.path? p.id = some q ∧
      q.inTable = true ∧ q.record? = p.record? ∧ q.pc = p.pc ∧ q.mask = p.mask ∧ q.stack = p.stack ∧ q.park = p.park ∧
      (∀ k, k ≠ p.id → h.path? k = g.path? k) ∧ FileSame g h ∧ SpecialSame g h ∧ OthersSame g.id s t ∧
      WroteWords s t (s.deepKey g q) q.deep) ∧
  (∀ i s g a b f out, s.group? i = some g → g.moving = true → g.slotPath? 0 = some a → g.slotPath? 1 = some b →
    f ∈ s.readyFragments g → g.lowWid f.mask = g.lowWid g.live →
    out = (if g.lowWid b.mask ≤ g.lowWid a.mask then a else b) → g.path? out.id = some out →
    (out.windows = [] → (g.swapDue = true ∨ s.runOver g = true) →
      ∃ t h y, exec (.pathSwap i) s = .next t ∧ t.group? i = some h ∧ (∀ k, k ≠ out.id → h.path? k = g.path? k) ∧
        h.path? out.id = some y ∧ (∃ r b, y.place = .queued r b) ∧ y.pc = out.pc ∧ y.mask = out.mask ∧
        y.stack = out.stack ∧ y.park = out.park ∧ h.swapDue = false ∧ FileSame g h ∧ SpecialSame g h ∧
        OthersSame i s t ∧ FragKept s t g y) ∧
    (out.windows ≠ [] → g.swapDue = false → s.runOver g = true →
      exec (.pathSwap i) s = .next (s.setGroup { g with swapDue := true })) ∧
    (g.swapDue = false → s.runOver g = false → exec (.pathSwap i) s = .next s)) ∧
  (∀ i s g, s.group? i = some g → s.ended g = true →
    let b := (s.desc g.ctx).save
    let n := s.read (b + 0x7FF8) 8
    ∃ t, exec (.groupEnd i) s = .next t ∧ t.group? i = none ∧ (∀ j, j ≠ i → t.group? j = s.group? j) ∧
      (∀ (j w : Nat), (g.exitWords s.time false false)[j]? = some w →
        t.read (b + 0x8000 + 128 * (n % 256) + 8 * j) 8 = w % 2 ^ 64) ∧ t.read (b + 0x7FF8) 8 = (n + 1) % 2 ^ 64 ∧
      (∀ a, (a < b + 0x8000 + 128 * (n % 256) ∨ b + 0x8000 + 128 * (n % 256) + 128 ≤ a) →
        (a < b + 0x7FF8 ∨ b + 0x8000 ≤ a) → t.byte a = s.byte a) ∧
      (∀ x ∈ (t.engine g.engineNum).tiles, x.owner ≠ i)) ∧
  (∀ i s g, s.group? i = some g → g.phase ≠ .saved → g.lastIssue ≠ some s.clock → g.stalledAt ≠ some s.clock →
    let r := (s.stallReason g).1
    ∃ t h, exec (.stallClock i) s = .next t ∧ t.group? i = some h ∧
      SMap.get 0 h.stall r = (if SMap.get 0 g.stall r = 0xFFFFFFFF then 0xFFFFFFFF else SMap.get 0 g.stall r + 1) ∧
      (∀ k, k ≠ r → SMap.get 0 h.stall k = SMap.get 0 g.stall k) ∧ h.stalledAt = some s.clock ∧ FileSame g h ∧
      SpecialSame g h ∧ h.paths = g.paths ∧ OthersSame i s t ∧ t.mem = s.mem) ∧
  (∀ i s g w t, s.group? i = some g → g.mark = some (w, t) → g.markFirst = none → 256 ≤ g.markWait →
    exec (.progressMarkFirst i) s = .next (s.setGroup { g with markFirst := some t }))
/-- R268, R269, R271 to R273, R275, R290 and R291: a packet whose SEAL is its number enters the dispatcher, with its
regions, or stops its queue where the matcher has no room; a malformed one completes; one without its seal is
read again up to eight times and then stops the queue as torn; a wait is met by its timeline; a marker that is
ready, not late under DROP, and named by the host where the host orders packets, completes after the packets
before it, and a DROP packet that has not started completes at its deadline. -/
def Obligations.Packets : Prop :=
  (∀ i c q n s b, ((i = .packetRead c q ∧ (s.queue c q).reread = none ∧ n = 1) ∨
      ∃ m u, i = .sealReread c q ∧ (s.queue c q).reread = some (m, u) ∧ u ≤ s.time ∧ n = m + 1) →
    (s.queue c q).st = .reading → s.running c = true → s.packetBytes c (s.queue c q) = .ok b →
    (bits (b / 2 ^ 960) 63 0 = (s.queue c q).qrd →
      (∀ l, s.parsePacket b c q (s.queue c q).qrd = (l, true) → s.matcherUsed + l.regions.length ≤ 1024 →
        (∀ d ∈ (s.ctxOf c).dispatchWait, ¬(d.1 = q ∧ d.2.1 = (s.queue c q).qrd % 65536)) →
        ∃ t, exec i s = .next t ∧ t.launches = s.launches ++ [l] ∧ t.nextId = s.nextId + 1 ∧
          t.queue c q = (s.queue c q).passed ∧ t.groups = s.groups ∧ t.mem = s.mem) ∧
      (∀ l, s.parsePacket b c q (s.queue c q).qrd = (l, true) → 1024 < s.matcherUsed + l.regions.length →
        ∃ t, exec i s = .next t ∧ t.launches = s.launches ∧ (t.queue c q).st = .stopped ∧ (t.queue c q).code = 0x82 ∧
          (t.queue c q).qrd = (s.queue c q).qrd ∧ t.links.intcause.testBit 0 = true ∧ t.mem = s.mem) ∧
      (∀ l, s.parsePacket b c q (s.queue c q).qrd = (l, false) → l.sten = false → l.sigen = false →
        ∃ t, exec i s = .next t ∧ (t.queue c q).qrd = (s.queue c q).qrd + 1 ∧
          t.launches = s.launches.filter (fun x => x.kid != s.nextId) ∧ t.groups = s.groups ∧ t.mem = s.mem)) ∧
    (bits (b / 2 ^ 960) 63 0 ≠ (s.queue c q).qrd → ∃ t, exec i s = .next t ∧ t.launches = s.launches ∧
      t.groups = s.groups ∧ t.mem = s.mem ∧ (t.queue c q).qrd = (s.queue c q).qrd ∧
      (n ≤ 8 → (t.queue c q).st = .reading ∧ (t.queue c q).reread = some (n, s.time + 256 * 2 ^ (n - 1))) ∧
      (8 < n → (t.queue c q).st = .stopped ∧ (t.queue c q).code = 0x80 ∧ t.links.intcause.testBit 0 = true))) ∧
  (∀ kid s l v, s.launch? kid = some l → l.st = .read → l.ready = false → s.running l.ctx = true →
    s.devRead l.ctx l.waittl 8 = .ok v →
    (l.waitval ≤ v → ∃ t, exec (.waitTimelineTest kid) s = .next t ∧ t.launch? kid = some { l with ready := true } ∧
      t.groups = s.groups ∧ t.mem = s.mem) ∧
    (v < l.waitval → exec (.waitTimelineTest kid) s = .next s)) ∧
  (∀ i kid s l x code, s.launch? kid = some l → s.ctx? l.ctx = some x → x.st ≠ .killing → x.st ≠ .killed →
    ((i = .markerComplete kid ∧ l.marker = true ∧ l.st = .read ∧ l.ready = true ∧ s.running l.ctx = true ∧
        s.lateDrop l = false ∧ s.earlierDone l = true ∧ s.hostNamed l = true ∧ code = 0) ∨
      (i = .deadlineDrop kid ∧ l.st = .read ∧ (s.queue l.ctx l.q).drop = true ∧ l.deadline ≠ noDeadline ∧
        l.deadline < s.time ∧ code = 0x81)) →
    let late := l.deadline ≠ noDeadline ∧ l.deadline < s.time
    ∃ t, exec i s = .next t ∧ t.launch? kid = none ∧
      (late → (x.queue l.q).misses < 2 ^ 32 - 1 → (t.queue l.ctx l.q).misses = (x.queue l.q).misses + 1) ∧
      (l.sten = false → ∀ k, l.sigen = true → s.timelineKey l.ctx l.sigtl = .ok k →
        WroteBytes s t k 8 (Nat.max (s.read k 8) l.sigval)) ∧
      (l.sigen = false → l.sten = true → s.statusOk l.ctx l.status = true →
        t.mem = ((s.devWrite l.ctx l.status (code + if late then 2 ^ 8 else 0)).devWrite l.ctx (l.status + 8) s.time).mem) ∧
      (l.sigen = false → l.sten = false → t.mem = s.mem))
/-- R273, R283, R285, R287 and R288: the dispatcher places the next crew of the packet that it ranks first: the
packet has started, the crew's groups run from the text with the argument words in s0 on, and nothing else of the
other groups changes; a packet whose first crew's arguments cannot be read completes. R100, R252, R293 and R471:
the boundary empties every L1, whose private words go back to their homes, and falls when the kernel's stores and these
write-backs are complete; a crew retires when it is done;
the packet completes after the boundary, and abandoned tiles end the kernel or wait for the host's choice. A
launch of a context that is being killed does not retire by itself. That HANDLER of a placed group is 0 is the
model's choice (log 5, DESIGN CHOICE); the ranges of a placement are log 6, the home of shared pools log 33. -/
def Obligations.Kernels : Prop :=
  (∀ kid ch s l plan ws, s.chosen = some l → l.kid = kid → s.launch? kid = some l → s.placement l = some plan →
    s.argWords l.ctx l.args l.hdr.nargs = .ok ws →
    ∃ t m c new, exec (.crewPlace kid ch) s = .next t ∧ t.launch? kid = some m ∧ m.st = .started ∧ m.nextCrew = l.nextCrew + 1 ∧
      t.crews = s.crews ++ [c] ∧ c.kid = kid ∧ c.crew = l.nextCrew ∧ c.cluster = plan.cluster ∧ s.allowed l plan.cluster = true ∧
      c.teams.map (fun x => (x.home, x.cbase)) = plan.teams.map (fun x => (x.home, x.cbase)) ∧
      t.groups = s.groups ++ new ∧ ∀ g ∈ new, g.kid = kid ∧ g.crew = l.nextCrew ∧ g.ctx = l.ctx ∧ g.hdr = l.hdr ∧
        g.id.cluster = plan.cluster ∧ g.phase = .live ∧ g.age = s.time ∧ g.handler = 0 ∧
        (∀ p ∈ g.paths, p.pc = BitVec.ofNat 64 l.hdr.text ∧ p.stack = [] ∧ p.place = .slot 0 ∧ p.park = none ∧
          p.mask = maskOf (g.threads.map (·.1))) ∧ (∀ k l, g.reg k l = if 192 ≤ k then ws.getD (k - 192) 0 else 0) ∧
        ∀ k, k < 7 → g.pred k = 0 ∧ g.qpred k = false) ∧
  (∀ kid ch s l plan c va, s.chosen = some l → l.kid = kid → s.launch? kid = some l → s.placement l = some plan →
    s.argWords l.ctx l.args l.hdr.nargs = .error (c, va) → l.st = .read →
    ∃ t, exec (.crewPlace kid ch) s = .next t ∧ t.launch? kid = none ∧ t.crews = s.crews) ∧
  (∀ kid s l, s.launch? kid = some l → s.kernelDone l = true → s.running l.ctx = true →
    let backs := s.emptyL1.ops.filter (fun o => o.kid == kid)
    ((∀ y ∈ s.l1, ∀ c, y.kind ≠ .priv c) → backs = []) ∧
    ∃ t m, exec (.kernelBoundary kid) s = .next t ∧ t.l1 = [] ∧ t.launch? kid = some m ∧
      (s.time < l.tw ∨ backs ≠ [] → m.st = l.st ∧ t.page = s.page ∧ ∀ o ∈ backs, o ∈ t.ops) ∧
      (l.tw ≤ s.time → backs = [] → m.st = .boundary ∧ (∀ x ∈ t.page.tlb, ¬(x.ctx = l.ctx ∧ leafLease x.leaf.toNat = 6)) ∧
        ∀ x, s.ctx? l.ctx = some x → x.st = .resident → (∀ y ∈ s.launches, y.ctx = l.ctx → y.kid ≠ kid → y.st ≠ .started) →
          ∃ y, t.ctx? l.ctx = some y ∧ y.st = .idle)) ∧
  (∀ kid crew s l c, s.crew? kid crew = some c → s.launch? kid = some l → s.crewDone c = true →
    ∃ t m, exec (.crewRetire kid crew) s = .next t ∧ t.crew? kid crew = none ∧ t.launch? kid = some m ∧
      m.retired = l.retired + 1 ∧ m.abandoned = l.abandoned + sumNat ((l.hdr.pools.zip c.parts).map (fun x => x.2.held)) ∧
      t.groups = s.groups ∧ t.mem = s.mem) ∧
  (∀ kid s l, s.launch? kid = some l → s.alive l.ctx = false → exec (.kernelRetire kid) s = .next s) ∧
  (∀ kid s l, s.launch? kid = some l → l.st = .boundary → s.alive l.ctx = true → (∀ c ∈ s.crews, c.kid ≠ kid) →
    (l.abandoned = 0 ∨ (l.abandonFault = false ∧ (l.hostChoice = some false ∨ (s.desc l.ctx).mode 70 = false ∧ l.hostChoice = none)) →
      ∃ t, exec (.kernelRetire kid) s = .next t ∧ t.launch? kid = none ∧ (∀ e ∈ t.cells, e.kid ≠ kid)) ∧
    (l.abandoned ≠ 0 → l.abandonFault = false → (s.desc l.ctx).mode 70 = true → l.hostChoice = none →
      exec (.kernelRetire kid) s = .next s ∧ ∀ b, exec (.hostAbandonChoice kid b) s =
        .next (s.modLaunch kid (fun l => { l with hostChoice := some b }))) ∧
    (∀ x, l.abandoned ≠ 0 → (l.abandonFault = true ∨ l.hostChoice = some true) → s.ctx? l.ctx = some x →
      x.st ≠ .free → ∃ t y, exec (.kernelRetire kid) s = .next t ∧ t.ctx? l.ctx = some y ∧
        y.st = .killing ∧ y.lastcode = 0x42 ∧ ∀ g ∈ t.groups, g.ctx ≠ l.ctx))
/-! ### Queue and context commands -/

/-- R266, R268 and R274: QUEUE_ENABLE of a disabled queue takes its descriptor, QUEUE_DISABLE discards packets that
have been read and not started, QUEUE_RESTART leaves STOPPED, and DISPATCH names a packet, read and not started or still to
be read (log 56); a command that the queue's state does not allow sets ERR and changes nothing else. -/
def Obligations.QueueCommands : Prop :=
  (∀ c q s x d, s.ctx? c = some x → c < 256 → x.st ≠ .free → q < x.desc.nq → (x.queue q).st = .disabled →
    queueDesc (s.read (x.desc.save + 0x1000 + 64 * q) 64) = some d →
    ∃ t, exec (.queueEnable c q) s = .next t ∧ t.queue c q = { d with code := (x.queue q).code, misses := (x.queue q).misses } ∧
      (∀ k, k ≠ q → t.queue c k = s.queue c k) ∧ t.launches = s.launches ∧ t.groups = s.groups ∧ t.mem = s.mem) ∧
  (∀ c q s x, s.ctx? c = some x → x.st ≠ .free → q < x.desc.nq → (x.queue q).st ≠ .disabled →
    ∃ t, exec (.queueDisable c q) s = .next t ∧ (t.queue c q).st = .disabled ∧ (t.queue c q).reread = none ∧
      (∀ k, k ≠ q → t.queue c k = s.queue c k) ∧ t.groups = s.groups ∧ t.mem = s.mem ∧
      (∀ l, l ∈ t.launches ↔ (l ∈ s.launches ∧ ¬(l.ctx = c ∧ l.q = q ∧ l.st = .read)))) ∧
  (∀ c q s x, s.ctx? c = some x → x.st ≠ .free → q < x.desc.nq → (x.queue q).st = .stopped →
    ∃ t, exec (.queueRestart c q) s = .next t ∧
      (t.queue c q).st = (if (x.queue q).qrd ≤ (x.queue q).k then .reading else .idle) ∧
      (t.queue c q).qrd = (x.queue q).qrd ∧ (∀ k, k ≠ q → t.queue c k = s.queue c k) ∧ t.launches = s.launches ∧
      t.groups = s.groups ∧ t.mem = s.mem) ∧
  (∀ c q seq s x, s.ctx? c = some x → x.st ≠ .free → q < x.desc.nq →
    let named := s.launches.find? (fun l => l.ctx == c && l.q == q && l.seq % 65536 == seq % 65536 && l.st == .read)
    (∀ l, named = some l → s.launch? l.kid = some l → l.dispatched = none → ∃ t m, exec (.queueDispatch c q seq) s = .next t ∧
        t.launch? l.kid = some m ∧ m.dispatched = some s.nextId ∧ m.st = .read ∧ t.nextId = s.nextId + 1 ∧
        t.groups = s.groups ∧ t.mem = s.mem) ∧
    (∀ l n, named = some l → l.dispatched = some n → exec (.queueDispatch c q seq) s = .next s) ∧
    (named = none →
      ((x.queue q).names (seq % 65536) = true → ∃ t y, exec (.queueDispatch c q seq) s = .next t ∧ t.ctx? c = some y ∧
        y.dispatchWait = x.dispatchWait ++ [(q, seq % 65536, s.nextId)] ∧ t.nextId = s.nextId + 1 ∧
        t.launches = s.launches ∧ t.groups = s.groups ∧ t.mem = s.mem) ∧
      ((x.queue q).names (seq % 65536) = false → exec (.queueDispatch c q seq) s = .next (s.err c)))) ∧
  (∀ i c q s, c < 256 →
    ((i = .queueEnable c q ∧ ((s.ctxOf c).st = .free ∨ (s.ctxOf c).desc.nq ≤ q ∨ (s.queue c q).st ≠ .disabled ∨
        queueDesc (s.read ((s.ctxOf c).desc.save + 0x1000 + 64 * q) 64) = none)) ∨
      (i = .queueDisable c q ∧ ((s.ctxOf c).st = .free ∨ (s.ctxOf c).desc.nq ≤ q ∨ (s.queue c q).st = .disabled)) ∨
      (i = .queueRestart c q ∧ ((s.ctxOf c).st = .free ∨ (s.ctxOf c).desc.nq ≤ q ∨ (s.queue c q).st ≠ .stopped)) ∨
      (∃ n, i = .queueDispatch c q n ∧ ((s.ctxOf c).st = .free ∨ (s.ctxOf c).desc.nq ≤ q))) →
    exec i s = .next (s.err c) ∧ (s.err c).ctxOf c = { s.ctxOf c with err := true })
/-- R252 to R254, R256, R268 and R382: what each context command does in the states that allow it, and that in the
others it sets ERR alone; DESTROY drops the cached translations. That a RESUME which finds no placement, or another
context before it, leaves the context SAVED and waiting is the model's reading of R258 (log 35, DEDUCED). -/
def Obligations.ContextCommands : Prop :=
  (∀ c s d b, c < 256 → (s.ctxOf c).st = .free → descOf (s.read (s.ctxtab + 32 * c) 32) = some d → d.legal = true →
    gap s.chipTaken 0 (2 ^ 20) (1024 * d.xshare) = some b →
    ∃ t y, exec (.ctxCreate c) s = .next t ∧ t.ctx? c = some y ∧ y.st = .idle ∧ y.desc = d ∧ y.xbase = b ∧ y.wins = [] ∧
      y.queues = [] ∧ y.fabjob = 0 ∧ y.err = (s.ctxOf c).err ∧ t.read (d.save + 0x7FF8) 8 = 0 ∧ t.groups = s.groups ∧
      t.launches = s.launches ∧ ∀ k, k ≠ c → t.ctx? k = s.ctx? k) ∧
  (∀ c s x, c < 256 → s.ctx? c = some x → x.st = .resident → ∃ t y, exec (.ctxPreempt c) s = .next t ∧
    t.ctx? c = some y ∧ y.st = .saving ∧ y.preempt = some (s.time, false) ∧ y.desc = x.desc ∧
    (∀ q, (x.queue q).st ≠ .disabled → (y.queue q).st = .held) ∧ t.groups = s.groups ∧ t.mem = s.mem ∧
    ∀ k, k ≠ c → t.ctx? k = s.ctx? k) ∧
  (∀ c s x, c < 256 → s.ctx? c = some x → x.st = .saved →
    (∀ u, s.outranked x = false → s.resume x = some u → x.msgImage = [] → ∃ y, exec (.ctxResume c) s = .next u ∧
      u.ctx? c = some y ∧ y.st = .resident ∧ y.sliceStart = s.time ∧ y.timeSaved = false ∧ y.desc = x.desc) ∧
    ((s.outranked x = true ∨ s.resume x = none) → ∃ t y, exec (.ctxResume c) s = .next t ∧ t.ctx? c = some y ∧ y.st = .saved ∧
      y.timeSaved = true ∧ t.groups = s.groups ∧ t.mem = s.mem)) ∧
  (∀ c s x, c < 256 → s.ctx? c = some x → (x.st = .idle ∨ x.st = .resident ∨ x.st = .saving ∨ x.st = .saved) →
    ∃ t y, exec (.ctxKill c) s = .next t ∧ t.ctx? c = some y ∧ y.st = .killing ∧ y.wins = [] ∧ y.fabjob = 0 ∧
      y.lastcode = x.lastcode ∧ (∀ q, (y.queue q).st = .disabled) ∧ (∀ g ∈ t.groups, g.ctx ≠ c) ∧
      (∀ g ∈ s.groups, g.ctx ≠ c → g ∈ t.groups) ∧ (∀ e ∈ t.page.tlb, e.ctx ≠ c) ∧ (∀ l ∈ t.l1, l.ctx ≠ c)) ∧
  (∀ c s x, c < 256 → s.ctx? c = some x → (x.st = .idle ∨ x.st = .killed) →
    ∃ t y, exec (.ctxDestroy c) s = .next t ∧ t.ctx? c = some y ∧ y.st = .free ∧ y.wins = [] ∧ y.queues = [] ∧
      y.fabjob = 0 ∧ (∀ l ∈ t.launches, l.ctx ≠ c) ∧ (∀ e ∈ t.page.tlb, e.ctx ≠ c) ∧ t.groups = s.groups ∧ t.mem = s.mem ∧
      ∀ k, k ≠ c → t.ctx? k = s.ctx? k) ∧
  (∀ i c s, c < 256 →
    ((i = .ctxCreate c ∧ ((s.ctxOf c).st ≠ .free ∨ ∀ d, descOf (s.read (s.ctxtab + 32 * c) 32) = some d → d.legal = false ∨
        gap s.chipTaken 0 (2 ^ 20) (1024 * d.xshare) = none)) ∨
      (i = .ctxPreempt c ∧ (s.ctxOf c).st ≠ .resident) ∨ (i = .ctxResume c ∧ (s.ctxOf c).st ≠ .saved) ∨
      (i = .ctxKill c ∧ ((s.ctxOf c).st = .free ∨ (s.ctxOf c).st = .killing ∨ (s.ctxOf c).st = .killed)) ∨
      (i = .ctxDestroy c ∧ (s.ctxOf c).st ≠ .idle ∧ (s.ctxOf c).st ≠ .killed)) →
    exec i s = .next (s.err c) ∧ (s.err c).ctxOf c = { s.ctxOf c with err := true })
/-- R156, R252, R256 to R258, R261 to R263 and R429: an expired time slice with another context waiting, and a due
checkpoint, start a save; a group, running or draining, whose paths have all parked stops, and after 200 µs every
one; the save completes when nothing is outstanding, and a context saved for time resumes when it can be placed;
the watchdog and the end of a containment. -/
def Obligations.SavesAndContainment : Prop :=
  (∀ i c s x ckpt, s.ctx? c = some x → x.st = .resident →
    ((i = .sliceExpiry c ∧ x.desc.slice ≠ 0 ∧ x.sliceStart + 10000 * x.desc.slice ≤ s.time ∧ s.wanted x = true ∧
        ckpt = x.trace.ckpt) ∨
      (i = .checkpoint c ∧ x.replayMode = 1 ∧ x.trace.lastCkpt + x.trace.rplctl / 4 * 1000000 ≤ s.time ∧ ckpt = true)) →
    ∃ t y, exec i s = .next t ∧ t.ctx? c = some y ∧ y.st = .saving ∧ y.preempt = some (s.time, true) ∧
      y.trace.ckpt = ckpt ∧ (∀ q, (x.queue q).st ≠ .disabled → (y.queue q).st = .held) ∧ t.groups = s.groups ∧ t.mem = s.mem) ∧
  (∀ i s g, s.group? i = some g → s.preempting g.ctx = true → g.trapping = none →
    (g.phase = .halted ∨ ((g.phase = .live ∨ g.phase = .draining) ∧ ∀ p ∈ g.paths, s.parked g p = true)) →
    (∀ p ∈ g.allPaths, p.place ≠ .detached) →
    ∃ t h, exec (.groupSave i) s = .next t ∧ t.group? i = some h ∧ h.phase = .saved ∧ h.before = g.phase ∧
      FileSame g h ∧ h.frame = g.frame ∧ h.handler = g.handler ∧ h.threads = g.threads ∧ h.tokE = g.tokE ∧ h.tokW = g.tokW ∧
      h.paths.map (fun p => (p.id, p.mask, p.stack, p.place)) = g.paths.map (fun p => (p.id, p.mask, p.stack, p.place)) ∧
      (∀ p ∈ h.paths, p.windows = [] ∧ ∀ m, p.park ≠ some (.safept m)) ∧ t.mem = s.mem) ∧
  (∀ c s x w b, s.ctx? c = some x → x.preempt = some (w, b) → w + 200000 ≤ s.time →
    ∃ t, exec (.preemptWindowExpire c) s = .next t ∧
      ((∀ g ∈ s.groups, ∀ p ∈ g.allPaths, p.place ≠ .detached) → t.mem = s.mem) ∧
      ∀ i g, s.group? i = some g → g.ctx = c → g.phase ≠ .saved → g.phase ≠ .dissolving → ∃ h, t.group? i = some h ∧
        (if g.savable = true ∧ g.windowPending = false then h.phase = .saved
          else h.saving = true ∧ h.phase = g.phase ∧ t.mayIssue h = false)) ∧
  (∀ c s x, s.ctx? c = some x → x.st = .saving → s.allSaved c = true → (∃ l ∈ s.l1, l.kind = .priv c) →
    ∃ t, exec (.saveComplete c) s = .next t ∧ (∀ l ∈ t.l1, l.ctx ≠ c) ∧ t.ctx? c = some x ∧ t.groups = s.groups ∧
      t.crews = s.crews) ∧
  (∀ c s x, s.ctx? c = some x → x.st = .saving → s.saveReady c = true → x.trace.ckpt = false →
    (∀ l ∈ s.l1, l.kind ≠ .priv c) → ∃ t y, exec (.saveComplete c) s = .next t ∧ t.ctx? c = some y ∧ y.st = .saved ∧ y.saveTime = s.time ∧ y.preempt = none ∧
      y.timeSaved = (x.preempt.map (·.2)).getD false ∧ (∀ l ∈ t.l1, l.ctx ≠ c) ∧
      (∀ z ∈ s.ctxCrews c, ∀ g ∈ t.groups, ¬(g.kid = z.kid ∧ g.crew = z.crew)) ∧ t.launches = s.launches) ∧
  (∀ c s x u, s.ctx? c = some x → x.st = .saved → x.timeSaved = true → x.msgImage = [] →
    (∀ y ∈ s.ctxs, y.num ≠ c → y.st = .saved → y.timeSaved = false) → s.resume x = some u →
    ∃ y, exec (.timeResumePlace c) s = .next u ∧ u.ctx? c = some y ∧ y.st = .resident ∧ y.sliceStart = s.time) ∧
  (∀ c s x w, s.ctx? c = some x → x.watchStart = some w → s.stalled x = true → w + 1000000 ≤ s.time →
    ∃ t y, exec (.watchdog c) s = .next t ∧ t.ctx? c = some y ∧ y.st = .killing ∧ y.lastcode = 0x48 ∧
      (∀ g ∈ t.groups, g.ctx ≠ c) ∧ t.links.intcause.testBit 3 = true) ∧
  (∀ c s x, s.ctx? c = some x → x.st = .killing → s.inFlight c = false → x.killTw ≤ s.time →
    ∃ t y, exec (.containmentComplete c) s = .next t ∧ t.ctx? c = some y ∧ y.st = .killed ∧ (∀ l ∈ t.launches, l.ctx ≠ c) ∧
      t.groups.map (·.id) = s.groups.map (·.id))
/-! ### Recorder, capsules and debug stops -/

/-- R417, R418, R422, R427 and R428: a freeze reaches a core and stops its ring, and where several cores have sent
one, which of them comes first is open (log 2, log 41); when every powered core has frozen, the capsule is sealed with
the earliest TIME of the faulting cores and the rings thaw; a view is asked for, found or not, and a slot is freed by its serial
number; a debugger stops the live groups that it names and lets halted ones go on, for one issue or for good; a
group with a window that awaits its result does not issue and stops once the result is written (R140); RPLCTL
takes effect in IDLE and SAVED alone. -/
def Obligations.RecorderAndDebug : Prop :=
  (∀ cluster core s t0 code, s.castFor = some (t0, code) → cluster < 24 → core < 24 →
    s.coreOn cluster core = true → (s.ring cluster core).frozen = false → (s.ring cluster core).head < 4096 →
    ∃ t, exec (.freezeReceive cluster core) s = .next t ∧ (t.ring cluster core).frozen = true ∧
      (t.ring cluster core).ctime = s.coreTime cluster core ∧ t.groups = s.groups ∧ t.mem = s.mem ∧
      SMap.get 0 (t.ring cluster core).recs (((t.ring cluster core).head + 4095) % 4096) =
        recordWord 8 0 0 (s.coreTime cluster core)
          (Nat.min (s.coreTime cluster core - t0) (2 ^ 32 - 1) * 2 ^ 46 + code * 2 ^ 38)) ∧
  (∀ (s : State) x, s.castFor = some x → x ∈ s.recorder.freezing) ∧
  (∀ cluster core s, (s.recorder.freezing = [] ∨ s.coreOn cluster core = false) →
    exec (.freezeReceive cluster core) s = .next s) ∧
  (∀ s t0 slot, t0 ∈ s.recorder.freezing.map (·.1) → (∀ t ∈ s.recorder.freezing.map (·.1), t0 ≤ t) →
    s.recorder.freeSlot = some slot → (∀ x ∈ allCores, s.coreOn x.1 x.2 = true → (s.ring x.1 x.2).frozen = true) →
    ∃ t c, exec .capsuleSeal s = .next t ∧ t.recorder.capsules = s.recorder.capsules ++ [c] ∧ c.slot = slot ∧
      c.serial = s.recorder.serial + 1 ∧ c.ftime = t0 ∧ c.faults = s.recorder.faults ∧ c.dropped = s.recorder.dropped ∧
      c.rings = s.recorder.rings ∧ t.recorder.serial = s.recorder.serial + 1 ∧ t.recorder.freezing = [] ∧
      t.recorder.faults = [] ∧ (∀ r ∈ t.recorder.rings, r.frozen = false) ∧ t.links.intcause.testBit 2 = true ∧
      t.groups = s.groups) ∧
  (∀ v s, ∃ t, exec (.capreq v) s = .next t ∧ t.recorder.capreq = some v.toNat ∧ t.recorder.caprdy = 0 ∧
    t.recorder.capsules = s.recorder.capsules ∧ t.groups = s.groups ∧ t.mem = s.mem) ∧
  (∀ s v c, s.recorder.capreq = some v → s.recorder.capsules.find? (fun x => x.slot == bits v 17 17) = some c →
    ((v.testBit 16 = true → v % 2 ^ 16 ∈ c.touched) → ∃ t w, exec .capsuleViewReady s = .next t ∧
      t.recorder.capview = some w ∧ w.capsule = c ∧ w.tenant = (if v.testBit 16 then some (v % 2 ^ 16) else none) ∧
      t.recorder.caprdy = viewLen * 2 ^ 32 + 1 ∧ t.recorder.capreq = none ∧ t.groups = s.groups ∧ t.mem = s.mem) ∧
    (v.testBit 16 = true → v % 2 ^ 16 ∉ c.touched → ∃ t, exec .capsuleViewReady s = .next t ∧
      t.recorder.capview = none ∧ t.recorder.caprdy = 2 ∧ t.recorder.capreq = none)) ∧
  (∀ v s, ∃ t, exec (.capack v) s = .next t ∧ t.groups = s.groups ∧ t.mem = s.mem ∧ t.recorder.rings = s.recorder.rings ∧
    ∀ c, c ∈ t.recorder.capsules ↔ (c ∈ s.recorder.capsules ∧ ¬(c.slot = v.toNat % 2 ∧ c.serial % 2 ^ 63 = v.toNat / 2))) ∧
  (∀ c sel s, (s.ctxOf c).debug = true → (s.groups.map (·.id)).Nodup → ∃ t, exec (.dbgStop c sel) s = .next t ∧ t.mem = s.mem ∧ ∀ i g,
    s.group? i = some g → DbgSel.names sel c g = true → g.phase = .live →
      (g.windowPending = false → ∃ h, t.group? i = some h ∧ h.phase = .halted ∧ h.stop = some .host ∧ FileSame g h ∧
        SpecialSame { g with phase := .halted } h) ∧
      (g.windowPending = true → t.group? i = some { g with stopping := some .host })) ∧
  (∀ (s : State) g r, (s.groups.map (·.id)).Nodup → s.group? g.id = some g → g.stopping = some r → g.phase = .live →
    (g.windowPending = true → s.mayIssue g = false) ∧
    (g.windowPending = false → ∃ h, s.finishStops.group? g.id = some h ∧ h.phase = .halted ∧ h.stop = some r ∧
      FileSame g h ∧ SpecialSame { g with phase := .halted } h ∧
      ((∀ x ∈ s.groups, x.saving = false) → s.finishStops.mem = s.mem))) ∧
  (∀ c sel s, (s.ctxOf c).debug = false → exec (.dbgStop c sel) s = .next s) ∧
  (∀ e ∈ ([(Instr.dbgGo, false), (Instr.dbgStep, true)] : List ((Nat → DbgSel → Instr) × Bool)), ∀ c sel s,
    (s.groups.map (·.id)).Nodup → ∃ t, exec (e.1 c sel) s = .next t ∧ t.mem = s.mem ∧ ∀ i g, s.group? i = some g →
      (DbgSel.names sel c g = true → g.phase = .halted → ∃ h, t.group? i = some h ∧ h.phase = g.before ∧ h.stop = none ∧
        h.stepping = (if e.2 then some g.issued else none) ∧ FileSame g h ∧ h.paths = g.paths) ∧
      ((DbgSel.names sel c g = false ∨ g.phase ≠ .halted) → t.group? i = some g)) ∧
  (∀ c v s, c < 256 → ((s.ctxOf c).st = .idle ∨ (s.ctxOf c).st = .saved →
      ∃ t y, exec (.rplctlWrite c v) s = .next t ∧ t.ctx? c = some y ∧ y.trace.rplctl = v.toNat % 2 ^ 9 ∧
        y.trace.lastCkpt = s.time ∧ y.st = (s.ctxOf c).st ∧ y.err = ((s.ctxOf c).err || decide (v.toNat % 4 = 3 ∨
          (v.toNat % 4 = 1 ∧ (v.toNat % 2 ^ 9 / 4 = 0 ∨ 100 < v.toNat % 2 ^ 9 / 4)))) ∧ t.groups = s.groups ∧ t.mem = s.mem) ∧
    ((s.ctxOf c).st ≠ .idle → (s.ctxOf c).st ≠ .saved → exec (.rplctlWrite c v) s = .next s))
/-! ### Traps of the issue stage -/

/-- R137, R144, R259, R260, R263, R265 and R460: an instruction that decode step 5, the privilege check or an open
window turns away has no effect; its group being quiet, the trap is fatal, and with the end of the clock come the
trap record, LASTCODE, the end of every group of the context, and the host's interrupt. -/
def Obligations.FatalTraps : Prop :=
  ∀ i s g p x c, isEvent i = false → (∀ w, i ≠ .padWord w) → s.issuer = some (g.id, p.id) → s.group? g.id = some g →
    g.path? p.id = some p → s.ctx? g.ctx = some x → x.st ≠ .free → x.st ≠ .killing → x.st ≠ .killed → s.quiet g = true →
    g.phase = .live → (∀ h ∈ s.groups, h.trapping = none) →
    ((g.hdr.accepts i = false ∧ c = Code.illegalOperand) ∨
      (g.hdr.accepts i = true ∧ i.info.priv = true ∧ x.desc.priv = false ∧ c = Code.privileged) ∨
      (g.hdr.accepts i = true ∧ (i.info.priv = false ∨ x.desc.priv = true) ∧ c = Code.lookaheadConflict ∧
        ∃ w ∈ p.windows, ∃ r ∈ w.regs, r ∈ i.info.dst)) →
    let key := x.desc.save + 0x100
    ∃ u h t y, exec i s = .next u ∧ u.group? g.id = some h ∧ h.trapping.isSome = true ∧ FileSame g h ∧ SpecialSame g h ∧
      h.paths = g.paths ∧ u.mem = s.mem ∧ u.ctxs = s.ctxs ∧ OthersSame g.id s u ∧
      t = u.takeFatal ∧ t.ctx? g.ctx = some y ∧ y.st = .killing ∧ y.lastcode = c.num ∧
      (∀ h ∈ t.groups, h.ctx ≠ g.ctx) ∧ (∀ h ∈ s.groups, h.ctx ≠ g.ctx → h.id ≠ g.id → h ∈ t.groups) ∧
      t.links.intcause.testBit 3 = true ∧
      (∀ (j w : Nat), [trapInfo c.num (lowLane p.mask) 2 0 0 (g.pcw p.pc), 0, g.widOf (lowLane p.mask),
          g.ctx + g.id.cluster * 2 ^ 8 + g.id.core * 2 ^ 13 + g.id.slot * 2 ^ 18, s.time, 0, 0, 0][j]? = some w →
        t.read (key + 8 * j) 8 = w % 2 ^ 64)
/-! ### Bring-up, service and power -/

/-- R8, R20, R249, R422 and R431 to R435: power-up, of a device without power alone, starts from TIME 0 with the boot
ROM waiting; a warm reset keeps TIME, storage and the retention SRAM; power loss keeps neither; an image is
fetched on GO and runs or is rejected, and one that runs creates context 0; attestation; the service commands on
a cluster, and their end. -/
def Obligations.BootAndService : Prop :=
  (∀ s, s.boot.powered = true → exec .powerUp s = .next s) ∧
  (∀ i b s, ((i = .powerUp ∧ s.boot.powered = false ∧ b = true) ∨ (i = .powerLoss ∧ b = false)) → ∃ t, exec i s = .next t ∧ t.time = 0 ∧
    t.boot = { State.reset.boot with powered := b } ∧ t.groups = [] ∧ t.ctxs = [] ∧ t.launches = [] ∧ t.ops = [] ∧
    t.recorder.capsules = [] ∧ t.recorder.dropped = 0 ∧ t.recorder.serial = s.recorder.serial ∧ t.svc.repaired = s.svc.repaired ∧
    t.links = { State.reset.links with peerX := s.links.peerX, farDown := s.links.farDown } ∧ t.power = State.reset.power ∧ t.cong = State.reset.cong ∧
    ∀ a, t.byte a = if outsideKey a then s.byte a else 0) ∧
  (∀ s, ∃ t, exec .warmReset s = .next t ∧ t.time = s.time ∧ t.mem = s.mem ∧ t.boot = State.reset.boot ∧ t.groups = [] ∧
    t.ctxs = [] ∧ t.launches = [] ∧ t.ops = [] ∧ t.recorder.capsules = s.recorder.capsules ∧
    t.recorder.dropped = s.recorder.dropped ∧ t.recorder.serial = s.recorder.serial ∧ t.svc.repaired = s.svc.repaired ∧
    t.svc.modules = s.svc.modules ∧ t.power = State.reset.power) ∧
  (∀ v s, let n := bits v.toNat 24 1
    (v.getLsbD 0 = true → (s.boot.state = 0 ∨ s.boot.state = 4) → 2 ≤ n → n ≤ 4096 →
      exec (.fwGo v) s = .next { s with boot := { s.boot with state := 1, why := 0, len := n } }) ∧
    ((v.getLsbD 0 = false ∨ (s.boot.state ≠ 0 ∧ s.boot.state ≠ 4) ∨ n < 2 ∨ 4096 < n) → exec (.fwGo v) s = .next s)) ∧
  (∀ s, s.boot.state = 1 →
    let img := s.bytes (hostKey (s.boot.fwsrc / 4096 * 4096)) (s.boot.len * 4096)
    exec (.fwLoaded false) s = .next { s with boot := { s.boot with state := 4, why := 4 } } ∧
    exec (.fwLoaded true) s = .next { s with boot := { s.boot with state := 2, image := img } }) ∧
  (∀ b s, s.boot.state = 2 →
    let img := s.boot.image
    (imageWhy img s.boot.len ≠ 0 → exec (.fwLoaded b) s =
      .next { s with boot := { s.boot with state := 4, why := imageWhy img s.boot.len } }) ∧
    (imageWhy img s.boot.len = 0 → ∃ t y, exec (.fwLoaded b) s = .next t ∧ t.boot.state = 3 ∧
      t.boot.fwdig = Config.sha3 img ∧ t.ctx? 0 = some y ∧ y.st = .idle ∧ y.desc = .zero ∧ y.desc.priv = true ∧
      t.read 0xBF_0000_0000 8 = 0xBF_0010_0001 ∧ t.groups = s.groups)) ∧
  (∀ s, ∃ t, exec .attreq s = .next t ∧ t.boot.attpending = true ∧ t.groups = s.groups ∧ t.mem = s.mem) ∧
  (∀ s, s.boot.attpending = true → ∃ t, exec .attestReady s = .next t ∧ t.boot.attpending = false ∧
    t.boot.attest = padTo 4096 (s.reportBody ++ Config.sign s.reportBody) ∧ t.groups = s.groups ∧ t.mem = s.mem) ∧
  (∀ c s, c < 24 → s.svc.busy = none →
    (s.clusterState c = 0 → ∃ t m, exec (.svcDrain (144 + c)) s = .next t ∧ t.clusterState c = 1 ∧
      t.svc.busy = some (1, 144 + c, m) ∧ (∀ k x, k < 256 → s.ctx? k = some x → x.st = .resident → m.testBit k = true →
        ∃ y, t.ctx? k = some y ∧ y.st = .saving ∧ y.preempt = some (s.time, true)) ∧ t.groups = s.groups ∧ t.mem = s.mem) ∧
    (s.clusterState c = 2 → ∃ t, exec (.svcReturn (144 + c)) s = .next t ∧ t.clusterState c = 0 ∧
      t.svc.busy = some (2, 144 + c, 0) ∧ t.groups = s.groups ∧ t.mem = s.mem) ∧
    (∀ k, s.clusterState c = 2 → k < 24 → (s.repairOf c = none ∨ s.repairOf c = some k) →
      ∃ t, exec (.svcRepair (144 + c) k) s = .next t ∧ t.repairOf c = some k ∧ t.svc.busy = some (3, 144 + c, 0) ∧
        t.ring c k = .start c k ∧ t.groups = s.groups ∧ t.mem = s.mem) ∧
    (∀ a, s.clusterState c = 2 → exec (.svcModule (144 + c) a) s =
      .next { s with svc := { s.svc with busy := some (4, 144 + c, a / 2 ^ 18 * 2 ^ 18) } }) ∧
    (s.clusterState c = 2 → ∃ t, exec (.svcCycle (144 + c)) s = .next t ∧ t.svc.busy = some (5, 144 + c, 0) ∧
      t.islandOn (144 + c) = false ∧ t.groups = s.groups ∧ t.mem = s.mem)) ∧
  (∀ i s c, ((i = .svcDrain (144 + c) ∧ s.clusterState c ≠ 0) ∨ ((i = .svcReturn (144 + c) ∨ i = .svcCycle (144 + c) ∨
      (∃ k, i = .svcRepair (144 + c) k) ∨ ∃ a, i = .svcModule (144 + c) a) ∧ s.clusterState c ≠ 2)) → c < 24 →
    exec i s = .next s.svcErr) ∧
  (∀ q s, q < 144 → s.svc.busy = none → s.clusterState (q / 6) = 2 → ∃ t, exec (.svcCycle q) s = .next t ∧
    t.svc.busy = some (5, q, 0) ∧ t.islandOn q = false ∧ t.groups = s.groups ∧ (∀ e ∈ t.engines, e.1 ≠ q) ∧
    (∀ k, k < 4 → t.fifo (q / 6) (q % 6 * 4 + k) = []) ∧ ∀ k a, k < 4 → a < 2 ^ 20 → t.byte (scratchKey (q / 6) (q % 6 * 4 + k) a) = 0) ∧
  (∀ c s m, c < 24 → s.svc.busy = some (1, 144 + c, m) → s.clusterState c = 1 → (∀ x ∈ s.crews, x.cluster ≠ c) →
    (∀ k x, s.ctx? k = some x → m.testBit k = true → x.st ≠ .saving ∧ x.st ≠ .killing) →
    (∀ g ∈ s.groups, g.id.cluster ≠ c) → (∀ o ∈ s.ops, o.gid.cluster ≠ c) →
    exec (.clusterOffline c) s = .next (s.setCluster c 2)) ∧
  (∀ s cmd island arg, s.svc.busy = some (cmd, island, arg) →
    (cmd = 1 → s.clusterState (island - 144) ≠ 2 → exec .svcComplete s = .next s) ∧
    ((cmd = 2 ∨ cmd = 3 ∨ (cmd = 1 ∧ s.clusterState (island - 144) = 2)) →
      exec .svcComplete s = .next { s with svc := { s.svc with busy := none } }) ∧
    (cmd = 4 → ∃ t, exec .svcComplete s = .next t ∧ t.svc.busy = none ∧ t.groups = s.groups ∧ t.mem = s.mem) ∧
    (cmd = 5 → island < 168 → s.boot.state = 3 → ∃ t, exec .svcComplete s = .next t ∧ t.svc.busy = none ∧
      t.islandOn island = true ∧ t.groups = s.groups ∧ t.mem = s.mem))
/-- R436 to R438, R265 and R416: each power interval sets the average, the throttle and its counters; a ramp goes
through its sixteen stages; an interval's energy is divided by issue slots with nothing lost; an uncorrected
error ends its context, or those that have groups, or a reorder at work, where it struck. -/
def Obligations.PowerAndErrors : Prop :=
  (∀ v s, exec (.pwrcapWrite v) s = .next { s with power := { s.power with cap := v.toNat % 16 } }) ∧
  (∀ w s, ∃ t, exec (.powerControlTick w) s = .next t ∧ t.power.avg = Nat.min 0xFFFF w ∧ t.groups = s.groups ∧ t.mem = s.mem ∧
    let cap := 2000 + Nat.min 8 s.power.cap * 250
    (cap < Nat.min 0xFFFF w → t.power.tcap = Nat.min 7 (s.power.tcap + 1) ∧ t.power.lowTicks = 0 ∧
      (s.power.tcap = 7 → (100 * t.power.overMs + t.power.overTicks) % (100 * 2 ^ 32) =
        (100 * s.power.overMs + s.power.overTicks + 1) % (100 * 2 ^ 32))) ∧
    (Nat.min 0xFFFF w ≤ cap → cap < Nat.min 0xFFFF w + 100 → t.power.tcap = s.power.tcap ∧ t.power.lowTicks = 0) ∧
    (Nat.min 0xFFFF w + 100 ≤ cap → if 99 ≤ s.power.lowTicks then t.power.tcap = s.power.tcap - 1 ∧ t.power.lowTicks = 0
      else t.power.tcap = s.power.tcap ∧ t.power.lowTicks = s.power.lowTicks + 1)) ∧
  (∀ q s k e, s.power.ramp.find? (fun r => r.1 == q) = some (q, k, e) →
    (s.time < e → exec (.rampStage q) s = .next s) ∧
    (e ≤ s.time → k ≠ 15 → k ≠ 31 → s.power.rampcfg ≠ 0 → ∃ t, exec (.rampStage q) s = .next t ∧
      t.power.ramp.find? (fun r => r.1 == q) = some (q, k + 1, e + s.power.rampcfg * 1000) ∧ t.groups = s.groups) ∧
    (e ≤ s.time → (k = 15 ∨ k = 31 ∨ s.power.rampcfg = 0) → ∃ t, exec (.rampStage q) s = .next t ∧
      t.power.rampStep q = 0 ∧ t.groups = s.groups)) ∧
  (∀ island nj dummy s, island < 144 →
    let slots := fun (l : Launch) => if (s.ctxOf l.ctx).st = .saved then 0 else s.power.slotsOf l.kid [island]
    let total := sumNat (s.launches.map slots)
    let e := nj - dummy + pairGet 0 s.power.carry island
    total ≠ 0 → ∃ t, exec (.energyInterval [(island, nj, dummy)]) s = .next t ∧ t.power.slots = [] ∧
      t.launches.map (fun l => (l.kid, l.energy)) = s.launches.map (fun l =>
        (l.kid, (l.energy + e * slots l / total) % 2 ^ 64)) ∧
      pairGet 0 t.power.carry island + sumNat (s.launches.map (fun l => e * slots l / total)) = e ∧
      t.groups = s.groups ∧ t.mem = s.mem) ∧
  (∀ c s x, s.ctx? c = some x → x.st ≠ .free → x.st ≠ .killing → x.st ≠ .killed →
    ∃ t y, exec (.softError (.inContext c)) s = .next t ∧
    t.ctx? c = some y ∧ y.st = .killing ∧ y.lastcode = 0xF1 ∧ ∀ g ∈ t.groups, g.ctx ≠ c) ∧
  (∀ island s, island < 320 → ∃ t, exec (.softError (.corrected island)) s = .next t ∧ t.groups = s.groups ∧
    t.ctxs = s.ctxs ∧ t.mem = s.mem) ∧
  (∀ island s, island < 144 → ∃ t, exec (.softError (.unowned island)) s = .next t ∧
    (∀ c x, c < 256 → s.ctx? c = some x → x.st ≠ .free → x.st ≠ .killing → x.st ≠ .killed →
      ((∃ g ∈ s.groups, g.ctx = c ∧ quadOf g.id.cluster g.id.core = island) ∨ s.reordering (island / 6) c = true) →
      ∃ y, t.ctx? c = some y ∧ y.st = .killing ∧ y.lastcode = 0xF1) ∧
    ∀ c, (∀ g ∈ s.groups, g.ctx = c → quadOf g.id.cluster g.id.core ≠ island) → s.reordering (island / 6) c = false →
      t.ctx? c = s.ctx? c)
/-- R65, R254, R309, R311, R329, R390 and R408: what writes of FABJOB, CONGCTL, CONGRATE and RSPILL leave; a host
write of a register writes it whole, one of four bytes its half, and one of another size or alignment nothing. -/
def Obligations.RegisterWrites : Prop :=
  (∀ c v s, c < 256 →
    let w := v.toNat % 2 ^ 17
    let taken := w.testBit 16 = true ∧ ∃ x ∈ s.ctxs, x.num ≠ c ∧ x.fabjob.testBit 16 = true ∧ x.fabjob % 2 ^ 16 = w % 2 ^ 16
    (∀ x, s.ctx? c = some x → x.st ≠ .free → ¬taken → ∃ t, exec (.fabjobWrite c v) s = .next t ∧
      t.ctx? c = some { x with fabjob := w } ∧ (∀ k, k ≠ c → t.ctx? k = s.ctx? k) ∧ t.groups = s.groups ∧ t.mem = s.mem) ∧
    (((s.ctxOf c).st = .free ∨ taken) → exec (.fabjobWrite c v) s = .next (s.err c))) ∧
  (∀ v s, ∃ t, exec (.congctlWrite v) s = .next t ∧ t.cong.mode = v.toNat % 2 ∧ t.cong.markat = bits v.toNat 15 8 ∧
    (v.toNat % 2 = 1 → t.cong.win = []) ∧ t.cong.rate = s.cong.rate ∧ t.groups = s.groups ∧ t.mem = s.mem) ∧
  (∀ c v s, c < 24 → ∃ t, exec (.congrateWrite c v) s = .next t ∧ pairGet 64 t.cong.rate c = v.toNat % 128 ∧
    (∀ k, k ≠ c → pairGet 64 t.cong.rate k = pairGet 64 s.cong.rate k) ∧ t.groups = s.groups ∧ t.mem = s.mem) ∧
  (∀ c v s, c < 256 → ∃ t y, exec (.rspillWrite c v) s = .next t ∧ t.ctx? c = some y ∧
    y.rspill = bits v.toNat 51 31 * 2 ^ 31 + v.toNat % 2 ∧ y.st = (s.ctxOf c).st ∧ t.groups = s.groups ∧ t.mem = s.mem) ∧
  (∀ off size v s, ((size ≠ 4 ∧ size ≠ 8) ∨ off % size ≠ 0) → exec (.regWrite off size v) s = .next s) ∧
  (∀ s r v off, s.boot.state = 3 → off % 8 = 0 → (off < 0x19100 ∨ 0x19120 ≤ off) → dregOf off = some r →
    exec (.regWrite off 8 v) s = .next (s.writeReg none r v.toNat)) ∧
  (∀ v s, s.boot.state = 3 →
    (∃ t, exec (.regWrite 0x10000 8 v) s = .next t ∧ t.ctxtab = v.toNat / 4096 * 4096 ∧ t.ctxs = s.ctxs ∧ t.mem = s.mem) ∧
    (∃ t, exec (.regWrite 0x15000 8 v) s = .next t ∧ t.links.intcause = s.links.intcause &&& (31 - (v.toNat &&& 31)) ∧
      t.groups = s.groups) ∧
    (∃ t, exec (.regWrite 0x15008 4 v) s = .next t ∧ t.links.inten = v.toNat % 32 ∧ t.groups = s.groups) ∧
    (∀ c, c < 256 → exec (.regWrite (0x14800 + 8 * c) 8 v) s = exec (.fabjobWrite c v) s) ∧
    (∀ c, c < 256 → exec (.regWrite (0x16000 + 16 * c) 8 v) s = exec (.trcbaseWrite c v) s))
/-! ### Steps, encodings, storage and reset -/

/-- R123 to R126: where the bytes at the program counter, inside their block, decode to an instruction, the fetch
gives it; a step in which a core issues runs it as `exec` does at that state, after the turn's time has passed, with
no wait for its fetch left, and before what follows every act; so does a step without a schedule; an event of the
schedule, while an image runs or of the islands that are out of reset before (R431; log 43), is that row's `exec`; where nothing may issue, a clock passes. -/
def Obligations.StepRunsDecoded : Prop :=
  (∀ (s : State) (g : Group) pc leaf x k i, pc < 2 ^ 56 → s.tlb? g.id.cluster g.ctx pc = some leaf →
    s.through g.ctx .fetch false leaf.leaf.toNat leaf.bits pc 4 = .ok x → x.key? = some k →
    pc % 32 + 4 * lenWords (s.read k 4) ≤ 32 → decodeWords (s.words k (lenWords (s.read k 4))) = .ok i →
    s.fetch g pc = .instr i) ∧
  (∀ s rest ns clocks cluster core unf g p i,
    s.agenda = { ns := ns, clocks := clocks, act := some (.issue cluster core unf) } :: rest →
    let u := { s with agenda := rest }.pass ns clocks
    let v := u.holdUnfetched cluster core unf
    let w := if p.fetched = p then v else v.setGroup (g.setPath p.fetched)
    u.boot.powered = true → u.selected cluster core unf = some (g, p) → v.fetch g p.pc.toNat = .instr i →
    v.turnOf g p i = true → step s = onNext State.sweep (onNext (fun t => t.afterIssue (w.turnKey g p i) g p i)
      (exec i { w with issuer := some (g.id, p.id) }))) ∧
  (∀ s g p i, s.agenda = [] → s.groups.findSome? (fun g => s.selected g.id.cluster g.id.core []) = some (g, p) →
    let w := if p.fetched = p then s else s.setGroup (g.setPath p.fetched)
    s.fetch g p.pc.toNat = .instr i → s.turnOf g p i = true →
    step s = onNext State.sweep (onNext (fun t => t.afterIssue (w.turnKey g p i) g p i)
      (exec i { w with issuer := some (g.id, p.id) }))) ∧
  (∀ s rest ns clocks i, s.agenda = { ns := ns, clocks := clocks, act := some (.event i) } :: rest → isEvent i = true →
    let u := { s with agenda := rest }.pass ns clocks
    (u.boot.powered = true ∨ i = .powerUp) → (u.boot.state = 3 ∨ bootEvent i = true) → (∀ k, u.eventKey i = some k → u.replay k.ctx = 0) →
    step s = onNext State.sweep (exec i u)) ∧
  (∀ s rest ns clocks, s.agenda = { ns := ns, clocks := clocks, act := none } :: rest →
    step s = .next ({ s with agenda := rest }.pass ns clocks).sweep) ∧
  (∀ s, s.agenda = [] → s.groups.findSome? (fun g => s.selected g.id.cluster g.id.core []) = none →
    step s = .next (s.pass (clockNs s.clock) 1).sweep)
/-- R125, R127, R130, R132, R136, R142 and R144: the spec's worked encodings decode to the instructions that they
stand for, and the words that it calls illegal are refused. -/
def Obligations.WorkedEncodings : Prop :=
  decodeTableWord 64 0x0060003020670200 = some (.add ⟨false, ⟨false, false, 7⟩, .s32, false, .v 6, .v 2, .reg (.v 3)⟩) ∧
  decodeTableWord 64 0x00600060504A0204 = some (.add ⟨true, ⟨true, true, 2⟩, .s32, false, .s 4, .s 5, .reg (.s 6)⟩) ∧
  decodeTableWord 64 0x0410000080971650 = some (.rcp ⟨⟨false, false, 7⟩, 1, .f32, .v 9, .v 8⟩) ∧
  decodeTableWord 96 (0x80 * 2 ^ 64 + 0x0000000000010039) = some (.brd ⟨false, false, 1⟩ 0 0x80) ∧
  decodeTableWord 64 0x0100002C00470A00 =
    some (.ld ⟨false, ⟨false, false, 7⟩, 0, false, .b32, .g, .v 4, ⟨some (.s 0), some (.v 2), none⟩⟩) ∧
  decodeTableWord 64 0x0000006040070F84 = some (.launch ⟨⟨true, false, 7⟩, false, 4, 6, none⟩) ∧
  decodeTableWord 64 0x03100CA000070EC8 = some (.barArrive ⟨⟨false, false, 7⟩, 1, true, some 10⟩) ∧
  decodeTableWord 96 (2 * 2 ^ 64 + 0x0030000000870E85) = some (.tallocImm ⟨true, false, 7⟩ 3 8 2) ∧
  [0x0060003020671200, 0x0060043020670204, 0x00600030206702E0, 0, 0x8000000080971650].map (decodeTableWord 64) =
    [none, none, none, none, none]
/-- Decoding and encoding agree: every well-formed instruction is what its words decode to, whatever words follow
it, and in memory byte order; and every decoded instruction is well formed and has the words that it was read from. -/
def Obligations.DecodingInvertsEncoding : Prop :=
  (∀ i ws, isEvent i = false → i.wf = true → decodeWords (encode i ++ ws) = .ok i) ∧
  (∀ i, isEvent i = false → i.wf = true → decode (encodeBytes i) = .ok i) ∧
  (∀ ws i, decodeWords ws = .ok i → isEvent i = false ∧ i.wf = true ∧ i.bytes ≤ 4 * ws.length ∧
    ws.take (encode i).length = encode i)
/-- Storage keeps its canonical form (one list for one memory; log 4) over every step. -/
def Obligations.StorageStaysCanonical : Prop :=
  ∀ s t, Memory.wf s.mem = true → step s = .next t → Memory.wf t.mem = true
/-- R8, R20, R249, R309, R311, R390, R431, R436 and R437: after reset TIME is 0, every context is FREE, the boot ROM
waits, no capsule is held, and the registers with a reset value of the spec read it. CTXSTAT's ERR and LASTCODE, QSTAT's
CODE and MISSES, and INTCAUSE, read 0 by the model's choice (log 5, DESIGN CHOICE); storage is canonical (log 4). -/
def Obligations.ResetLeaves : Prop :=
  State.reset.time = 0 ∧ State.reset.groups = [] ∧ State.reset.launches = [] ∧ Memory.wf State.reset.mem = true ∧
  (∀ c, (State.reset.ctxOf c).st = .free ∧ State.reset.readReg (.ctxstat c) = 0 ∧ State.reset.readReg (.fabjob c) = 0 ∧
    State.reset.readReg (.rspill c) = 0 ∧ State.reset.readReg (.trcbase c) = 0 ∧ State.reset.readReg (.rplctl c) = 0) ∧
  (∀ c q, State.reset.readReg (.qstat c q) = 0) ∧ (∀ p, State.reset.readReg (.portctl p) = 0 ∧ State.reset.links.link p = 0) ∧
  State.reset.readReg .congctl = 16 * 2 ^ 8 ∧ (∀ c, State.reset.readReg (.congrate c) = 64) ∧
  State.reset.readReg .bootstat = 0 ∧ State.reset.readReg .pwrcap = 8 ∧ State.reset.readReg .rampcfg = 2 ∧
  State.reset.readReg .intcause = 0 ∧ State.reset.readReg .inten = 0 ∧ State.reset.readReg .tlbstat = 0 ∧
  State.reset.readReg .capstat = 0 ∧ (∀ q, State.reset.throttle q = 0)
end

