-- ==== Sys2Proof/Laws/SMap.lean ====
section
/-! SUPPORT. Laws of the sparse maps: reading back what was set, and the canonical form. -/

namespace Sys2Proof

variable {α : Type}

theorem SMap.find?_ins_self (m : SMap α) (x : Nat) (w : α) (h : ∀ e ∈ m, e.1 ≠ x) :
    (SMap.ins m x w).find? x = some w := by
  induction m with
  | nil => simp [SMap.ins, SMap.find?]
  | cons e m ih =>
    obtain ⟨k, v⟩ := e
    have hk : k ≠ x := h (k, v) (by simp)
    simp only [SMap.ins]
    split
    · simp [SMap.find?]
    · simp only [SMap.find?, if_neg (Ne.symm hk)]
      exact ih (fun e he => h e (List.mem_cons_of_mem _ he))

theorem SMap.find?_ins_ne (m : SMap α) {x y : Nat} (w : α) (h : y ≠ x) :
    (SMap.ins m x w).find? y = m.find? y := by
  induction m with
  | nil => simp [SMap.ins, SMap.find?, h]
  | cons e m ih =>
    obtain ⟨k, v⟩ := e
    simp only [SMap.ins]
    split
    · simp [SMap.find?, h]
    · simp only [SMap.find?, ih]

theorem SMap.del_ne (m : SMap α) (x : Nat) : ∀ e ∈ m.del x, e.1 ≠ x := by
  intro e he
  simpa [SMap.del] using (List.mem_filter.1 he).2

theorem SMap.find?_del_self (m : SMap α) (x : Nat) : (m.del x).find? x = none := by
  induction m with
  | nil => rfl
  | cons e m ih =>
    obtain ⟨k, v⟩ := e
    by_cases h : k = x
    · simpa [SMap.del, h] using ih
    · have : SMap.find? ((k, v) :: SMap.del m x) x = none := by
        simp only [SMap.find?, if_neg (Ne.symm h)]; exact ih
      simpa [SMap.del, h] using this

theorem SMap.find?_del_ne (m : SMap α) {x y : Nat} (h : y ≠ x) : (m.del x).find? y = m.find? y := by
  induction m with
  | nil => rfl
  | cons e m ih =>
    obtain ⟨k, v⟩ := e
    by_cases hk : k = x
    · subst hk
      simpa [SMap.del, SMap.find?, h] using ih
    · have : SMap.find? ((k, v) :: SMap.del m x) y = SMap.find? ((k, v) :: m) y := by
        simp only [SMap.find?, ih]
      simpa [SMap.del, hk] using this

theorem SMap.find?_put_self (m : SMap α) (x : Nat) (w : α) : (m.put x w).find? x = some w :=
  SMap.find?_ins_self _ _ _ (SMap.del_ne m x)

theorem SMap.find?_put_ne (m : SMap α) {x y : Nat} (w : α) (h : y ≠ x) :
    (m.put x w).find? y = m.find? y := by
  rw [SMap.put, SMap.find?_ins_ne _ _ h, SMap.find?_del_ne _ h]

/-- What was set is read back. -/
@[simp] theorem SMap.get_set_self [DecidableEq α] (d : α) (m : SMap α) (x : Nat) (w : α) :
    SMap.get d (SMap.set d m x w) x = w := by
  unfold SMap.get SMap.set
  split
  · next h => simp [SMap.find?_del_self, h]
  · simp [SMap.find?_put_self]

/-- Setting a key leaves every other key. -/
theorem SMap.get_set_ne [DecidableEq α] (d : α) (m : SMap α) {x y : Nat} (w : α) (h : y ≠ x) :
    SMap.get d (SMap.set d m x w) y = SMap.get d m y := by
  unfold SMap.get SMap.set
  split
  · rw [SMap.find?_del_ne _ h]
  · rw [SMap.find?_put_ne _ _ h]

theorem SMap.get_set [DecidableEq α] (d : α) (m : SMap α) (x y : Nat) (w : α) :
    SMap.get d (SMap.set d m x w) y = if y = x then w else SMap.get d m y := by
  split
  · next h => subst h; simp
  · next h => exact SMap.get_set_ne d m w h

@[simp] theorem SMap.get_nil (d : α) (x : Nat) : SMap.get d ([] : SMap α) x = d := rfl

/-! ### The canonical form -/

theorem SMap.risingFrom_iff (b : Nat) (m : SMap α) :
    SMap.risingFrom b m = true ↔ (∀ e ∈ m, b < e.1) ∧ m.Pairwise (fun x y => x.1 < y.1) := by
  induction m generalizing b with
  | nil => simp [SMap.risingFrom]
  | cons e m ih =>
    obtain ⟨k, v⟩ := e
    simp only [SMap.risingFrom, Bool.and_eq_true, decide_eq_true_eq, ih, List.pairwise_cons,
      List.mem_cons, forall_eq_or_imp]
    constructor
    · rintro ⟨h1, h2, h3⟩
      exact ⟨⟨h1, fun e he => Nat.lt_trans h1 (h2 e he)⟩, h2, h3⟩
    · rintro ⟨⟨h1, _⟩, h2, h3⟩
      exact ⟨h1, h2, h3⟩

theorem SMap.rising_iff (m : SMap α) : SMap.rising m = true ↔ m.Pairwise (fun x y => x.1 < y.1) := by
  cases m with
  | nil => simp [SMap.rising]
  | cons e m =>
    obtain ⟨k, v⟩ := e
    simp [SMap.rising, SMap.risingFrom_iff, List.pairwise_cons]

/-- The canonical form in words: keys rise, and no entry holds what an unlisted key reads as. -/
theorem SMap.wf_iff [DecidableEq α] (d : α) (m : SMap α) :
    SMap.wf d m = true ↔ m.Pairwise (fun x y => x.1 < y.1) ∧ ∀ e ∈ m, e.2 ≠ d := by
  simp [SMap.wf, SMap.rising_iff]

@[simp] theorem SMap.wf_nil [DecidableEq α] (d : α) : SMap.wf d ([] : SMap α) = true := rfl

theorem SMap.wf_filter [DecidableEq α] {d : α} {m : SMap α} (f : Nat × α → Bool) (h : SMap.wf d m = true) :
    SMap.wf d (m.filter f) = true := by
  rw [SMap.wf_iff] at h ⊢
  exact ⟨h.1.filter f, fun e he => h.2 e (List.mem_filter.1 he).1⟩

theorem SMap.mem_ins {m : SMap α} {x : Nat} {w : α} {e : Nat × α} (h : e ∈ SMap.ins m x w) :
    e = (x, w) ∨ e ∈ m := by
  induction m with
  | nil => simpa [SMap.ins] using h
  | cons a m ih =>
    obtain ⟨k, v⟩ := a
    simp only [SMap.ins] at h
    split at h
    · simpa using h
    · rcases List.mem_cons.1 h with h | h
      · exact .inr (by simp [h])
      · rcases ih h with h | h
        · exact .inl h
        · exact .inr (List.mem_cons_of_mem _ h)

theorem SMap.pairwise_ins {m : SMap α} {x : Nat} {w : α} (hp : m.Pairwise (fun a b => a.1 < b.1))
    (hx : ∀ e ∈ m, e.1 ≠ x) : (SMap.ins m x w).Pairwise (fun a b => a.1 < b.1) := by
  induction m with
  | nil => simp [SMap.ins]
  | cons a m ih =>
    obtain ⟨k, v⟩ := a
    rw [List.pairwise_cons] at hp
    simp only [SMap.ins]
    split
    · next h =>
      refine List.pairwise_cons.2 ⟨fun e he => ?_, List.pairwise_cons.2 hp⟩
      rcases List.mem_cons.1 he with rfl | he
      · exact h
      · exact Nat.lt_trans h (hp.1 e he)
    · next h =>
      refine List.pairwise_cons.2 ⟨fun e he => ?_, ih hp.2 (fun e he => hx e (List.mem_cons_of_mem _ he))⟩
      have hk : k ≠ x := hx (k, v) (by simp)
      rcases SMap.mem_ins he with rfl | he
      · exact Nat.lt_of_le_of_ne (Nat.le_of_not_lt h) hk
      · exact hp.1 e he

/-- Setting a key keeps the canonical form. -/
theorem SMap.wf_set [DecidableEq α] {d : α} {m : SMap α} (x : Nat) (w : α) (h : SMap.wf d m = true) :
    SMap.wf d (SMap.set d m x w) = true := by
  unfold SMap.set
  have hd : SMap.wf d (m.del x) = true := SMap.wf_filter _ h
  split
  · exact hd
  · next hw =>
    rw [SMap.wf_iff] at hd ⊢
    refine ⟨SMap.pairwise_ins hd.1 (SMap.del_ne m x), fun e he => ?_⟩
    rcases SMap.mem_ins he with rfl | he
    · exact hw
    · exact hd.2 e he

theorem SMap.wf_clear [DecidableEq α] {d : α} {m : SMap α} (lo n : Nat) (h : SMap.wf d m = true) :
    SMap.wf d (m.clear lo n) = true := SMap.wf_filter _ h

end Sys2Proof
end

