-- ==== Sys2Proof/Laws/State.lean ====
section
/-! SUPPORT. One lemma for each field of each update of the state and of a group: the fields that an
update does not name are as before. -/

namespace Sys2Proof.Machine

/-! ### State.setGroup -/

@[simp] theorem State.setGroup_time (s : State) (g : Group) : (s.setGroup g).time = s.time := rfl
@[simp] theorem State.setGroup_clock (s : State) (g : Group) : (s.setGroup g).clock = s.clock := rfl
@[simp] theorem State.setGroup_issues (s : State) (g : Group) : (s.setGroup g).issues = s.issues := rfl
@[simp] theorem State.setGroup_clocks (s : State) (g : Group) : (s.setGroup g).clocks = s.clocks := rfl
@[simp] theorem State.setGroup_agenda (s : State) (g : Group) : (s.setGroup g).agenda = s.agenda := rfl
@[simp] theorem State.setGroup_issuer (s : State) (g : Group) : (s.setGroup g).issuer = s.issuer := rfl
@[simp] theorem State.setGroup_nextId (s : State) (g : Group) : (s.setGroup g).nextId = s.nextId := rfl
@[simp] theorem State.setGroup_freeCtr (s : State) (g : Group) : (s.setGroup g).freeCtr = s.freeCtr := rfl
@[simp] theorem State.setGroup_mem (s : State) (g : Group) : (s.setGroup g).mem = s.mem := rfl
@[simp] theorem State.setGroup_ctxtab (s : State) (g : Group) : (s.setGroup g).ctxtab = s.ctxtab := rfl
@[simp] theorem State.setGroup_ctxs (s : State) (g : Group) : (s.setGroup g).ctxs = s.ctxs := rfl
@[simp] theorem State.setGroup_launches (s : State) (g : Group) : (s.setGroup g).launches = s.launches := rfl
@[simp] theorem State.setGroup_crews (s : State) (g : Group) : (s.setGroup g).crews = s.crews := rfl
@[simp] theorem State.setGroup_images (s : State) (g : Group) : (s.setGroup g).images = s.images := rfl
@[simp] theorem State.setGroup_ops (s : State) (g : Group) : (s.setGroup g).ops = s.ops := rfl
@[simp] theorem State.setGroup_reqs (s : State) (g : Group) : (s.setGroup g).reqs = s.reqs := rfl
@[simp] theorem State.setGroup_l1 (s : State) (g : Group) : (s.setGroup g).l1 = s.l1 := rfl
@[simp] theorem State.setGroup_expiry (s : State) (g : Group) : (s.setGroup g).expiry = s.expiry := rfl
@[simp] theorem State.setGroup_eDrop (s : State) (g : Group) : (s.setGroup g).eDrop = s.eDrop := rfl
@[simp] theorem State.setGroup_dirty (s : State) (g : Group) : (s.setGroup g).dirty = s.dirty := rfl
@[simp] theorem State.setGroup_token (s : State) (g : Group) : (s.setGroup g).token = s.token := rfl
@[simp] theorem State.setGroup_resv (s : State) (g : Group) : (s.setGroup g).resv = s.resv := rfl
@[simp] theorem State.setGroup_cells (s : State) (g : Group) : (s.setGroup g).cells = s.cells := rfl
@[simp] theorem State.setGroup_split (s : State) (g : Group) : (s.setGroup g).split = s.split := rfl
@[simp] theorem State.setGroup_scraps (s : State) (g : Group) : (s.setGroup g).scraps = s.scraps := rfl
@[simp] theorem State.setGroup_gcount (s : State) (g : Group) : (s.setGroup g).gcount = s.gcount := rfl
@[simp] theorem State.setGroup_engines (s : State) (g : Group) : (s.setGroup g).engines = s.engines := rfl
@[simp] theorem State.setGroup_page (s : State) (g : Group) : (s.setGroup g).page = s.page := rfl
@[simp] theorem State.setGroup_links (s : State) (g : Group) : (s.setGroup g).links = s.links := rfl
@[simp] theorem State.setGroup_recorder (s : State) (g : Group) : (s.setGroup g).recorder = s.recorder := rfl
@[simp] theorem State.setGroup_boot (s : State) (g : Group) : (s.setGroup g).boot = s.boot := rfl
@[simp] theorem State.setGroup_svc (s : State) (g : Group) : (s.setGroup g).svc = s.svc := rfl
@[simp] theorem State.setGroup_power (s : State) (g : Group) : (s.setGroup g).power = s.power := rfl
@[simp] theorem State.setGroup_cong (s : State) (g : Group) : (s.setGroup g).cong = s.cong := rfl

/-! ### State.setCtx -/

@[simp] theorem State.setCtx_time (s : State) (c : Ctx) : (s.setCtx c).time = s.time := rfl
@[simp] theorem State.setCtx_clock (s : State) (c : Ctx) : (s.setCtx c).clock = s.clock := rfl
@[simp] theorem State.setCtx_issues (s : State) (c : Ctx) : (s.setCtx c).issues = s.issues := rfl
@[simp] theorem State.setCtx_clocks (s : State) (c : Ctx) : (s.setCtx c).clocks = s.clocks := rfl
@[simp] theorem State.setCtx_agenda (s : State) (c : Ctx) : (s.setCtx c).agenda = s.agenda := rfl
@[simp] theorem State.setCtx_issuer (s : State) (c : Ctx) : (s.setCtx c).issuer = s.issuer := rfl
@[simp] theorem State.setCtx_nextId (s : State) (c : Ctx) : (s.setCtx c).nextId = s.nextId := rfl
@[simp] theorem State.setCtx_freeCtr (s : State) (c : Ctx) : (s.setCtx c).freeCtr = s.freeCtr := rfl
@[simp] theorem State.setCtx_mem (s : State) (c : Ctx) : (s.setCtx c).mem = s.mem := rfl
@[simp] theorem State.setCtx_ctxtab (s : State) (c : Ctx) : (s.setCtx c).ctxtab = s.ctxtab := rfl
@[simp] theorem State.setCtx_launches (s : State) (c : Ctx) : (s.setCtx c).launches = s.launches := rfl
@[simp] theorem State.setCtx_crews (s : State) (c : Ctx) : (s.setCtx c).crews = s.crews := rfl
@[simp] theorem State.setCtx_images (s : State) (c : Ctx) : (s.setCtx c).images = s.images := rfl
@[simp] theorem State.setCtx_groups (s : State) (c : Ctx) : (s.setCtx c).groups = s.groups := rfl
@[simp] theorem State.setCtx_ops (s : State) (c : Ctx) : (s.setCtx c).ops = s.ops := rfl
@[simp] theorem State.setCtx_reqs (s : State) (c : Ctx) : (s.setCtx c).reqs = s.reqs := rfl
@[simp] theorem State.setCtx_l1 (s : State) (c : Ctx) : (s.setCtx c).l1 = s.l1 := rfl
@[simp] theorem State.setCtx_expiry (s : State) (c : Ctx) : (s.setCtx c).expiry = s.expiry := rfl
@[simp] theorem State.setCtx_eDrop (s : State) (c : Ctx) : (s.setCtx c).eDrop = s.eDrop := rfl
@[simp] theorem State.setCtx_dirty (s : State) (c : Ctx) : (s.setCtx c).dirty = s.dirty := rfl
@[simp] theorem State.setCtx_token (s : State) (c : Ctx) : (s.setCtx c).token = s.token := rfl
@[simp] theorem State.setCtx_resv (s : State) (c : Ctx) : (s.setCtx c).resv = s.resv := rfl
@[simp] theorem State.setCtx_cells (s : State) (c : Ctx) : (s.setCtx c).cells = s.cells := rfl
@[simp] theorem State.setCtx_split (s : State) (c : Ctx) : (s.setCtx c).split = s.split := rfl
@[simp] theorem State.setCtx_scraps (s : State) (c : Ctx) : (s.setCtx c).scraps = s.scraps := rfl
@[simp] theorem State.setCtx_gcount (s : State) (c : Ctx) : (s.setCtx c).gcount = s.gcount := rfl
@[simp] theorem State.setCtx_engines (s : State) (c : Ctx) : (s.setCtx c).engines = s.engines := rfl
@[simp] theorem State.setCtx_page (s : State) (c : Ctx) : (s.setCtx c).page = s.page := rfl
@[simp] theorem State.setCtx_links (s : State) (c : Ctx) : (s.setCtx c).links = s.links := rfl
@[simp] theorem State.setCtx_recorder (s : State) (c : Ctx) : (s.setCtx c).recorder = s.recorder := rfl
@[simp] theorem State.setCtx_boot (s : State) (c : Ctx) : (s.setCtx c).boot = s.boot := rfl
@[simp] theorem State.setCtx_svc (s : State) (c : Ctx) : (s.setCtx c).svc = s.svc := rfl
@[simp] theorem State.setCtx_power (s : State) (c : Ctx) : (s.setCtx c).power = s.power := rfl
@[simp] theorem State.setCtx_cong (s : State) (c : Ctx) : (s.setCtx c).cong = s.cong := rfl

/-! ### State.modLaunch -/

@[simp] theorem State.modLaunch_time (s : State) (k : Nat) (f : Launch → Launch) : (s.modLaunch k f).time = s.time := rfl
@[simp] theorem State.modLaunch_clock (s : State) (k : Nat) (f : Launch → Launch) : (s.modLaunch k f).clock = s.clock := rfl
@[simp] theorem State.modLaunch_issues (s : State) (k : Nat) (f : Launch → Launch) : (s.modLaunch k f).issues = s.issues := rfl
@[simp] theorem State.modLaunch_clocks (s : State) (k : Nat) (f : Launch → Launch) : (s.modLaunch k f).clocks = s.clocks := rfl
@[simp] theorem State.modLaunch_agenda (s : State) (k : Nat) (f : Launch → Launch) : (s.modLaunch k f).agenda = s.agenda := rfl
@[simp] theorem State.modLaunch_issuer (s : State) (k : Nat) (f : Launch → Launch) : (s.modLaunch k f).issuer = s.issuer := rfl
@[simp] theorem State.modLaunch_nextId (s : State) (k : Nat) (f : Launch → Launch) : (s.modLaunch k f).nextId = s.nextId := rfl
@[simp] theorem State.modLaunch_freeCtr (s : State) (k : Nat) (f : Launch → Launch) : (s.modLaunch k f).freeCtr = s.freeCtr := rfl
@[simp] theorem State.modLaunch_mem (s : State) (k : Nat) (f : Launch → Launch) : (s.modLaunch k f).mem = s.mem := rfl
@[simp] theorem State.modLaunch_ctxtab (s : State) (k : Nat) (f : Launch → Launch) : (s.modLaunch k f).ctxtab = s.ctxtab := rfl
@[simp] theorem State.modLaunch_ctxs (s : State) (k : Nat) (f : Launch → Launch) : (s.modLaunch k f).ctxs = s.ctxs := rfl
@[simp] theorem State.modLaunch_crews (s : State) (k : Nat) (f : Launch → Launch) : (s.modLaunch k f).crews = s.crews := rfl
@[simp] theorem State.modLaunch_images (s : State) (k : Nat) (f : Launch → Launch) : (s.modLaunch k f).images = s.images := rfl
@[simp] theorem State.modLaunch_groups (s : State) (k : Nat) (f : Launch → Launch) : (s.modLaunch k f).groups = s.groups := rfl
@[simp] theorem State.modLaunch_ops (s : State) (k : Nat) (f : Launch → Launch) : (s.modLaunch k f).ops = s.ops := rfl
@[simp] theorem State.modLaunch_reqs (s : State) (k : Nat) (f : Launch → Launch) : (s.modLaunch k f).reqs = s.reqs := rfl
@[simp] theorem State.modLaunch_l1 (s : State) (k : Nat) (f : Launch → Launch) : (s.modLaunch k f).l1 = s.l1 := rfl
@[simp] theorem State.modLaunch_expiry (s : State) (k : Nat) (f : Launch → Launch) : (s.modLaunch k f).expiry = s.expiry := rfl
@[simp] theorem State.modLaunch_eDrop (s : State) (k : Nat) (f : Launch → Launch) : (s.modLaunch k f).eDrop = s.eDrop := rfl
@[simp] theorem State.modLaunch_dirty (s : State) (k : Nat) (f : Launch → Launch) : (s.modLaunch k f).dirty = s.dirty := rfl
@[simp] theorem State.modLaunch_token (s : State) (k : Nat) (f : Launch → Launch) : (s.modLaunch k f).token = s.token := rfl
@[simp] theorem State.modLaunch_resv (s : State) (k : Nat) (f : Launch → Launch) : (s.modLaunch k f).resv = s.resv := rfl
@[simp] theorem State.modLaunch_cells (s : State) (k : Nat) (f : Launch → Launch) : (s.modLaunch k f).cells = s.cells := rfl
@[simp] theorem State.modLaunch_split (s : State) (k : Nat) (f : Launch → Launch) : (s.modLaunch k f).split = s.split := rfl
@[simp] theorem State.modLaunch_scraps (s : State) (k : Nat) (f : Launch → Launch) : (s.modLaunch k f).scraps = s.scraps := rfl
@[simp] theorem State.modLaunch_gcount (s : State) (k : Nat) (f : Launch → Launch) : (s.modLaunch k f).gcount = s.gcount := rfl
@[simp] theorem State.modLaunch_engines (s : State) (k : Nat) (f : Launch → Launch) : (s.modLaunch k f).engines = s.engines := rfl
@[simp] theorem State.modLaunch_page (s : State) (k : Nat) (f : Launch → Launch) : (s.modLaunch k f).page = s.page := rfl
@[simp] theorem State.modLaunch_links (s : State) (k : Nat) (f : Launch → Launch) : (s.modLaunch k f).links = s.links := rfl
@[simp] theorem State.modLaunch_recorder (s : State) (k : Nat) (f : Launch → Launch) : (s.modLaunch k f).recorder = s.recorder := rfl
@[simp] theorem State.modLaunch_boot (s : State) (k : Nat) (f : Launch → Launch) : (s.modLaunch k f).boot = s.boot := rfl
@[simp] theorem State.modLaunch_svc (s : State) (k : Nat) (f : Launch → Launch) : (s.modLaunch k f).svc = s.svc := rfl
@[simp] theorem State.modLaunch_power (s : State) (k : Nat) (f : Launch → Launch) : (s.modLaunch k f).power = s.power := rfl
@[simp] theorem State.modLaunch_cong (s : State) (k : Nat) (f : Launch → Launch) : (s.modLaunch k f).cong = s.cong := rfl

/-! ### State.modCrew -/

@[simp] theorem State.modCrew_time (s : State) (k c : Nat) (f : Crew → Crew) : (s.modCrew k c f).time = s.time := rfl
@[simp] theorem State.modCrew_clock (s : State) (k c : Nat) (f : Crew → Crew) : (s.modCrew k c f).clock = s.clock := rfl
@[simp] theorem State.modCrew_issues (s : State) (k c : Nat) (f : Crew → Crew) : (s.modCrew k c f).issues = s.issues := rfl
@[simp] theorem State.modCrew_clocks (s : State) (k c : Nat) (f : Crew → Crew) : (s.modCrew k c f).clocks = s.clocks := rfl
@[simp] theorem State.modCrew_agenda (s : State) (k c : Nat) (f : Crew → Crew) : (s.modCrew k c f).agenda = s.agenda := rfl
@[simp] theorem State.modCrew_issuer (s : State) (k c : Nat) (f : Crew → Crew) : (s.modCrew k c f).issuer = s.issuer := rfl
@[simp] theorem State.modCrew_nextId (s : State) (k c : Nat) (f : Crew → Crew) : (s.modCrew k c f).nextId = s.nextId := rfl
@[simp] theorem State.modCrew_freeCtr (s : State) (k c : Nat) (f : Crew → Crew) : (s.modCrew k c f).freeCtr = s.freeCtr := rfl
@[simp] theorem State.modCrew_mem (s : State) (k c : Nat) (f : Crew → Crew) : (s.modCrew k c f).mem = s.mem := rfl
@[simp] theorem State.modCrew_ctxtab (s : State) (k c : Nat) (f : Crew → Crew) : (s.modCrew k c f).ctxtab = s.ctxtab := rfl
@[simp] theorem State.modCrew_ctxs (s : State) (k c : Nat) (f : Crew → Crew) : (s.modCrew k c f).ctxs = s.ctxs := rfl
@[simp] theorem State.modCrew_launches (s : State) (k c : Nat) (f : Crew → Crew) : (s.modCrew k c f).launches = s.launches := rfl
@[simp] theorem State.modCrew_images (s : State) (k c : Nat) (f : Crew → Crew) : (s.modCrew k c f).images = s.images := rfl
@[simp] theorem State.modCrew_groups (s : State) (k c : Nat) (f : Crew → Crew) : (s.modCrew k c f).groups = s.groups := rfl
@[simp] theorem State.modCrew_ops (s : State) (k c : Nat) (f : Crew → Crew) : (s.modCrew k c f).ops = s.ops := rfl
@[simp] theorem State.modCrew_reqs (s : State) (k c : Nat) (f : Crew → Crew) : (s.modCrew k c f).reqs = s.reqs := rfl
@[simp] theorem State.modCrew_l1 (s : State) (k c : Nat) (f : Crew → Crew) : (s.modCrew k c f).l1 = s.l1 := rfl
@[simp] theorem State.modCrew_expiry (s : State) (k c : Nat) (f : Crew → Crew) : (s.modCrew k c f).expiry = s.expiry := rfl
@[simp] theorem State.modCrew_eDrop (s : State) (k c : Nat) (f : Crew → Crew) : (s.modCrew k c f).eDrop = s.eDrop := rfl
@[simp] theorem State.modCrew_dirty (s : State) (k c : Nat) (f : Crew → Crew) : (s.modCrew k c f).dirty = s.dirty := rfl
@[simp] theorem State.modCrew_token (s : State) (k c : Nat) (f : Crew → Crew) : (s.modCrew k c f).token = s.token := rfl
@[simp] theorem State.modCrew_resv (s : State) (k c : Nat) (f : Crew → Crew) : (s.modCrew k c f).resv = s.resv := rfl
@[simp] theorem State.modCrew_cells (s : State) (k c : Nat) (f : Crew → Crew) : (s.modCrew k c f).cells = s.cells := rfl
@[simp] theorem State.modCrew_split (s : State) (k c : Nat) (f : Crew → Crew) : (s.modCrew k c f).split = s.split := rfl
@[simp] theorem State.modCrew_scraps (s : State) (k c : Nat) (f : Crew → Crew) : (s.modCrew k c f).scraps = s.scraps := rfl
@[simp] theorem State.modCrew_gcount (s : State) (k c : Nat) (f : Crew → Crew) : (s.modCrew k c f).gcount = s.gcount := rfl
@[simp] theorem State.modCrew_engines (s : State) (k c : Nat) (f : Crew → Crew) : (s.modCrew k c f).engines = s.engines := rfl
@[simp] theorem State.modCrew_page (s : State) (k c : Nat) (f : Crew → Crew) : (s.modCrew k c f).page = s.page := rfl
@[simp] theorem State.modCrew_links (s : State) (k c : Nat) (f : Crew → Crew) : (s.modCrew k c f).links = s.links := rfl
@[simp] theorem State.modCrew_recorder (s : State) (k c : Nat) (f : Crew → Crew) : (s.modCrew k c f).recorder = s.recorder := rfl
@[simp] theorem State.modCrew_boot (s : State) (k c : Nat) (f : Crew → Crew) : (s.modCrew k c f).boot = s.boot := rfl
@[simp] theorem State.modCrew_svc (s : State) (k c : Nat) (f : Crew → Crew) : (s.modCrew k c f).svc = s.svc := rfl
@[simp] theorem State.modCrew_power (s : State) (k c : Nat) (f : Crew → Crew) : (s.modCrew k c f).power = s.power := rfl
@[simp] theorem State.modCrew_cong (s : State) (k c : Nat) (f : Crew → Crew) : (s.modCrew k c f).cong = s.cong := rfl

/-! ### State.modOp -/

@[simp] theorem State.modOp_time (s : State) (i : Nat) (f : Op → Op) : (s.modOp i f).time = s.time := rfl
@[simp] theorem State.modOp_clock (s : State) (i : Nat) (f : Op → Op) : (s.modOp i f).clock = s.clock := rfl
@[simp] theorem State.modOp_issues (s : State) (i : Nat) (f : Op → Op) : (s.modOp i f).issues = s.issues := rfl
@[simp] theorem State.modOp_clocks (s : State) (i : Nat) (f : Op → Op) : (s.modOp i f).clocks = s.clocks := rfl
@[simp] theorem State.modOp_agenda (s : State) (i : Nat) (f : Op → Op) : (s.modOp i f).agenda = s.agenda := rfl
@[simp] theorem State.modOp_issuer (s : State) (i : Nat) (f : Op → Op) : (s.modOp i f).issuer = s.issuer := rfl
@[simp] theorem State.modOp_nextId (s : State) (i : Nat) (f : Op → Op) : (s.modOp i f).nextId = s.nextId := rfl
@[simp] theorem State.modOp_freeCtr (s : State) (i : Nat) (f : Op → Op) : (s.modOp i f).freeCtr = s.freeCtr := rfl
@[simp] theorem State.modOp_mem (s : State) (i : Nat) (f : Op → Op) : (s.modOp i f).mem = s.mem := rfl
@[simp] theorem State.modOp_ctxtab (s : State) (i : Nat) (f : Op → Op) : (s.modOp i f).ctxtab = s.ctxtab := rfl
@[simp] theorem State.modOp_ctxs (s : State) (i : Nat) (f : Op → Op) : (s.modOp i f).ctxs = s.ctxs := rfl
@[simp] theorem State.modOp_launches (s : State) (i : Nat) (f : Op → Op) : (s.modOp i f).launches = s.launches := rfl
@[simp] theorem State.modOp_crews (s : State) (i : Nat) (f : Op → Op) : (s.modOp i f).crews = s.crews := rfl
@[simp] theorem State.modOp_images (s : State) (i : Nat) (f : Op → Op) : (s.modOp i f).images = s.images := rfl
@[simp] theorem State.modOp_groups (s : State) (i : Nat) (f : Op → Op) : (s.modOp i f).groups = s.groups := rfl
@[simp] theorem State.modOp_reqs (s : State) (i : Nat) (f : Op → Op) : (s.modOp i f).reqs = s.reqs := rfl
@[simp] theorem State.modOp_l1 (s : State) (i : Nat) (f : Op → Op) : (s.modOp i f).l1 = s.l1 := rfl
@[simp] theorem State.modOp_expiry (s : State) (i : Nat) (f : Op → Op) : (s.modOp i f).expiry = s.expiry := rfl
@[simp] theorem State.modOp_eDrop (s : State) (i : Nat) (f : Op → Op) : (s.modOp i f).eDrop = s.eDrop := rfl
@[simp] theorem State.modOp_dirty (s : State) (i : Nat) (f : Op → Op) : (s.modOp i f).dirty = s.dirty := rfl
@[simp] theorem State.modOp_token (s : State) (i : Nat) (f : Op → Op) : (s.modOp i f).token = s.token := rfl
@[simp] theorem State.modOp_resv (s : State) (i : Nat) (f : Op → Op) : (s.modOp i f).resv = s.resv := rfl
@[simp] theorem State.modOp_cells (s : State) (i : Nat) (f : Op → Op) : (s.modOp i f).cells = s.cells := rfl
@[simp] theorem State.modOp_split (s : State) (i : Nat) (f : Op → Op) : (s.modOp i f).split = s.split := rfl
@[simp] theorem State.modOp_scraps (s : State) (i : Nat) (f : Op → Op) : (s.modOp i f).scraps = s.scraps := rfl
@[simp] theorem State.modOp_gcount (s : State) (i : Nat) (f : Op → Op) : (s.modOp i f).gcount = s.gcount := rfl
@[simp] theorem State.modOp_engines (s : State) (i : Nat) (f : Op → Op) : (s.modOp i f).engines = s.engines := rfl
@[simp] theorem State.modOp_page (s : State) (i : Nat) (f : Op → Op) : (s.modOp i f).page = s.page := rfl
@[simp] theorem State.modOp_links (s : State) (i : Nat) (f : Op → Op) : (s.modOp i f).links = s.links := rfl
@[simp] theorem State.modOp_recorder (s : State) (i : Nat) (f : Op → Op) : (s.modOp i f).recorder = s.recorder := rfl
@[simp] theorem State.modOp_boot (s : State) (i : Nat) (f : Op → Op) : (s.modOp i f).boot = s.boot := rfl
@[simp] theorem State.modOp_svc (s : State) (i : Nat) (f : Op → Op) : (s.modOp i f).svc = s.svc := rfl
@[simp] theorem State.modOp_power (s : State) (i : Nat) (f : Op → Op) : (s.modOp i f).power = s.power := rfl
@[simp] theorem State.modOp_cong (s : State) (i : Nat) (f : Op → Op) : (s.modOp i f).cong = s.cong := rfl

/-! ### State.delOp -/

@[simp] theorem State.delOp_time (s : State) (i : Nat) : (s.delOp i).time = s.time := rfl
@[simp] theorem State.delOp_clock (s : State) (i : Nat) : (s.delOp i).clock = s.clock := rfl
@[simp] theorem State.delOp_issues (s : State) (i : Nat) : (s.delOp i).issues = s.issues := rfl
@[simp] theorem State.delOp_clocks (s : State) (i : Nat) : (s.delOp i).clocks = s.clocks := rfl
@[simp] theorem State.delOp_agenda (s : State) (i : Nat) : (s.delOp i).agenda = s.agenda := rfl
@[simp] theorem State.delOp_issuer (s : State) (i : Nat) : (s.delOp i).issuer = s.issuer := rfl
@[simp] theorem State.delOp_nextId (s : State) (i : Nat) : (s.delOp i).nextId = s.nextId := rfl
@[simp] theorem State.delOp_freeCtr (s : State) (i : Nat) : (s.delOp i).freeCtr = s.freeCtr := rfl
@[simp] theorem State.delOp_mem (s : State) (i : Nat) : (s.delOp i).mem = s.mem := rfl
@[simp] theorem State.delOp_ctxtab (s : State) (i : Nat) : (s.delOp i).ctxtab = s.ctxtab := rfl
@[simp] theorem State.delOp_ctxs (s : State) (i : Nat) : (s.delOp i).ctxs = s.ctxs := rfl
@[simp] theorem State.delOp_launches (s : State) (i : Nat) : (s.delOp i).launches = s.launches := rfl
@[simp] theorem State.delOp_crews (s : State) (i : Nat) : (s.delOp i).crews = s.crews := rfl
@[simp] theorem State.delOp_images (s : State) (i : Nat) : (s.delOp i).images = s.images := rfl
@[simp] theorem State.delOp_groups (s : State) (i : Nat) : (s.delOp i).groups = s.groups := rfl
@[simp] theorem State.delOp_reqs (s : State) (i : Nat) : (s.delOp i).reqs = s.reqs := rfl
@[simp] theorem State.delOp_l1 (s : State) (i : Nat) : (s.delOp i).l1 = s.l1 := rfl
@[simp] theorem State.delOp_expiry (s : State) (i : Nat) : (s.delOp i).expiry = s.expiry := rfl
@[simp] theorem State.delOp_eDrop (s : State) (i : Nat) : (s.delOp i).eDrop = s.eDrop := rfl
@[simp] theorem State.delOp_dirty (s : State) (i : Nat) : (s.delOp i).dirty = s.dirty := rfl
@[simp] theorem State.delOp_token (s : State) (i : Nat) : (s.delOp i).token = s.token := rfl
@[simp] theorem State.delOp_resv (s : State) (i : Nat) : (s.delOp i).resv = s.resv := rfl
@[simp] theorem State.delOp_cells (s : State) (i : Nat) : (s.delOp i).cells = s.cells := rfl
@[simp] theorem State.delOp_split (s : State) (i : Nat) : (s.delOp i).split = s.split := rfl
@[simp] theorem State.delOp_scraps (s : State) (i : Nat) : (s.delOp i).scraps = s.scraps := rfl
@[simp] theorem State.delOp_gcount (s : State) (i : Nat) : (s.delOp i).gcount = s.gcount := rfl
@[simp] theorem State.delOp_engines (s : State) (i : Nat) : (s.delOp i).engines = s.engines := rfl
@[simp] theorem State.delOp_page (s : State) (i : Nat) : (s.delOp i).page = s.page := rfl
@[simp] theorem State.delOp_links (s : State) (i : Nat) : (s.delOp i).links = s.links := rfl
@[simp] theorem State.delOp_recorder (s : State) (i : Nat) : (s.delOp i).recorder = s.recorder := rfl
@[simp] theorem State.delOp_boot (s : State) (i : Nat) : (s.delOp i).boot = s.boot := rfl
@[simp] theorem State.delOp_svc (s : State) (i : Nat) : (s.delOp i).svc = s.svc := rfl
@[simp] theorem State.delOp_power (s : State) (i : Nat) : (s.delOp i).power = s.power := rfl
@[simp] theorem State.delOp_cong (s : State) (i : Nat) : (s.delOp i).cong = s.cong := rfl

/-! ### State.setByte -/

@[simp] theorem State.setByte_time (s : State) (k : Nat) (b : Byte) : (s.setByte k b).time = s.time := rfl
@[simp] theorem State.setByte_clock (s : State) (k : Nat) (b : Byte) : (s.setByte k b).clock = s.clock := rfl
@[simp] theorem State.setByte_issues (s : State) (k : Nat) (b : Byte) : (s.setByte k b).issues = s.issues := rfl
@[simp] theorem State.setByte_clocks (s : State) (k : Nat) (b : Byte) : (s.setByte k b).clocks = s.clocks := rfl
@[simp] theorem State.setByte_agenda (s : State) (k : Nat) (b : Byte) : (s.setByte k b).agenda = s.agenda := rfl
@[simp] theorem State.setByte_issuer (s : State) (k : Nat) (b : Byte) : (s.setByte k b).issuer = s.issuer := rfl
@[simp] theorem State.setByte_nextId (s : State) (k : Nat) (b : Byte) : (s.setByte k b).nextId = s.nextId := rfl
@[simp] theorem State.setByte_freeCtr (s : State) (k : Nat) (b : Byte) : (s.setByte k b).freeCtr = s.freeCtr := rfl
@[simp] theorem State.setByte_ctxtab (s : State) (k : Nat) (b : Byte) : (s.setByte k b).ctxtab = s.ctxtab := rfl
@[simp] theorem State.setByte_ctxs (s : State) (k : Nat) (b : Byte) : (s.setByte k b).ctxs = s.ctxs := rfl
@[simp] theorem State.setByte_launches (s : State) (k : Nat) (b : Byte) : (s.setByte k b).launches = s.launches := rfl
@[simp] theorem State.setByte_crews (s : State) (k : Nat) (b : Byte) : (s.setByte k b).crews = s.crews := rfl
@[simp] theorem State.setByte_images (s : State) (k : Nat) (b : Byte) : (s.setByte k b).images = s.images := rfl
@[simp] theorem State.setByte_groups (s : State) (k : Nat) (b : Byte) : (s.setByte k b).groups = s.groups := rfl
@[simp] theorem State.setByte_ops (s : State) (k : Nat) (b : Byte) : (s.setByte k b).ops = s.ops := rfl
@[simp] theorem State.setByte_reqs (s : State) (k : Nat) (b : Byte) : (s.setByte k b).reqs = s.reqs := rfl
@[simp] theorem State.setByte_l1 (s : State) (k : Nat) (b : Byte) : (s.setByte k b).l1 = s.l1 := rfl
@[simp] theorem State.setByte_expiry (s : State) (k : Nat) (b : Byte) : (s.setByte k b).expiry = s.expiry := rfl
@[simp] theorem State.setByte_eDrop (s : State) (k : Nat) (b : Byte) : (s.setByte k b).eDrop = s.eDrop := rfl
@[simp] theorem State.setByte_dirty (s : State) (k : Nat) (b : Byte) : (s.setByte k b).dirty = s.dirty := rfl
@[simp] theorem State.setByte_token (s : State) (k : Nat) (b : Byte) : (s.setByte k b).token = s.token := rfl
@[simp] theorem State.setByte_resv (s : State) (k : Nat) (b : Byte) : (s.setByte k b).resv = s.resv := rfl
@[simp] theorem State.setByte_cells (s : State) (k : Nat) (b : Byte) : (s.setByte k b).cells = s.cells := rfl
@[simp] theorem State.setByte_split (s : State) (k : Nat) (b : Byte) : (s.setByte k b).split = s.split := rfl
@[simp] theorem State.setByte_scraps (s : State) (k : Nat) (b : Byte) : (s.setByte k b).scraps = s.scraps := rfl
@[simp] theorem State.setByte_gcount (s : State) (k : Nat) (b : Byte) : (s.setByte k b).gcount = s.gcount := rfl
@[simp] theorem State.setByte_engines (s : State) (k : Nat) (b : Byte) : (s.setByte k b).engines = s.engines := rfl
@[simp] theorem State.setByte_page (s : State) (k : Nat) (b : Byte) : (s.setByte k b).page = s.page := rfl
@[simp] theorem State.setByte_links (s : State) (k : Nat) (b : Byte) : (s.setByte k b).links = s.links := rfl
@[simp] theorem State.setByte_recorder (s : State) (k : Nat) (b : Byte) : (s.setByte k b).recorder = s.recorder := rfl
@[simp] theorem State.setByte_boot (s : State) (k : Nat) (b : Byte) : (s.setByte k b).boot = s.boot := rfl
@[simp] theorem State.setByte_svc (s : State) (k : Nat) (b : Byte) : (s.setByte k b).svc = s.svc := rfl
@[simp] theorem State.setByte_power (s : State) (k : Nat) (b : Byte) : (s.setByte k b).power = s.power := rfl
@[simp] theorem State.setByte_cong (s : State) (k : Nat) (b : Byte) : (s.setByte k b).cong = s.cong := rfl

/-! ### State.setEngine -/

@[simp] theorem State.setEngine_time (s : State) (n : Nat) (e : Engine) : (s.setEngine n e).time = s.time := rfl
@[simp] theorem State.setEngine_clock (s : State) (n : Nat) (e : Engine) : (s.setEngine n e).clock = s.clock := rfl
@[simp] theorem State.setEngine_issues (s : State) (n : Nat) (e : Engine) : (s.setEngine n e).issues = s.issues := rfl
@[simp] theorem State.setEngine_clocks (s : State) (n : Nat) (e : Engine) : (s.setEngine n e).clocks = s.clocks := rfl
@[simp] theorem State.setEngine_agenda (s : State) (n : Nat) (e : Engine) : (s.setEngine n e).agenda = s.agenda := rfl
@[simp] theorem State.setEngine_issuer (s : State) (n : Nat) (e : Engine) : (s.setEngine n e).issuer = s.issuer := rfl
@[simp] theorem State.setEngine_nextId (s : State) (n : Nat) (e : Engine) : (s.setEngine n e).nextId = s.nextId := rfl
@[simp] theorem State.setEngine_freeCtr (s : State) (n : Nat) (e : Engine) : (s.setEngine n e).freeCtr = s.freeCtr := rfl
@[simp] theorem State.setEngine_mem (s : State) (n : Nat) (e : Engine) : (s.setEngine n e).mem = s.mem := rfl
@[simp] theorem State.setEngine_ctxtab (s : State) (n : Nat) (e : Engine) : (s.setEngine n e).ctxtab = s.ctxtab := rfl
@[simp] theorem State.setEngine_ctxs (s : State) (n : Nat) (e : Engine) : (s.setEngine n e).ctxs = s.ctxs := rfl
@[simp] theorem State.setEngine_launches (s : State) (n : Nat) (e : Engine) : (s.setEngine n e).launches = s.launches := rfl
@[simp] theorem State.setEngine_crews (s : State) (n : Nat) (e : Engine) : (s.setEngine n e).crews = s.crews := rfl
@[simp] theorem State.setEngine_images (s : State) (n : Nat) (e : Engine) : (s.setEngine n e).images = s.images := rfl
@[simp] theorem State.setEngine_groups (s : State) (n : Nat) (e : Engine) : (s.setEngine n e).groups = s.groups := rfl
@[simp] theorem State.setEngine_ops (s : State) (n : Nat) (e : Engine) : (s.setEngine n e).ops = s.ops := rfl
@[simp] theorem State.setEngine_reqs (s : State) (n : Nat) (e : Engine) : (s.setEngine n e).reqs = s.reqs := rfl
@[simp] theorem State.setEngine_l1 (s : State) (n : Nat) (e : Engine) : (s.setEngine n e).l1 = s.l1 := rfl
@[simp] theorem State.setEngine_expiry (s : State) (n : Nat) (e : Engine) : (s.setEngine n e).expiry = s.expiry := rfl
@[simp] theorem State.setEngine_eDrop (s : State) (n : Nat) (e : Engine) : (s.setEngine n e).eDrop = s.eDrop := rfl
@[simp] theorem State.setEngine_dirty (s : State) (n : Nat) (e : Engine) : (s.setEngine n e).dirty = s.dirty := rfl
@[simp] theorem State.setEngine_token (s : State) (n : Nat) (e : Engine) : (s.setEngine n e).token = s.token := rfl
@[simp] theorem State.setEngine_resv (s : State) (n : Nat) (e : Engine) : (s.setEngine n e).resv = s.resv := rfl
@[simp] theorem State.setEngine_cells (s : State) (n : Nat) (e : Engine) : (s.setEngine n e).cells = s.cells := rfl
@[simp] theorem State.setEngine_split (s : State) (n : Nat) (e : Engine) : (s.setEngine n e).split = s.split := rfl
@[simp] theorem State.setEngine_scraps (s : State) (n : Nat) (e : Engine) : (s.setEngine n e).scraps = s.scraps := rfl
@[simp] theorem State.setEngine_gcount (s : State) (n : Nat) (e : Engine) : (s.setEngine n e).gcount = s.gcount := rfl
@[simp] theorem State.setEngine_page (s : State) (n : Nat) (e : Engine) : (s.setEngine n e).page = s.page := rfl
@[simp] theorem State.setEngine_links (s : State) (n : Nat) (e : Engine) : (s.setEngine n e).links = s.links := rfl
@[simp] theorem State.setEngine_recorder (s : State) (n : Nat) (e : Engine) : (s.setEngine n e).recorder = s.recorder := rfl
@[simp] theorem State.setEngine_boot (s : State) (n : Nat) (e : Engine) : (s.setEngine n e).boot = s.boot := rfl
@[simp] theorem State.setEngine_svc (s : State) (n : Nat) (e : Engine) : (s.setEngine n e).svc = s.svc := rfl
@[simp] theorem State.setEngine_power (s : State) (n : Nat) (e : Engine) : (s.setEngine n e).power = s.power := rfl
@[simp] theorem State.setEngine_cong (s : State) (n : Nat) (e : Engine) : (s.setEngine n e).cong = s.cong := rfl

/-! ### State.setRing -/

@[simp] theorem State.setRing_time (s : State) (r : Ring) : (s.setRing r).time = s.time := rfl
@[simp] theorem State.setRing_clock (s : State) (r : Ring) : (s.setRing r).clock = s.clock := rfl
@[simp] theorem State.setRing_issues (s : State) (r : Ring) : (s.setRing r).issues = s.issues := rfl
@[simp] theorem State.setRing_clocks (s : State) (r : Ring) : (s.setRing r).clocks = s.clocks := rfl
@[simp] theorem State.setRing_agenda (s : State) (r : Ring) : (s.setRing r).agenda = s.agenda := rfl
@[simp] theorem State.setRing_issuer (s : State) (r : Ring) : (s.setRing r).issuer = s.issuer := rfl
@[simp] theorem State.setRing_nextId (s : State) (r : Ring) : (s.setRing r).nextId = s.nextId := rfl
@[simp] theorem State.setRing_freeCtr (s : State) (r : Ring) : (s.setRing r).freeCtr = s.freeCtr := rfl
@[simp] theorem State.setRing_mem (s : State) (r : Ring) : (s.setRing r).mem = s.mem := rfl
@[simp] theorem State.setRing_ctxtab (s : State) (r : Ring) : (s.setRing r).ctxtab = s.ctxtab := rfl
@[simp] theorem State.setRing_ctxs (s : State) (r : Ring) : (s.setRing r).ctxs = s.ctxs := rfl
@[simp] theorem State.setRing_launches (s : State) (r : Ring) : (s.setRing r).launches = s.launches := rfl
@[simp] theorem State.setRing_crews (s : State) (r : Ring) : (s.setRing r).crews = s.crews := rfl
@[simp] theorem State.setRing_images (s : State) (r : Ring) : (s.setRing r).images = s.images := rfl
@[simp] theorem State.setRing_groups (s : State) (r : Ring) : (s.setRing r).groups = s.groups := rfl
@[simp] theorem State.setRing_ops (s : State) (r : Ring) : (s.setRing r).ops = s.ops := rfl
@[simp] theorem State.setRing_reqs (s : State) (r : Ring) : (s.setRing r).reqs = s.reqs := rfl
@[simp] theorem State.setRing_l1 (s : State) (r : Ring) : (s.setRing r).l1 = s.l1 := rfl
@[simp] theorem State.setRing_expiry (s : State) (r : Ring) : (s.setRing r).expiry = s.expiry := rfl
@[simp] theorem State.setRing_eDrop (s : State) (r : Ring) : (s.setRing r).eDrop = s.eDrop := rfl
@[simp] theorem State.setRing_dirty (s : State) (r : Ring) : (s.setRing r).dirty = s.dirty := rfl
@[simp] theorem State.setRing_token (s : State) (r : Ring) : (s.setRing r).token = s.token := rfl
@[simp] theorem State.setRing_resv (s : State) (r : Ring) : (s.setRing r).resv = s.resv := rfl
@[simp] theorem State.setRing_cells (s : State) (r : Ring) : (s.setRing r).cells = s.cells := rfl
@[simp] theorem State.setRing_split (s : State) (r : Ring) : (s.setRing r).split = s.split := rfl
@[simp] theorem State.setRing_scraps (s : State) (r : Ring) : (s.setRing r).scraps = s.scraps := rfl
@[simp] theorem State.setRing_gcount (s : State) (r : Ring) : (s.setRing r).gcount = s.gcount := rfl
@[simp] theorem State.setRing_engines (s : State) (r : Ring) : (s.setRing r).engines = s.engines := rfl
@[simp] theorem State.setRing_page (s : State) (r : Ring) : (s.setRing r).page = s.page := rfl
@[simp] theorem State.setRing_links (s : State) (r : Ring) : (s.setRing r).links = s.links := rfl
@[simp] theorem State.setRing_boot (s : State) (r : Ring) : (s.setRing r).boot = s.boot := rfl
@[simp] theorem State.setRing_svc (s : State) (r : Ring) : (s.setRing r).svc = s.svc := rfl
@[simp] theorem State.setRing_power (s : State) (r : Ring) : (s.setRing r).power = s.power := rfl
@[simp] theorem State.setRing_cong (s : State) (r : Ring) : (s.setRing r).cong = s.cong := rfl

/-! ### State.slot -/

@[simp] theorem State.slot_time (s : State) (k q : Nat) : (s.slot k q).time = s.time := rfl
@[simp] theorem State.slot_clock (s : State) (k q : Nat) : (s.slot k q).clock = s.clock := rfl
@[simp] theorem State.slot_issues (s : State) (k q : Nat) : (s.slot k q).issues = s.issues := rfl
@[simp] theorem State.slot_clocks (s : State) (k q : Nat) : (s.slot k q).clocks = s.clocks := rfl
@[simp] theorem State.slot_agenda (s : State) (k q : Nat) : (s.slot k q).agenda = s.agenda := rfl
@[simp] theorem State.slot_issuer (s : State) (k q : Nat) : (s.slot k q).issuer = s.issuer := rfl
@[simp] theorem State.slot_nextId (s : State) (k q : Nat) : (s.slot k q).nextId = s.nextId := rfl
@[simp] theorem State.slot_freeCtr (s : State) (k q : Nat) : (s.slot k q).freeCtr = s.freeCtr := rfl
@[simp] theorem State.slot_mem (s : State) (k q : Nat) : (s.slot k q).mem = s.mem := rfl
@[simp] theorem State.slot_ctxtab (s : State) (k q : Nat) : (s.slot k q).ctxtab = s.ctxtab := rfl
@[simp] theorem State.slot_ctxs (s : State) (k q : Nat) : (s.slot k q).ctxs = s.ctxs := rfl
@[simp] theorem State.slot_launches (s : State) (k q : Nat) : (s.slot k q).launches = s.launches := rfl
@[simp] theorem State.slot_crews (s : State) (k q : Nat) : (s.slot k q).crews = s.crews := rfl
@[simp] theorem State.slot_images (s : State) (k q : Nat) : (s.slot k q).images = s.images := rfl
@[simp] theorem State.slot_groups (s : State) (k q : Nat) : (s.slot k q).groups = s.groups := rfl
@[simp] theorem State.slot_ops (s : State) (k q : Nat) : (s.slot k q).ops = s.ops := rfl
@[simp] theorem State.slot_reqs (s : State) (k q : Nat) : (s.slot k q).reqs = s.reqs := rfl
@[simp] theorem State.slot_l1 (s : State) (k q : Nat) : (s.slot k q).l1 = s.l1 := rfl
@[simp] theorem State.slot_expiry (s : State) (k q : Nat) : (s.slot k q).expiry = s.expiry := rfl
@[simp] theorem State.slot_eDrop (s : State) (k q : Nat) : (s.slot k q).eDrop = s.eDrop := rfl
@[simp] theorem State.slot_dirty (s : State) (k q : Nat) : (s.slot k q).dirty = s.dirty := rfl
@[simp] theorem State.slot_token (s : State) (k q : Nat) : (s.slot k q).token = s.token := rfl
@[simp] theorem State.slot_resv (s : State) (k q : Nat) : (s.slot k q).resv = s.resv := rfl
@[simp] theorem State.slot_cells (s : State) (k q : Nat) : (s.slot k q).cells = s.cells := rfl
@[simp] theorem State.slot_split (s : State) (k q : Nat) : (s.slot k q).split = s.split := rfl
@[simp] theorem State.slot_scraps (s : State) (k q : Nat) : (s.slot k q).scraps = s.scraps := rfl
@[simp] theorem State.slot_gcount (s : State) (k q : Nat) : (s.slot k q).gcount = s.gcount := rfl
@[simp] theorem State.slot_engines (s : State) (k q : Nat) : (s.slot k q).engines = s.engines := rfl
@[simp] theorem State.slot_page (s : State) (k q : Nat) : (s.slot k q).page = s.page := rfl
@[simp] theorem State.slot_links (s : State) (k q : Nat) : (s.slot k q).links = s.links := rfl
@[simp] theorem State.slot_recorder (s : State) (k q : Nat) : (s.slot k q).recorder = s.recorder := rfl
@[simp] theorem State.slot_boot (s : State) (k q : Nat) : (s.slot k q).boot = s.boot := rfl
@[simp] theorem State.slot_svc (s : State) (k q : Nat) : (s.slot k q).svc = s.svc := rfl
@[simp] theorem State.slot_cong (s : State) (k q : Nat) : (s.slot k q).cong = s.cong := rfl

/-! ### State.endYields -/

@[simp] theorem State.endYields_time (s : State) (i : GroupId) (k : Nat) : (s.endYields i k).time = s.time := rfl
@[simp] theorem State.endYields_clock (s : State) (i : GroupId) (k : Nat) : (s.endYields i k).clock = s.clock := rfl
@[simp] theorem State.endYields_issues (s : State) (i : GroupId) (k : Nat) : (s.endYields i k).issues = s.issues := rfl
@[simp] theorem State.endYields_clocks (s : State) (i : GroupId) (k : Nat) : (s.endYields i k).clocks = s.clocks := rfl
@[simp] theorem State.endYields_agenda (s : State) (i : GroupId) (k : Nat) : (s.endYields i k).agenda = s.agenda := rfl
@[simp] theorem State.endYields_issuer (s : State) (i : GroupId) (k : Nat) : (s.endYields i k).issuer = s.issuer := rfl
@[simp] theorem State.endYields_nextId (s : State) (i : GroupId) (k : Nat) : (s.endYields i k).nextId = s.nextId := rfl
@[simp] theorem State.endYields_freeCtr (s : State) (i : GroupId) (k : Nat) : (s.endYields i k).freeCtr = s.freeCtr := rfl
@[simp] theorem State.endYields_mem (s : State) (i : GroupId) (k : Nat) : (s.endYields i k).mem = s.mem := rfl
@[simp] theorem State.endYields_ctxtab (s : State) (i : GroupId) (k : Nat) : (s.endYields i k).ctxtab = s.ctxtab := rfl
@[simp] theorem State.endYields_ctxs (s : State) (i : GroupId) (k : Nat) : (s.endYields i k).ctxs = s.ctxs := rfl
@[simp] theorem State.endYields_launches (s : State) (i : GroupId) (k : Nat) : (s.endYields i k).launches = s.launches := rfl
@[simp] theorem State.endYields_crews (s : State) (i : GroupId) (k : Nat) : (s.endYields i k).crews = s.crews := rfl
@[simp] theorem State.endYields_images (s : State) (i : GroupId) (k : Nat) : (s.endYields i k).images = s.images := rfl
@[simp] theorem State.endYields_ops (s : State) (i : GroupId) (k : Nat) : (s.endYields i k).ops = s.ops := rfl
@[simp] theorem State.endYields_reqs (s : State) (i : GroupId) (k : Nat) : (s.endYields i k).reqs = s.reqs := rfl
@[simp] theorem State.endYields_l1 (s : State) (i : GroupId) (k : Nat) : (s.endYields i k).l1 = s.l1 := rfl
@[simp] theorem State.endYields_expiry (s : State) (i : GroupId) (k : Nat) : (s.endYields i k).expiry = s.expiry := rfl
@[simp] theorem State.endYields_eDrop (s : State) (i : GroupId) (k : Nat) : (s.endYields i k).eDrop = s.eDrop := rfl
@[simp] theorem State.endYields_dirty (s : State) (i : GroupId) (k : Nat) : (s.endYields i k).dirty = s.dirty := rfl
@[simp] theorem State.endYields_token (s : State) (i : GroupId) (k : Nat) : (s.endYields i k).token = s.token := rfl
@[simp] theorem State.endYields_resv (s : State) (i : GroupId) (k : Nat) : (s.endYields i k).resv = s.resv := rfl
@[simp] theorem State.endYields_cells (s : State) (i : GroupId) (k : Nat) : (s.endYields i k).cells = s.cells := rfl
@[simp] theorem State.endYields_split (s : State) (i : GroupId) (k : Nat) : (s.endYields i k).split = s.split := rfl
@[simp] theorem State.endYields_scraps (s : State) (i : GroupId) (k : Nat) : (s.endYields i k).scraps = s.scraps := rfl
@[simp] theorem State.endYields_gcount (s : State) (i : GroupId) (k : Nat) : (s.endYields i k).gcount = s.gcount := rfl
@[simp] theorem State.endYields_engines (s : State) (i : GroupId) (k : Nat) : (s.endYields i k).engines = s.engines := rfl
@[simp] theorem State.endYields_page (s : State) (i : GroupId) (k : Nat) : (s.endYields i k).page = s.page := rfl
@[simp] theorem State.endYields_links (s : State) (i : GroupId) (k : Nat) : (s.endYields i k).links = s.links := rfl
@[simp] theorem State.endYields_recorder (s : State) (i : GroupId) (k : Nat) : (s.endYields i k).recorder = s.recorder := rfl
@[simp] theorem State.endYields_boot (s : State) (i : GroupId) (k : Nat) : (s.endYields i k).boot = s.boot := rfl
@[simp] theorem State.endYields_svc (s : State) (i : GroupId) (k : Nat) : (s.endYields i k).svc = s.svc := rfl
@[simp] theorem State.endYields_power (s : State) (i : GroupId) (k : Nat) : (s.endYields i k).power = s.power := rfl
@[simp] theorem State.endYields_cong (s : State) (i : GroupId) (k : Nat) : (s.endYields i k).cong = s.cong := rfl

/-! ### State.countIssue -/

@[simp] theorem State.countIssue_time (s : State) (g : Group) : (s.countIssue g).time = s.time := rfl
@[simp] theorem State.countIssue_clocks (s : State) (g : Group) : (s.countIssue g).clocks = s.clocks := rfl
@[simp] theorem State.countIssue_clock (s : State) (g : Group) : (s.countIssue g).clock = s.clock := rfl
@[simp] theorem State.countIssue_agenda (s : State) (g : Group) : (s.countIssue g).agenda = s.agenda := rfl
@[simp] theorem State.countIssue_issuer (s : State) (g : Group) : (s.countIssue g).issuer = s.issuer := rfl
@[simp] theorem State.countIssue_nextId (s : State) (g : Group) : (s.countIssue g).nextId = s.nextId := rfl
@[simp] theorem State.countIssue_freeCtr (s : State) (g : Group) : (s.countIssue g).freeCtr = s.freeCtr := rfl
@[simp] theorem State.countIssue_mem (s : State) (g : Group) : (s.countIssue g).mem = s.mem := rfl
@[simp] theorem State.countIssue_ctxtab (s : State) (g : Group) : (s.countIssue g).ctxtab = s.ctxtab := rfl
@[simp] theorem State.countIssue_ctxs (s : State) (g : Group) : (s.countIssue g).ctxs = s.ctxs := rfl
@[simp] theorem State.countIssue_launches (s : State) (g : Group) : (s.countIssue g).launches = s.launches := rfl
@[simp] theorem State.countIssue_crews (s : State) (g : Group) : (s.countIssue g).crews = s.crews := rfl
@[simp] theorem State.countIssue_images (s : State) (g : Group) : (s.countIssue g).images = s.images := rfl
@[simp] theorem State.countIssue_groups (s : State) (g : Group) : (s.countIssue g).groups = s.groups := rfl
@[simp] theorem State.countIssue_ops (s : State) (g : Group) : (s.countIssue g).ops = s.ops := rfl
@[simp] theorem State.countIssue_reqs (s : State) (g : Group) : (s.countIssue g).reqs = s.reqs := rfl
@[simp] theorem State.countIssue_l1 (s : State) (g : Group) : (s.countIssue g).l1 = s.l1 := rfl
@[simp] theorem State.countIssue_expiry (s : State) (g : Group) : (s.countIssue g).expiry = s.expiry := rfl
@[simp] theorem State.countIssue_eDrop (s : State) (g : Group) : (s.countIssue g).eDrop = s.eDrop := rfl
@[simp] theorem State.countIssue_dirty (s : State) (g : Group) : (s.countIssue g).dirty = s.dirty := rfl
@[simp] theorem State.countIssue_token (s : State) (g : Group) : (s.countIssue g).token = s.token := rfl
@[simp] theorem State.countIssue_resv (s : State) (g : Group) : (s.countIssue g).resv = s.resv := rfl
@[simp] theorem State.countIssue_cells (s : State) (g : Group) : (s.countIssue g).cells = s.cells := rfl
@[simp] theorem State.countIssue_split (s : State) (g : Group) : (s.countIssue g).split = s.split := rfl
@[simp] theorem State.countIssue_scraps (s : State) (g : Group) : (s.countIssue g).scraps = s.scraps := rfl
@[simp] theorem State.countIssue_gcount (s : State) (g : Group) : (s.countIssue g).gcount = s.gcount := rfl
@[simp] theorem State.countIssue_engines (s : State) (g : Group) : (s.countIssue g).engines = s.engines := rfl
@[simp] theorem State.countIssue_page (s : State) (g : Group) : (s.countIssue g).page = s.page := rfl
@[simp] theorem State.countIssue_links (s : State) (g : Group) : (s.countIssue g).links = s.links := rfl
@[simp] theorem State.countIssue_recorder (s : State) (g : Group) : (s.countIssue g).recorder = s.recorder := rfl
@[simp] theorem State.countIssue_boot (s : State) (g : Group) : (s.countIssue g).boot = s.boot := rfl
@[simp] theorem State.countIssue_svc (s : State) (g : Group) : (s.countIssue g).svc = s.svc := rfl
@[simp] theorem State.countIssue_power (s : State) (g : Group) : (s.countIssue g).power = s.power := rfl
@[simp] theorem State.countIssue_cong (s : State) (g : Group) : (s.countIssue g).cong = s.cong := rfl

/-! ### State.cause -/

@[simp] theorem State.cause_time (s : State) (k : Nat) : (s.cause k).time = s.time := rfl
@[simp] theorem State.cause_clock (s : State) (k : Nat) : (s.cause k).clock = s.clock := rfl
@[simp] theorem State.cause_issues (s : State) (k : Nat) : (s.cause k).issues = s.issues := rfl
@[simp] theorem State.cause_clocks (s : State) (k : Nat) : (s.cause k).clocks = s.clocks := rfl
@[simp] theorem State.cause_agenda (s : State) (k : Nat) : (s.cause k).agenda = s.agenda := rfl
@[simp] theorem State.cause_issuer (s : State) (k : Nat) : (s.cause k).issuer = s.issuer := rfl
@[simp] theorem State.cause_nextId (s : State) (k : Nat) : (s.cause k).nextId = s.nextId := rfl
@[simp] theorem State.cause_freeCtr (s : State) (k : Nat) : (s.cause k).freeCtr = s.freeCtr := rfl
@[simp] theorem State.cause_mem (s : State) (k : Nat) : (s.cause k).mem = s.mem := rfl
@[simp] theorem State.cause_ctxtab (s : State) (k : Nat) : (s.cause k).ctxtab = s.ctxtab := rfl
@[simp] theorem State.cause_ctxs (s : State) (k : Nat) : (s.cause k).ctxs = s.ctxs := rfl
@[simp] theorem State.cause_launches (s : State) (k : Nat) : (s.cause k).launches = s.launches := rfl
@[simp] theorem State.cause_crews (s : State) (k : Nat) : (s.cause k).crews = s.crews := rfl
@[simp] theorem State.cause_images (s : State) (k : Nat) : (s.cause k).images = s.images := rfl
@[simp] theorem State.cause_groups (s : State) (k : Nat) : (s.cause k).groups = s.groups := rfl
@[simp] theorem State.cause_ops (s : State) (k : Nat) : (s.cause k).ops = s.ops := rfl
@[simp] theorem State.cause_reqs (s : State) (k : Nat) : (s.cause k).reqs = s.reqs := rfl
@[simp] theorem State.cause_l1 (s : State) (k : Nat) : (s.cause k).l1 = s.l1 := rfl
@[simp] theorem State.cause_expiry (s : State) (k : Nat) : (s.cause k).expiry = s.expiry := rfl
@[simp] theorem State.cause_eDrop (s : State) (k : Nat) : (s.cause k).eDrop = s.eDrop := rfl
@[simp] theorem State.cause_dirty (s : State) (k : Nat) : (s.cause k).dirty = s.dirty := rfl
@[simp] theorem State.cause_token (s : State) (k : Nat) : (s.cause k).token = s.token := rfl
@[simp] theorem State.cause_resv (s : State) (k : Nat) : (s.cause k).resv = s.resv := rfl
@[simp] theorem State.cause_cells (s : State) (k : Nat) : (s.cause k).cells = s.cells := rfl
@[simp] theorem State.cause_split (s : State) (k : Nat) : (s.cause k).split = s.split := rfl
@[simp] theorem State.cause_scraps (s : State) (k : Nat) : (s.cause k).scraps = s.scraps := rfl
@[simp] theorem State.cause_gcount (s : State) (k : Nat) : (s.cause k).gcount = s.gcount := rfl
@[simp] theorem State.cause_engines (s : State) (k : Nat) : (s.cause k).engines = s.engines := rfl
@[simp] theorem State.cause_page (s : State) (k : Nat) : (s.cause k).page = s.page := rfl
@[simp] theorem State.cause_recorder (s : State) (k : Nat) : (s.cause k).recorder = s.recorder := rfl
@[simp] theorem State.cause_boot (s : State) (k : Nat) : (s.cause k).boot = s.boot := rfl
@[simp] theorem State.cause_svc (s : State) (k : Nat) : (s.cause k).svc = s.svc := rfl
@[simp] theorem State.cause_power (s : State) (k : Nat) : (s.cause k).power = s.power := rfl
@[simp] theorem State.cause_cong (s : State) (k : Nat) : (s.cause k).cong = s.cong := rfl

/-! ### State.modCtx -/

@[simp] theorem State.modCtx_time (s : State) (c : Nat) (f : Ctx → Ctx) : (s.modCtx c f).time = s.time := by unfold State.modCtx; split <;> rfl
@[simp] theorem State.modCtx_clock (s : State) (c : Nat) (f : Ctx → Ctx) : (s.modCtx c f).clock = s.clock := by unfold State.modCtx; split <;> rfl
@[simp] theorem State.modCtx_issues (s : State) (c : Nat) (f : Ctx → Ctx) : (s.modCtx c f).issues = s.issues := by unfold State.modCtx; split <;> rfl
@[simp] theorem State.modCtx_clocks (s : State) (c : Nat) (f : Ctx → Ctx) : (s.modCtx c f).clocks = s.clocks := by unfold State.modCtx; split <;> rfl
@[simp] theorem State.modCtx_agenda (s : State) (c : Nat) (f : Ctx → Ctx) : (s.modCtx c f).agenda = s.agenda := by unfold State.modCtx; split <;> rfl
@[simp] theorem State.modCtx_issuer (s : State) (c : Nat) (f : Ctx → Ctx) : (s.modCtx c f).issuer = s.issuer := by unfold State.modCtx; split <;> rfl
@[simp] theorem State.modCtx_nextId (s : State) (c : Nat) (f : Ctx → Ctx) : (s.modCtx c f).nextId = s.nextId := by unfold State.modCtx; split <;> rfl
@[simp] theorem State.modCtx_freeCtr (s : State) (c : Nat) (f : Ctx → Ctx) : (s.modCtx c f).freeCtr = s.freeCtr := by unfold State.modCtx; split <;> rfl
@[simp] theorem State.modCtx_mem (s : State) (c : Nat) (f : Ctx → Ctx) : (s.modCtx c f).mem = s.mem := by unfold State.modCtx; split <;> rfl
@[simp] theorem State.modCtx_ctxtab (s : State) (c : Nat) (f : Ctx → Ctx) : (s.modCtx c f).ctxtab = s.ctxtab := by unfold State.modCtx; split <;> rfl
@[simp] theorem State.modCtx_launches (s : State) (c : Nat) (f : Ctx → Ctx) : (s.modCtx c f).launches = s.launches := by unfold State.modCtx; split <;> rfl
@[simp] theorem State.modCtx_crews (s : State) (c : Nat) (f : Ctx → Ctx) : (s.modCtx c f).crews = s.crews := by unfold State.modCtx; split <;> rfl
@[simp] theorem State.modCtx_images (s : State) (c : Nat) (f : Ctx → Ctx) : (s.modCtx c f).images = s.images := by unfold State.modCtx; split <;> rfl
@[simp] theorem State.modCtx_groups (s : State) (c : Nat) (f : Ctx → Ctx) : (s.modCtx c f).groups = s.groups := by unfold State.modCtx; split <;> rfl
@[simp] theorem State.modCtx_ops (s : State) (c : Nat) (f : Ctx → Ctx) : (s.modCtx c f).ops = s.ops := by unfold State.modCtx; split <;> rfl
@[simp] theorem State.modCtx_reqs (s : State) (c : Nat) (f : Ctx → Ctx) : (s.modCtx c f).reqs = s.reqs := by unfold State.modCtx; split <;> rfl
@[simp] theorem State.modCtx_l1 (s : State) (c : Nat) (f : Ctx → Ctx) : (s.modCtx c f).l1 = s.l1 := by unfold State.modCtx; split <;> rfl
@[simp] theorem State.modCtx_expiry (s : State) (c : Nat) (f : Ctx → Ctx) : (s.modCtx c f).expiry = s.expiry := by unfold State.modCtx; split <;> rfl
@[simp] theorem State.modCtx_eDrop (s : State) (c : Nat) (f : Ctx → Ctx) : (s.modCtx c f).eDrop = s.eDrop := by unfold State.modCtx; split <;> rfl
@[simp] theorem State.modCtx_dirty (s : State) (c : Nat) (f : Ctx → Ctx) : (s.modCtx c f).dirty = s.dirty := by unfold State.modCtx; split <;> rfl
@[simp] theorem State.modCtx_token (s : State) (c : Nat) (f : Ctx → Ctx) : (s.modCtx c f).token = s.token := by unfold State.modCtx; split <;> rfl
@[simp] theorem State.modCtx_resv (s : State) (c : Nat) (f : Ctx → Ctx) : (s.modCtx c f).resv = s.resv := by unfold State.modCtx; split <;> rfl
@[simp] theorem State.modCtx_cells (s : State) (c : Nat) (f : Ctx → Ctx) : (s.modCtx c f).cells = s.cells := by unfold State.modCtx; split <;> rfl
@[simp] theorem State.modCtx_split (s : State) (c : Nat) (f : Ctx → Ctx) : (s.modCtx c f).split = s.split := by unfold State.modCtx; split <;> rfl
@[simp] theorem State.modCtx_scraps (s : State) (c : Nat) (f : Ctx → Ctx) : (s.modCtx c f).scraps = s.scraps := by unfold State.modCtx; split <;> rfl
@[simp] theorem State.modCtx_gcount (s : State) (c : Nat) (f : Ctx → Ctx) : (s.modCtx c f).gcount = s.gcount := by unfold State.modCtx; split <;> rfl
@[simp] theorem State.modCtx_engines (s : State) (c : Nat) (f : Ctx → Ctx) : (s.modCtx c f).engines = s.engines := by unfold State.modCtx; split <;> rfl
@[simp] theorem State.modCtx_page (s : State) (c : Nat) (f : Ctx → Ctx) : (s.modCtx c f).page = s.page := by unfold State.modCtx; split <;> rfl
@[simp] theorem State.modCtx_links (s : State) (c : Nat) (f : Ctx → Ctx) : (s.modCtx c f).links = s.links := by unfold State.modCtx; split <;> rfl
@[simp] theorem State.modCtx_recorder (s : State) (c : Nat) (f : Ctx → Ctx) : (s.modCtx c f).recorder = s.recorder := by unfold State.modCtx; split <;> rfl
@[simp] theorem State.modCtx_boot (s : State) (c : Nat) (f : Ctx → Ctx) : (s.modCtx c f).boot = s.boot := by unfold State.modCtx; split <;> rfl
@[simp] theorem State.modCtx_svc (s : State) (c : Nat) (f : Ctx → Ctx) : (s.modCtx c f).svc = s.svc := by unfold State.modCtx; split <;> rfl
@[simp] theorem State.modCtx_power (s : State) (c : Nat) (f : Ctx → Ctx) : (s.modCtx c f).power = s.power := by unfold State.modCtx; split <;> rfl
@[simp] theorem State.modCtx_cong (s : State) (c : Nat) (f : Ctx → Ctx) : (s.modCtx c f).cong = s.cong := by unfold State.modCtx; split <;> rfl

/-! ### State.modGroup -/

@[simp] theorem State.modGroup_time (s : State) (i : GroupId) (f : Group → Group) : (s.modGroup i f).time = s.time := by unfold State.modGroup; split <;> rfl
@[simp] theorem State.modGroup_clock (s : State) (i : GroupId) (f : Group → Group) : (s.modGroup i f).clock = s.clock := by unfold State.modGroup; split <;> rfl
@[simp] theorem State.modGroup_issues (s : State) (i : GroupId) (f : Group → Group) : (s.modGroup i f).issues = s.issues := by unfold State.modGroup; split <;> rfl
@[simp] theorem State.modGroup_clocks (s : State) (i : GroupId) (f : Group → Group) : (s.modGroup i f).clocks = s.clocks := by unfold State.modGroup; split <;> rfl
@[simp] theorem State.modGroup_agenda (s : State) (i : GroupId) (f : Group → Group) : (s.modGroup i f).agenda = s.agenda := by unfold State.modGroup; split <;> rfl
@[simp] theorem State.modGroup_issuer (s : State) (i : GroupId) (f : Group → Group) : (s.modGroup i f).issuer = s.issuer := by unfold State.modGroup; split <;> rfl
@[simp] theorem State.modGroup_nextId (s : State) (i : GroupId) (f : Group → Group) : (s.modGroup i f).nextId = s.nextId := by unfold State.modGroup; split <;> rfl
@[simp] theorem State.modGroup_freeCtr (s : State) (i : GroupId) (f : Group → Group) : (s.modGroup i f).freeCtr = s.freeCtr := by unfold State.modGroup; split <;> rfl
@[simp] theorem State.modGroup_mem (s : State) (i : GroupId) (f : Group → Group) : (s.modGroup i f).mem = s.mem := by unfold State.modGroup; split <;> rfl
@[simp] theorem State.modGroup_ctxtab (s : State) (i : GroupId) (f : Group → Group) : (s.modGroup i f).ctxtab = s.ctxtab := by unfold State.modGroup; split <;> rfl
@[simp] theorem State.modGroup_ctxs (s : State) (i : GroupId) (f : Group → Group) : (s.modGroup i f).ctxs = s.ctxs := by unfold State.modGroup; split <;> rfl
@[simp] theorem State.modGroup_launches (s : State) (i : GroupId) (f : Group → Group) : (s.modGroup i f).launches = s.launches := by unfold State.modGroup; split <;> rfl
@[simp] theorem State.modGroup_crews (s : State) (i : GroupId) (f : Group → Group) : (s.modGroup i f).crews = s.crews := by unfold State.modGroup; split <;> rfl
@[simp] theorem State.modGroup_images (s : State) (i : GroupId) (f : Group → Group) : (s.modGroup i f).images = s.images := by unfold State.modGroup; split <;> rfl
@[simp] theorem State.modGroup_ops (s : State) (i : GroupId) (f : Group → Group) : (s.modGroup i f).ops = s.ops := by unfold State.modGroup; split <;> rfl
@[simp] theorem State.modGroup_reqs (s : State) (i : GroupId) (f : Group → Group) : (s.modGroup i f).reqs = s.reqs := by unfold State.modGroup; split <;> rfl
@[simp] theorem State.modGroup_l1 (s : State) (i : GroupId) (f : Group → Group) : (s.modGroup i f).l1 = s.l1 := by unfold State.modGroup; split <;> rfl
@[simp] theorem State.modGroup_expiry (s : State) (i : GroupId) (f : Group → Group) : (s.modGroup i f).expiry = s.expiry := by unfold State.modGroup; split <;> rfl
@[simp] theorem State.modGroup_eDrop (s : State) (i : GroupId) (f : Group → Group) : (s.modGroup i f).eDrop = s.eDrop := by unfold State.modGroup; split <;> rfl
@[simp] theorem State.modGroup_dirty (s : State) (i : GroupId) (f : Group → Group) : (s.modGroup i f).dirty = s.dirty := by unfold State.modGroup; split <;> rfl
@[simp] theorem State.modGroup_token (s : State) (i : GroupId) (f : Group → Group) : (s.modGroup i f).token = s.token := by unfold State.modGroup; split <;> rfl
@[simp] theorem State.modGroup_resv (s : State) (i : GroupId) (f : Group → Group) : (s.modGroup i f).resv = s.resv := by unfold State.modGroup; split <;> rfl
@[simp] theorem State.modGroup_cells (s : State) (i : GroupId) (f : Group → Group) : (s.modGroup i f).cells = s.cells := by unfold State.modGroup; split <;> rfl
@[simp] theorem State.modGroup_split (s : State) (i : GroupId) (f : Group → Group) : (s.modGroup i f).split = s.split := by unfold State.modGroup; split <;> rfl
@[simp] theorem State.modGroup_scraps (s : State) (i : GroupId) (f : Group → Group) : (s.modGroup i f).scraps = s.scraps := by unfold State.modGroup; split <;> rfl
@[simp] theorem State.modGroup_gcount (s : State) (i : GroupId) (f : Group → Group) : (s.modGroup i f).gcount = s.gcount := by unfold State.modGroup; split <;> rfl
@[simp] theorem State.modGroup_engines (s : State) (i : GroupId) (f : Group → Group) : (s.modGroup i f).engines = s.engines := by unfold State.modGroup; split <;> rfl
@[simp] theorem State.modGroup_page (s : State) (i : GroupId) (f : Group → Group) : (s.modGroup i f).page = s.page := by unfold State.modGroup; split <;> rfl
@[simp] theorem State.modGroup_links (s : State) (i : GroupId) (f : Group → Group) : (s.modGroup i f).links = s.links := by unfold State.modGroup; split <;> rfl
@[simp] theorem State.modGroup_recorder (s : State) (i : GroupId) (f : Group → Group) : (s.modGroup i f).recorder = s.recorder := by unfold State.modGroup; split <;> rfl
@[simp] theorem State.modGroup_boot (s : State) (i : GroupId) (f : Group → Group) : (s.modGroup i f).boot = s.boot := by unfold State.modGroup; split <;> rfl
@[simp] theorem State.modGroup_svc (s : State) (i : GroupId) (f : Group → Group) : (s.modGroup i f).svc = s.svc := by unfold State.modGroup; split <;> rfl
@[simp] theorem State.modGroup_power (s : State) (i : GroupId) (f : Group → Group) : (s.modGroup i f).power = s.power := by unfold State.modGroup; split <;> rfl
@[simp] theorem State.modGroup_cong (s : State) (i : GroupId) (f : Group → Group) : (s.modGroup i f).cong = s.cong := by unfold State.modGroup; split <;> rfl

/-! ### State.putCtx -/

@[simp] theorem State.putCtx_time (s : State) (c : Nat) (f : Ctx → Ctx) : (s.putCtx c f).time = s.time := rfl
@[simp] theorem State.putCtx_clock (s : State) (c : Nat) (f : Ctx → Ctx) : (s.putCtx c f).clock = s.clock := rfl
@[simp] theorem State.putCtx_issues (s : State) (c : Nat) (f : Ctx → Ctx) : (s.putCtx c f).issues = s.issues := rfl
@[simp] theorem State.putCtx_clocks (s : State) (c : Nat) (f : Ctx → Ctx) : (s.putCtx c f).clocks = s.clocks := rfl
@[simp] theorem State.putCtx_agenda (s : State) (c : Nat) (f : Ctx → Ctx) : (s.putCtx c f).agenda = s.agenda := rfl
@[simp] theorem State.putCtx_issuer (s : State) (c : Nat) (f : Ctx → Ctx) : (s.putCtx c f).issuer = s.issuer := rfl
@[simp] theorem State.putCtx_nextId (s : State) (c : Nat) (f : Ctx → Ctx) : (s.putCtx c f).nextId = s.nextId := rfl
@[simp] theorem State.putCtx_freeCtr (s : State) (c : Nat) (f : Ctx → Ctx) : (s.putCtx c f).freeCtr = s.freeCtr := rfl
@[simp] theorem State.putCtx_mem (s : State) (c : Nat) (f : Ctx → Ctx) : (s.putCtx c f).mem = s.mem := rfl
@[simp] theorem State.putCtx_ctxtab (s : State) (c : Nat) (f : Ctx → Ctx) : (s.putCtx c f).ctxtab = s.ctxtab := rfl
@[simp] theorem State.putCtx_launches (s : State) (c : Nat) (f : Ctx → Ctx) : (s.putCtx c f).launches = s.launches := rfl
@[simp] theorem State.putCtx_crews (s : State) (c : Nat) (f : Ctx → Ctx) : (s.putCtx c f).crews = s.crews := rfl
@[simp] theorem State.putCtx_images (s : State) (c : Nat) (f : Ctx → Ctx) : (s.putCtx c f).images = s.images := rfl
@[simp] theorem State.putCtx_groups (s : State) (c : Nat) (f : Ctx → Ctx) : (s.putCtx c f).groups = s.groups := rfl
@[simp] theorem State.putCtx_ops (s : State) (c : Nat) (f : Ctx → Ctx) : (s.putCtx c f).ops = s.ops := rfl
@[simp] theorem State.putCtx_reqs (s : State) (c : Nat) (f : Ctx → Ctx) : (s.putCtx c f).reqs = s.reqs := rfl
@[simp] theorem State.putCtx_l1 (s : State) (c : Nat) (f : Ctx → Ctx) : (s.putCtx c f).l1 = s.l1 := rfl
@[simp] theorem State.putCtx_expiry (s : State) (c : Nat) (f : Ctx → Ctx) : (s.putCtx c f).expiry = s.expiry := rfl
@[simp] theorem State.putCtx_eDrop (s : State) (c : Nat) (f : Ctx → Ctx) : (s.putCtx c f).eDrop = s.eDrop := rfl
@[simp] theorem State.putCtx_dirty (s : State) (c : Nat) (f : Ctx → Ctx) : (s.putCtx c f).dirty = s.dirty := rfl
@[simp] theorem State.putCtx_token (s : State) (c : Nat) (f : Ctx → Ctx) : (s.putCtx c f).token = s.token := rfl
@[simp] theorem State.putCtx_resv (s : State) (c : Nat) (f : Ctx → Ctx) : (s.putCtx c f).resv = s.resv := rfl
@[simp] theorem State.putCtx_cells (s : State) (c : Nat) (f : Ctx → Ctx) : (s.putCtx c f).cells = s.cells := rfl
@[simp] theorem State.putCtx_split (s : State) (c : Nat) (f : Ctx → Ctx) : (s.putCtx c f).split = s.split := rfl
@[simp] theorem State.putCtx_scraps (s : State) (c : Nat) (f : Ctx → Ctx) : (s.putCtx c f).scraps = s.scraps := rfl
@[simp] theorem State.putCtx_gcount (s : State) (c : Nat) (f : Ctx → Ctx) : (s.putCtx c f).gcount = s.gcount := rfl
@[simp] theorem State.putCtx_engines (s : State) (c : Nat) (f : Ctx → Ctx) : (s.putCtx c f).engines = s.engines := rfl
@[simp] theorem State.putCtx_page (s : State) (c : Nat) (f : Ctx → Ctx) : (s.putCtx c f).page = s.page := rfl
@[simp] theorem State.putCtx_links (s : State) (c : Nat) (f : Ctx → Ctx) : (s.putCtx c f).links = s.links := rfl
@[simp] theorem State.putCtx_recorder (s : State) (c : Nat) (f : Ctx → Ctx) : (s.putCtx c f).recorder = s.recorder := rfl
@[simp] theorem State.putCtx_boot (s : State) (c : Nat) (f : Ctx → Ctx) : (s.putCtx c f).boot = s.boot := rfl
@[simp] theorem State.putCtx_svc (s : State) (c : Nat) (f : Ctx → Ctx) : (s.putCtx c f).svc = s.svc := rfl
@[simp] theorem State.putCtx_power (s : State) (c : Nat) (f : Ctx → Ctx) : (s.putCtx c f).power = s.power := rfl
@[simp] theorem State.putCtx_cong (s : State) (c : Nat) (f : Ctx → Ctx) : (s.putCtx c f).cong = s.cong := rfl

/-! ### Group.setPath -/

@[simp] theorem Group.setPath_id (g : Group) (p : Path) : (g.setPath p).id = g.id := rfl
@[simp] theorem Group.setPath_ctx (g : Group) (p : Path) : (g.setPath p).ctx = g.ctx := rfl
@[simp] theorem Group.setPath_kid (g : Group) (p : Path) : (g.setPath p).kid = g.kid := rfl
@[simp] theorem Group.setPath_crew (g : Group) (p : Path) : (g.setPath p).crew = g.crew := rfl
@[simp] theorem Group.setPath_hdr (g : Group) (p : Path) : (g.setPath p).hdr = g.hdr := rfl
@[simp] theorem Group.setPath_gval (g : Group) (p : Path) : (g.setPath p).gval = g.gval := rfl
@[simp] theorem Group.setPath_age (g : Group) (p : Path) : (g.setPath p).age = g.age := rfl
@[simp] theorem Group.setPath_phase (g : Group) (p : Path) : (g.setPath p).phase = g.phase := rfl
@[simp] theorem Group.setPath_before (g : Group) (p : Path) : (g.setPath p).before = g.before := rfl
@[simp] theorem Group.setPath_stop (g : Group) (p : Path) : (g.setPath p).stop = g.stop := rfl
@[simp] theorem Group.setPath_threads (g : Group) (p : Path) : (g.setPath p).threads = g.threads := rfl
@[simp] theorem Group.setPath_widLo (g : Group) (p : Path) : (g.setPath p).widLo = g.widLo := rfl
@[simp] theorem Group.setPath_v (g : Group) (p : Path) : (g.setPath p).v = g.v := rfl
@[simp] theorem Group.setPath_s (g : Group) (p : Path) : (g.setPath p).s = g.s := rfl
@[simp] theorem Group.setPath_p (g : Group) (p : Path) : (g.setPath p).p = g.p := rfl
@[simp] theorem Group.setPath_q (g : Group) (p : Path) : (g.setPath p).q = g.q := rfl
@[simp] theorem Group.setPath_nextPath (g : Group) (p : Path) : (g.setPath p).nextPath = g.nextPath := rfl
@[simp] theorem Group.setPath_cs (g : Group) (p : Path) : (g.setPath p).cs = g.cs := rfl
@[simp] theorem Group.setPath_run (g : Group) (p : Path) : (g.setPath p).run = g.run := rfl
@[simp] theorem Group.setPath_tokE (g : Group) (p : Path) : (g.setPath p).tokE = g.tokE := rfl
@[simp] theorem Group.setPath_tokW (g : Group) (p : Path) : (g.setPath p).tokW = g.tokW := rfl
@[simp] theorem Group.setPath_handler (g : Group) (p : Path) : (g.setPath p).handler = g.handler := rfl
@[simp] theorem Group.setPath_trapinfo (g : Group) (p : Path) : (g.setPath p).trapinfo = g.trapinfo := rfl
@[simp] theorem Group.setPath_frame (g : Group) (p : Path) : (g.setPath p).frame = g.frame := rfl
@[simp] theorem Group.setPath_flights (g : Group) (p : Path) : (g.setPath p).flights = g.flights := rfl
@[simp] theorem Group.setPath_fences (g : Group) (p : Path) : (g.setPath p).fences = g.fences := rfl
@[simp] theorem Group.setPath_twMax (g : Group) (p : Path) : (g.setPath p).twMax = g.twMax := rfl
@[simp] theorem Group.setPath_scTime (g : Group) (p : Path) : (g.setPath p).scTime = g.scTime := rfl
@[simp] theorem Group.setPath_intReq (g : Group) (p : Path) : (g.setPath p).intReq = g.intReq := rfl
@[simp] theorem Group.setPath_intPend (g : Group) (p : Path) : (g.setPath p).intPend = g.intPend := rfl
@[simp] theorem Group.setPath_stall (g : Group) (p : Path) : (g.setPath p).stall = g.stall := rfl
@[simp] theorem Group.setPath_history (g : Group) (p : Path) : (g.setPath p).history = g.history := rfl
@[simp] theorem Group.setPath_episode (g : Group) (p : Path) : (g.setPath p).episode = g.episode := rfl
@[simp] theorem Group.setPath_issued (g : Group) (p : Path) : (g.setPath p).issued = g.issued := rfl
@[simp] theorem Group.setPath_maxFrag (g : Group) (p : Path) : (g.setPath p).maxFrag = g.maxFrag := rfl
@[simp] theorem Group.setPath_spills (g : Group) (p : Path) : (g.setPath p).spills = g.spills := rfl
@[simp] theorem Group.setPath_discarded (g : Group) (p : Path) : (g.setPath p).discarded = g.discarded := rfl
@[simp] theorem Group.setPath_rebuilt (g : Group) (p : Path) : (g.setPath p).rebuilt = g.rebuilt := rfl
@[simp] theorem Group.setPath_rkey (g : Group) (p : Path) : (g.setPath p).rkey = g.rkey := rfl
@[simp] theorem Group.setPath_rcount (g : Group) (p : Path) : (g.setPath p).rcount = g.rcount := rfl
@[simp] theorem Group.setPath_rseq (g : Group) (p : Path) : (g.setPath p).rseq = g.rseq := rfl
@[simp] theorem Group.setPath_markWait (g : Group) (p : Path) : (g.setPath p).markWait = g.markWait := rfl
@[simp] theorem Group.setPath_markFirst (g : Group) (p : Path) : (g.setPath p).markFirst = g.markFirst := rfl
@[simp] theorem Group.setPath_lastIssue (g : Group) (p : Path) : (g.setPath p).lastIssue = g.lastIssue := rfl
@[simp] theorem Group.setPath_trapping (g : Group) (p : Path) : (g.setPath p).trapping = g.trapping := rfl
@[simp] theorem Group.setPath_held (g : Group) (p : Path) : (g.setPath p).held = g.held := rfl
@[simp] theorem Group.setPath_mark (g : Group) (p : Path) : (g.setPath p).mark = g.mark := rfl
@[simp] theorem Group.setPath_vacant (g : Group) (p : Path) : (g.setPath p).vacant = g.vacant := rfl
@[simp] theorem Group.setPath_swapDue (g : Group) (p : Path) : (g.setPath p).swapDue = g.swapDue := rfl
@[simp] theorem Group.setPath_stopping (g : Group) (p : Path) : (g.setPath p).stopping = g.stopping := rfl
@[simp] theorem Group.setPath_saving (g : Group) (p : Path) : (g.setPath p).saving = g.saving := rfl
@[simp] theorem Group.setPath_stalledAt (g : Group) (p : Path) : (g.setPath p).stalledAt = g.stalledAt := rfl
@[simp] theorem Group.setPath_savedLive (g : Group) (p : Path) : (g.setPath p).savedLive = g.savedLive := rfl
@[simp] theorem Group.setPath_stepping (g : Group) (p : Path) : (g.setPath p).stepping = g.stepping := rfl
@[simp] theorem Group.setPath_passing (g : Group) (p : Path) : (g.setPath p).passing = g.passing := rfl
@[simp] theorem Group.setPath_arrived (g : Group) (p : Path) : (g.setPath p).arrived = g.arrived := rfl
@[simp] theorem Group.setPath_rebind (g : Group) (p : Path) : (g.setPath p).rebind = g.rebind := rfl

/-! ### Group.setReg -/

@[simp] theorem Group.setReg_id (g : Group) (c l : Nat) (w : Word) : (g.setReg c l w).id = g.id := by unfold Group.setReg; split <;> rfl
@[simp] theorem Group.setReg_ctx (g : Group) (c l : Nat) (w : Word) : (g.setReg c l w).ctx = g.ctx := by unfold Group.setReg; split <;> rfl
@[simp] theorem Group.setReg_kid (g : Group) (c l : Nat) (w : Word) : (g.setReg c l w).kid = g.kid := by unfold Group.setReg; split <;> rfl
@[simp] theorem Group.setReg_crew (g : Group) (c l : Nat) (w : Word) : (g.setReg c l w).crew = g.crew := by unfold Group.setReg; split <;> rfl
@[simp] theorem Group.setReg_hdr (g : Group) (c l : Nat) (w : Word) : (g.setReg c l w).hdr = g.hdr := by unfold Group.setReg; split <;> rfl
@[simp] theorem Group.setReg_gval (g : Group) (c l : Nat) (w : Word) : (g.setReg c l w).gval = g.gval := by unfold Group.setReg; split <;> rfl
@[simp] theorem Group.setReg_age (g : Group) (c l : Nat) (w : Word) : (g.setReg c l w).age = g.age := by unfold Group.setReg; split <;> rfl
@[simp] theorem Group.setReg_phase (g : Group) (c l : Nat) (w : Word) : (g.setReg c l w).phase = g.phase := by unfold Group.setReg; split <;> rfl
@[simp] theorem Group.setReg_before (g : Group) (c l : Nat) (w : Word) : (g.setReg c l w).before = g.before := by unfold Group.setReg; split <;> rfl
@[simp] theorem Group.setReg_stop (g : Group) (c l : Nat) (w : Word) : (g.setReg c l w).stop = g.stop := by unfold Group.setReg; split <;> rfl
@[simp] theorem Group.setReg_threads (g : Group) (c l : Nat) (w : Word) : (g.setReg c l w).threads = g.threads := by unfold Group.setReg; split <;> rfl
@[simp] theorem Group.setReg_widLo (g : Group) (c l : Nat) (w : Word) : (g.setReg c l w).widLo = g.widLo := by unfold Group.setReg; split <;> rfl
@[simp] theorem Group.setReg_p (g : Group) (c l : Nat) (w : Word) : (g.setReg c l w).p = g.p := by unfold Group.setReg; split <;> rfl
@[simp] theorem Group.setReg_q (g : Group) (c l : Nat) (w : Word) : (g.setReg c l w).q = g.q := by unfold Group.setReg; split <;> rfl
@[simp] theorem Group.setReg_paths (g : Group) (c l : Nat) (w : Word) : (g.setReg c l w).paths = g.paths := by unfold Group.setReg; split <;> rfl
@[simp] theorem Group.setReg_nextPath (g : Group) (c l : Nat) (w : Word) : (g.setReg c l w).nextPath = g.nextPath := by unfold Group.setReg; split <;> rfl
@[simp] theorem Group.setReg_cs (g : Group) (c l : Nat) (w : Word) : (g.setReg c l w).cs = g.cs := by unfold Group.setReg; split <;> rfl
@[simp] theorem Group.setReg_run (g : Group) (c l : Nat) (w : Word) : (g.setReg c l w).run = g.run := by unfold Group.setReg; split <;> rfl
@[simp] theorem Group.setReg_tokE (g : Group) (c l : Nat) (w : Word) : (g.setReg c l w).tokE = g.tokE := by unfold Group.setReg; split <;> rfl
@[simp] theorem Group.setReg_tokW (g : Group) (c l : Nat) (w : Word) : (g.setReg c l w).tokW = g.tokW := by unfold Group.setReg; split <;> rfl
@[simp] theorem Group.setReg_handler (g : Group) (c l : Nat) (w : Word) : (g.setReg c l w).handler = g.handler := by unfold Group.setReg; split <;> rfl
@[simp] theorem Group.setReg_trapinfo (g : Group) (c l : Nat) (w : Word) : (g.setReg c l w).trapinfo = g.trapinfo := by unfold Group.setReg; split <;> rfl
@[simp] theorem Group.setReg_frame (g : Group) (c l : Nat) (w : Word) : (g.setReg c l w).frame = g.frame := by unfold Group.setReg; split <;> rfl
@[simp] theorem Group.setReg_flights (g : Group) (c l : Nat) (w : Word) : (g.setReg c l w).flights = g.flights := by unfold Group.setReg; split <;> rfl
@[simp] theorem Group.setReg_fences (g : Group) (c l : Nat) (w : Word) : (g.setReg c l w).fences = g.fences := by unfold Group.setReg; split <;> rfl
@[simp] theorem Group.setReg_twMax (g : Group) (c l : Nat) (w : Word) : (g.setReg c l w).twMax = g.twMax := by unfold Group.setReg; split <;> rfl
@[simp] theorem Group.setReg_scTime (g : Group) (c l : Nat) (w : Word) : (g.setReg c l w).scTime = g.scTime := by unfold Group.setReg; split <;> rfl
@[simp] theorem Group.setReg_intReq (g : Group) (c l : Nat) (w : Word) : (g.setReg c l w).intReq = g.intReq := by unfold Group.setReg; split <;> rfl
@[simp] theorem Group.setReg_intPend (g : Group) (c l : Nat) (w : Word) : (g.setReg c l w).intPend = g.intPend := by unfold Group.setReg; split <;> rfl
@[simp] theorem Group.setReg_stall (g : Group) (c l : Nat) (w : Word) : (g.setReg c l w).stall = g.stall := by unfold Group.setReg; split <;> rfl
@[simp] theorem Group.setReg_history (g : Group) (c l : Nat) (w : Word) : (g.setReg c l w).history = g.history := by unfold Group.setReg; split <;> rfl
@[simp] theorem Group.setReg_episode (g : Group) (c l : Nat) (w : Word) : (g.setReg c l w).episode = g.episode := by unfold Group.setReg; split <;> rfl
@[simp] theorem Group.setReg_issued (g : Group) (c l : Nat) (w : Word) : (g.setReg c l w).issued = g.issued := by unfold Group.setReg; split <;> rfl
@[simp] theorem Group.setReg_maxFrag (g : Group) (c l : Nat) (w : Word) : (g.setReg c l w).maxFrag = g.maxFrag := by unfold Group.setReg; split <;> rfl
@[simp] theorem Group.setReg_spills (g : Group) (c l : Nat) (w : Word) : (g.setReg c l w).spills = g.spills := by unfold Group.setReg; split <;> rfl
@[simp] theorem Group.setReg_discarded (g : Group) (c l : Nat) (w : Word) : (g.setReg c l w).discarded = g.discarded := by unfold Group.setReg; split <;> rfl
@[simp] theorem Group.setReg_rebuilt (g : Group) (c l : Nat) (w : Word) : (g.setReg c l w).rebuilt = g.rebuilt := by unfold Group.setReg; split <;> rfl
@[simp] theorem Group.setReg_rkey (g : Group) (c l : Nat) (w : Word) : (g.setReg c l w).rkey = g.rkey := by unfold Group.setReg; split <;> rfl
@[simp] theorem Group.setReg_rcount (g : Group) (c l : Nat) (w : Word) : (g.setReg c l w).rcount = g.rcount := by unfold Group.setReg; split <;> rfl
@[simp] theorem Group.setReg_rseq (g : Group) (c l : Nat) (w : Word) : (g.setReg c l w).rseq = g.rseq := by unfold Group.setReg; split <;> rfl
@[simp] theorem Group.setReg_markWait (g : Group) (c l : Nat) (w : Word) : (g.setReg c l w).markWait = g.markWait := by unfold Group.setReg; split <;> rfl
@[simp] theorem Group.setReg_markFirst (g : Group) (c l : Nat) (w : Word) : (g.setReg c l w).markFirst = g.markFirst := by unfold Group.setReg; split <;> rfl
@[simp] theorem Group.setReg_lastIssue (g : Group) (c l : Nat) (w : Word) : (g.setReg c l w).lastIssue = g.lastIssue := by unfold Group.setReg; split <;> rfl
@[simp] theorem Group.setReg_trapping (g : Group) (c l : Nat) (w : Word) : (g.setReg c l w).trapping = g.trapping := by unfold Group.setReg; split <;> rfl
@[simp] theorem Group.setReg_held (g : Group) (c l : Nat) (w : Word) : (g.setReg c l w).held = g.held := by unfold Group.setReg; split <;> rfl
@[simp] theorem Group.setReg_mark (g : Group) (c l : Nat) (w : Word) : (g.setReg c l w).mark = g.mark := by unfold Group.setReg; split <;> rfl
@[simp] theorem Group.setReg_vacant (g : Group) (c l : Nat) (w : Word) : (g.setReg c l w).vacant = g.vacant := by unfold Group.setReg; split <;> rfl
@[simp] theorem Group.setReg_swapDue (g : Group) (c l : Nat) (w : Word) : (g.setReg c l w).swapDue = g.swapDue := by unfold Group.setReg; split <;> rfl
@[simp] theorem Group.setReg_stopping (g : Group) (c l : Nat) (w : Word) : (g.setReg c l w).stopping = g.stopping := by unfold Group.setReg; split <;> rfl
@[simp] theorem Group.setReg_saving (g : Group) (c l : Nat) (w : Word) : (g.setReg c l w).saving = g.saving := by unfold Group.setReg; split <;> rfl
@[simp] theorem Group.setReg_stalledAt (g : Group) (c l : Nat) (w : Word) : (g.setReg c l w).stalledAt = g.stalledAt := by unfold Group.setReg; split <;> rfl
@[simp] theorem Group.setReg_savedLive (g : Group) (c l : Nat) (w : Word) : (g.setReg c l w).savedLive = g.savedLive := by unfold Group.setReg; split <;> rfl
@[simp] theorem Group.setReg_stepping (g : Group) (c l : Nat) (w : Word) : (g.setReg c l w).stepping = g.stepping := by unfold Group.setReg; split <;> rfl
@[simp] theorem Group.setReg_passing (g : Group) (c l : Nat) (w : Word) : (g.setReg c l w).passing = g.passing := by unfold Group.setReg; split <;> rfl
@[simp] theorem Group.setReg_arrived (g : Group) (c l : Nat) (w : Word) : (g.setReg c l w).arrived = g.arrived := by unfold Group.setReg; split <;> rfl
@[simp] theorem Group.setReg_rebind (g : Group) (c l : Nat) (w : Word) : (g.setReg c l w).rebind = g.rebind := by unfold Group.setReg; split <;> rfl

/-! ### Group.setPred -/

@[simp] theorem Group.setPred_id (g : Group) (k : Nat) (m v : Mask) : (g.setPred k m v).id = g.id := by unfold Group.setPred; split <;> rfl
@[simp] theorem Group.setPred_ctx (g : Group) (k : Nat) (m v : Mask) : (g.setPred k m v).ctx = g.ctx := by unfold Group.setPred; split <;> rfl
@[simp] theorem Group.setPred_kid (g : Group) (k : Nat) (m v : Mask) : (g.setPred k m v).kid = g.kid := by unfold Group.setPred; split <;> rfl
@[simp] theorem Group.setPred_crew (g : Group) (k : Nat) (m v : Mask) : (g.setPred k m v).crew = g.crew := by unfold Group.setPred; split <;> rfl
@[simp] theorem Group.setPred_hdr (g : Group) (k : Nat) (m v : Mask) : (g.setPred k m v).hdr = g.hdr := by unfold Group.setPred; split <;> rfl
@[simp] theorem Group.setPred_gval (g : Group) (k : Nat) (m v : Mask) : (g.setPred k m v).gval = g.gval := by unfold Group.setPred; split <;> rfl
@[simp] theorem Group.setPred_age (g : Group) (k : Nat) (m v : Mask) : (g.setPred k m v).age = g.age := by unfold Group.setPred; split <;> rfl
@[simp] theorem Group.setPred_phase (g : Group) (k : Nat) (m v : Mask) : (g.setPred k m v).phase = g.phase := by unfold Group.setPred; split <;> rfl
@[simp] theorem Group.setPred_before (g : Group) (k : Nat) (m v : Mask) : (g.setPred k m v).before = g.before := by unfold Group.setPred; split <;> rfl
@[simp] theorem Group.setPred_stop (g : Group) (k : Nat) (m v : Mask) : (g.setPred k m v).stop = g.stop := by unfold Group.setPred; split <;> rfl
@[simp] theorem Group.setPred_threads (g : Group) (k : Nat) (m v : Mask) : (g.setPred k m v).threads = g.threads := by unfold Group.setPred; split <;> rfl
@[simp] theorem Group.setPred_widLo (g : Group) (k : Nat) (m v : Mask) : (g.setPred k m v).widLo = g.widLo := by unfold Group.setPred; split <;> rfl
@[simp] theorem Group.setPred_v (g : Group) (k : Nat) (m v : Mask) : (g.setPred k m v).v = g.v := by unfold Group.setPred; split <;> rfl
@[simp] theorem Group.setPred_s (g : Group) (k : Nat) (m v : Mask) : (g.setPred k m v).s = g.s := by unfold Group.setPred; split <;> rfl
@[simp] theorem Group.setPred_q (g : Group) (k : Nat) (m v : Mask) : (g.setPred k m v).q = g.q := by unfold Group.setPred; split <;> rfl
@[simp] theorem Group.setPred_paths (g : Group) (k : Nat) (m v : Mask) : (g.setPred k m v).paths = g.paths := by unfold Group.setPred; split <;> rfl
@[simp] theorem Group.setPred_nextPath (g : Group) (k : Nat) (m v : Mask) : (g.setPred k m v).nextPath = g.nextPath := by unfold Group.setPred; split <;> rfl
@[simp] theorem Group.setPred_cs (g : Group) (k : Nat) (m v : Mask) : (g.setPred k m v).cs = g.cs := by unfold Group.setPred; split <;> rfl
@[simp] theorem Group.setPred_run (g : Group) (k : Nat) (m v : Mask) : (g.setPred k m v).run = g.run := by unfold Group.setPred; split <;> rfl
@[simp] theorem Group.setPred_tokE (g : Group) (k : Nat) (m v : Mask) : (g.setPred k m v).tokE = g.tokE := by unfold Group.setPred; split <;> rfl
@[simp] theorem Group.setPred_tokW (g : Group) (k : Nat) (m v : Mask) : (g.setPred k m v).tokW = g.tokW := by unfold Group.setPred; split <;> rfl
@[simp] theorem Group.setPred_handler (g : Group) (k : Nat) (m v : Mask) : (g.setPred k m v).handler = g.handler := by unfold Group.setPred; split <;> rfl
@[simp] theorem Group.setPred_trapinfo (g : Group) (k : Nat) (m v : Mask) : (g.setPred k m v).trapinfo = g.trapinfo := by unfold Group.setPred; split <;> rfl
@[simp] theorem Group.setPred_frame (g : Group) (k : Nat) (m v : Mask) : (g.setPred k m v).frame = g.frame := by unfold Group.setPred; split <;> rfl
@[simp] theorem Group.setPred_flights (g : Group) (k : Nat) (m v : Mask) : (g.setPred k m v).flights = g.flights := by unfold Group.setPred; split <;> rfl
@[simp] theorem Group.setPred_fences (g : Group) (k : Nat) (m v : Mask) : (g.setPred k m v).fences = g.fences := by unfold Group.setPred; split <;> rfl
@[simp] theorem Group.setPred_twMax (g : Group) (k : Nat) (m v : Mask) : (g.setPred k m v).twMax = g.twMax := by unfold Group.setPred; split <;> rfl
@[simp] theorem Group.setPred_scTime (g : Group) (k : Nat) (m v : Mask) : (g.setPred k m v).scTime = g.scTime := by unfold Group.setPred; split <;> rfl
@[simp] theorem Group.setPred_intReq (g : Group) (k : Nat) (m v : Mask) : (g.setPred k m v).intReq = g.intReq := by unfold Group.setPred; split <;> rfl
@[simp] theorem Group.setPred_intPend (g : Group) (k : Nat) (m v : Mask) : (g.setPred k m v).intPend = g.intPend := by unfold Group.setPred; split <;> rfl
@[simp] theorem Group.setPred_stall (g : Group) (k : Nat) (m v : Mask) : (g.setPred k m v).stall = g.stall := by unfold Group.setPred; split <;> rfl
@[simp] theorem Group.setPred_history (g : Group) (k : Nat) (m v : Mask) : (g.setPred k m v).history = g.history := by unfold Group.setPred; split <;> rfl
@[simp] theorem Group.setPred_episode (g : Group) (k : Nat) (m v : Mask) : (g.setPred k m v).episode = g.episode := by unfold Group.setPred; split <;> rfl
@[simp] theorem Group.setPred_issued (g : Group) (k : Nat) (m v : Mask) : (g.setPred k m v).issued = g.issued := by unfold Group.setPred; split <;> rfl
@[simp] theorem Group.setPred_maxFrag (g : Group) (k : Nat) (m v : Mask) : (g.setPred k m v).maxFrag = g.maxFrag := by unfold Group.setPred; split <;> rfl
@[simp] theorem Group.setPred_spills (g : Group) (k : Nat) (m v : Mask) : (g.setPred k m v).spills = g.spills := by unfold Group.setPred; split <;> rfl
@[simp] theorem Group.setPred_discarded (g : Group) (k : Nat) (m v : Mask) : (g.setPred k m v).discarded = g.discarded := by unfold Group.setPred; split <;> rfl
@[simp] theorem Group.setPred_rebuilt (g : Group) (k : Nat) (m v : Mask) : (g.setPred k m v).rebuilt = g.rebuilt := by unfold Group.setPred; split <;> rfl
@[simp] theorem Group.setPred_rkey (g : Group) (k : Nat) (m v : Mask) : (g.setPred k m v).rkey = g.rkey := by unfold Group.setPred; split <;> rfl
@[simp] theorem Group.setPred_rcount (g : Group) (k : Nat) (m v : Mask) : (g.setPred k m v).rcount = g.rcount := by unfold Group.setPred; split <;> rfl
@[simp] theorem Group.setPred_rseq (g : Group) (k : Nat) (m v : Mask) : (g.setPred k m v).rseq = g.rseq := by unfold Group.setPred; split <;> rfl
@[simp] theorem Group.setPred_markWait (g : Group) (k : Nat) (m v : Mask) : (g.setPred k m v).markWait = g.markWait := by unfold Group.setPred; split <;> rfl
@[simp] theorem Group.setPred_markFirst (g : Group) (k : Nat) (m v : Mask) : (g.setPred k m v).markFirst = g.markFirst := by unfold Group.setPred; split <;> rfl
@[simp] theorem Group.setPred_lastIssue (g : Group) (k : Nat) (m v : Mask) : (g.setPred k m v).lastIssue = g.lastIssue := by unfold Group.setPred; split <;> rfl
@[simp] theorem Group.setPred_trapping (g : Group) (k : Nat) (m v : Mask) : (g.setPred k m v).trapping = g.trapping := by unfold Group.setPred; split <;> rfl
@[simp] theorem Group.setPred_held (g : Group) (k : Nat) (m v : Mask) : (g.setPred k m v).held = g.held := by unfold Group.setPred; split <;> rfl
@[simp] theorem Group.setPred_mark (g : Group) (k : Nat) (m v : Mask) : (g.setPred k m v).mark = g.mark := by unfold Group.setPred; split <;> rfl
@[simp] theorem Group.setPred_vacant (g : Group) (k : Nat) (m v : Mask) : (g.setPred k m v).vacant = g.vacant := by unfold Group.setPred; split <;> rfl
@[simp] theorem Group.setPred_swapDue (g : Group) (k : Nat) (m v : Mask) : (g.setPred k m v).swapDue = g.swapDue := by unfold Group.setPred; split <;> rfl
@[simp] theorem Group.setPred_stopping (g : Group) (k : Nat) (m v : Mask) : (g.setPred k m v).stopping = g.stopping := by unfold Group.setPred; split <;> rfl
@[simp] theorem Group.setPred_saving (g : Group) (k : Nat) (m v : Mask) : (g.setPred k m v).saving = g.saving := by unfold Group.setPred; split <;> rfl
@[simp] theorem Group.setPred_stalledAt (g : Group) (k : Nat) (m v : Mask) : (g.setPred k m v).stalledAt = g.stalledAt := by unfold Group.setPred; split <;> rfl
@[simp] theorem Group.setPred_savedLive (g : Group) (k : Nat) (m v : Mask) : (g.setPred k m v).savedLive = g.savedLive := by unfold Group.setPred; split <;> rfl
@[simp] theorem Group.setPred_stepping (g : Group) (k : Nat) (m v : Mask) : (g.setPred k m v).stepping = g.stepping := by unfold Group.setPred; split <;> rfl
@[simp] theorem Group.setPred_passing (g : Group) (k : Nat) (m v : Mask) : (g.setPred k m v).passing = g.passing := by unfold Group.setPred; split <;> rfl
@[simp] theorem Group.setPred_arrived (g : Group) (k : Nat) (m v : Mask) : (g.setPred k m v).arrived = g.arrived := by unfold Group.setPred; split <;> rfl
@[simp] theorem Group.setPred_rebind (g : Group) (k : Nat) (m v : Mask) : (g.setPred k m v).rebind = g.rebind := by unfold Group.setPred; split <;> rfl

/-! ### Group.setQ -/

@[simp] theorem Group.setQ_id (g : Group) (k : Nat) (b : Bool) : (g.setQ k b).id = g.id := by unfold Group.setQ; split <;> rfl
@[simp] theorem Group.setQ_ctx (g : Group) (k : Nat) (b : Bool) : (g.setQ k b).ctx = g.ctx := by unfold Group.setQ; split <;> rfl
@[simp] theorem Group.setQ_kid (g : Group) (k : Nat) (b : Bool) : (g.setQ k b).kid = g.kid := by unfold Group.setQ; split <;> rfl
@[simp] theorem Group.setQ_crew (g : Group) (k : Nat) (b : Bool) : (g.setQ k b).crew = g.crew := by unfold Group.setQ; split <;> rfl
@[simp] theorem Group.setQ_hdr (g : Group) (k : Nat) (b : Bool) : (g.setQ k b).hdr = g.hdr := by unfold Group.setQ; split <;> rfl
@[simp] theorem Group.setQ_gval (g : Group) (k : Nat) (b : Bool) : (g.setQ k b).gval = g.gval := by unfold Group.setQ; split <;> rfl
@[simp] theorem Group.setQ_age (g : Group) (k : Nat) (b : Bool) : (g.setQ k b).age = g.age := by unfold Group.setQ; split <;> rfl
@[simp] theorem Group.setQ_phase (g : Group) (k : Nat) (b : Bool) : (g.setQ k b).phase = g.phase := by unfold Group.setQ; split <;> rfl
@[simp] theorem Group.setQ_before (g : Group) (k : Nat) (b : Bool) : (g.setQ k b).before = g.before := by unfold Group.setQ; split <;> rfl
@[simp] theorem Group.setQ_stop (g : Group) (k : Nat) (b : Bool) : (g.setQ k b).stop = g.stop := by unfold Group.setQ; split <;> rfl
@[simp] theorem Group.setQ_threads (g : Group) (k : Nat) (b : Bool) : (g.setQ k b).threads = g.threads := by unfold Group.setQ; split <;> rfl
@[simp] theorem Group.setQ_widLo (g : Group) (k : Nat) (b : Bool) : (g.setQ k b).widLo = g.widLo := by unfold Group.setQ; split <;> rfl
@[simp] theorem Group.setQ_v (g : Group) (k : Nat) (b : Bool) : (g.setQ k b).v = g.v := by unfold Group.setQ; split <;> rfl
@[simp] theorem Group.setQ_s (g : Group) (k : Nat) (b : Bool) : (g.setQ k b).s = g.s := by unfold Group.setQ; split <;> rfl
@[simp] theorem Group.setQ_p (g : Group) (k : Nat) (b : Bool) : (g.setQ k b).p = g.p := by unfold Group.setQ; split <;> rfl
@[simp] theorem Group.setQ_paths (g : Group) (k : Nat) (b : Bool) : (g.setQ k b).paths = g.paths := by unfold Group.setQ; split <;> rfl
@[simp] theorem Group.setQ_nextPath (g : Group) (k : Nat) (b : Bool) : (g.setQ k b).nextPath = g.nextPath := by unfold Group.setQ; split <;> rfl
@[simp] theorem Group.setQ_cs (g : Group) (k : Nat) (b : Bool) : (g.setQ k b).cs = g.cs := by unfold Group.setQ; split <;> rfl
@[simp] theorem Group.setQ_run (g : Group) (k : Nat) (b : Bool) : (g.setQ k b).run = g.run := by unfold Group.setQ; split <;> rfl
@[simp] theorem Group.setQ_tokE (g : Group) (k : Nat) (b : Bool) : (g.setQ k b).tokE = g.tokE := by unfold Group.setQ; split <;> rfl
@[simp] theorem Group.setQ_tokW (g : Group) (k : Nat) (b : Bool) : (g.setQ k b).tokW = g.tokW := by unfold Group.setQ; split <;> rfl
@[simp] theorem Group.setQ_handler (g : Group) (k : Nat) (b : Bool) : (g.setQ k b).handler = g.handler := by unfold Group.setQ; split <;> rfl
@[simp] theorem Group.setQ_trapinfo (g : Group) (k : Nat) (b : Bool) : (g.setQ k b).trapinfo = g.trapinfo := by unfold Group.setQ; split <;> rfl
@[simp] theorem Group.setQ_frame (g : Group) (k : Nat) (b : Bool) : (g.setQ k b).frame = g.frame := by unfold Group.setQ; split <;> rfl
@[simp] theorem Group.setQ_flights (g : Group) (k : Nat) (b : Bool) : (g.setQ k b).flights = g.flights := by unfold Group.setQ; split <;> rfl
@[simp] theorem Group.setQ_fences (g : Group) (k : Nat) (b : Bool) : (g.setQ k b).fences = g.fences := by unfold Group.setQ; split <;> rfl
@[simp] theorem Group.setQ_twMax (g : Group) (k : Nat) (b : Bool) : (g.setQ k b).twMax = g.twMax := by unfold Group.setQ; split <;> rfl
@[simp] theorem Group.setQ_scTime (g : Group) (k : Nat) (b : Bool) : (g.setQ k b).scTime = g.scTime := by unfold Group.setQ; split <;> rfl
@[simp] theorem Group.setQ_intReq (g : Group) (k : Nat) (b : Bool) : (g.setQ k b).intReq = g.intReq := by unfold Group.setQ; split <;> rfl
@[simp] theorem Group.setQ_intPend (g : Group) (k : Nat) (b : Bool) : (g.setQ k b).intPend = g.intPend := by unfold Group.setQ; split <;> rfl
@[simp] theorem Group.setQ_stall (g : Group) (k : Nat) (b : Bool) : (g.setQ k b).stall = g.stall := by unfold Group.setQ; split <;> rfl
@[simp] theorem Group.setQ_history (g : Group) (k : Nat) (b : Bool) : (g.setQ k b).history = g.history := by unfold Group.setQ; split <;> rfl
@[simp] theorem Group.setQ_episode (g : Group) (k : Nat) (b : Bool) : (g.setQ k b).episode = g.episode := by unfold Group.setQ; split <;> rfl
@[simp] theorem Group.setQ_issued (g : Group) (k : Nat) (b : Bool) : (g.setQ k b).issued = g.issued := by unfold Group.setQ; split <;> rfl
@[simp] theorem Group.setQ_maxFrag (g : Group) (k : Nat) (b : Bool) : (g.setQ k b).maxFrag = g.maxFrag := by unfold Group.setQ; split <;> rfl
@[simp] theorem Group.setQ_spills (g : Group) (k : Nat) (b : Bool) : (g.setQ k b).spills = g.spills := by unfold Group.setQ; split <;> rfl
@[simp] theorem Group.setQ_discarded (g : Group) (k : Nat) (b : Bool) : (g.setQ k b).discarded = g.discarded := by unfold Group.setQ; split <;> rfl
@[simp] theorem Group.setQ_rebuilt (g : Group) (k : Nat) (b : Bool) : (g.setQ k b).rebuilt = g.rebuilt := by unfold Group.setQ; split <;> rfl
@[simp] theorem Group.setQ_rkey (g : Group) (k : Nat) (b : Bool) : (g.setQ k b).rkey = g.rkey := by unfold Group.setQ; split <;> rfl
@[simp] theorem Group.setQ_rcount (g : Group) (k : Nat) (b : Bool) : (g.setQ k b).rcount = g.rcount := by unfold Group.setQ; split <;> rfl
@[simp] theorem Group.setQ_rseq (g : Group) (k : Nat) (b : Bool) : (g.setQ k b).rseq = g.rseq := by unfold Group.setQ; split <;> rfl
@[simp] theorem Group.setQ_markWait (g : Group) (k : Nat) (b : Bool) : (g.setQ k b).markWait = g.markWait := by unfold Group.setQ; split <;> rfl
@[simp] theorem Group.setQ_markFirst (g : Group) (k : Nat) (b : Bool) : (g.setQ k b).markFirst = g.markFirst := by unfold Group.setQ; split <;> rfl
@[simp] theorem Group.setQ_lastIssue (g : Group) (k : Nat) (b : Bool) : (g.setQ k b).lastIssue = g.lastIssue := by unfold Group.setQ; split <;> rfl
@[simp] theorem Group.setQ_trapping (g : Group) (k : Nat) (b : Bool) : (g.setQ k b).trapping = g.trapping := by unfold Group.setQ; split <;> rfl
@[simp] theorem Group.setQ_held (g : Group) (k : Nat) (b : Bool) : (g.setQ k b).held = g.held := by unfold Group.setQ; split <;> rfl
@[simp] theorem Group.setQ_mark (g : Group) (k : Nat) (b : Bool) : (g.setQ k b).mark = g.mark := by unfold Group.setQ; split <;> rfl
@[simp] theorem Group.setQ_vacant (g : Group) (k : Nat) (b : Bool) : (g.setQ k b).vacant = g.vacant := by unfold Group.setQ; split <;> rfl
@[simp] theorem Group.setQ_swapDue (g : Group) (k : Nat) (b : Bool) : (g.setQ k b).swapDue = g.swapDue := by unfold Group.setQ; split <;> rfl
@[simp] theorem Group.setQ_stopping (g : Group) (k : Nat) (b : Bool) : (g.setQ k b).stopping = g.stopping := by unfold Group.setQ; split <;> rfl
@[simp] theorem Group.setQ_saving (g : Group) (k : Nat) (b : Bool) : (g.setQ k b).saving = g.saving := by unfold Group.setQ; split <;> rfl
@[simp] theorem Group.setQ_stalledAt (g : Group) (k : Nat) (b : Bool) : (g.setQ k b).stalledAt = g.stalledAt := by unfold Group.setQ; split <;> rfl
@[simp] theorem Group.setQ_savedLive (g : Group) (k : Nat) (b : Bool) : (g.setQ k b).savedLive = g.savedLive := by unfold Group.setQ; split <;> rfl
@[simp] theorem Group.setQ_stepping (g : Group) (k : Nat) (b : Bool) : (g.setQ k b).stepping = g.stepping := by unfold Group.setQ; split <;> rfl
@[simp] theorem Group.setQ_passing (g : Group) (k : Nat) (b : Bool) : (g.setQ k b).passing = g.passing := by unfold Group.setQ; split <;> rfl
@[simp] theorem Group.setQ_arrived (g : Group) (k : Nat) (b : Bool) : (g.setQ k b).arrived = g.arrived := by unfold Group.setQ; split <;> rfl
@[simp] theorem Group.setQ_rebind (g : Group) (k : Nat) (b : Bool) : (g.setQ k b).rebind = g.rebind := by unfold Group.setQ; split <;> rfl

end Sys2Proof.Machine
end

