-- ==== Sys2Proof/Laws/Issue.lean ====
section
/-! SUPPORT. What the issue stage does, said once: an instruction that passes the gate is settled by what
its own part answers, and settling moves the path and leaves the rest of the device alone. -/

namespace Sys2Proof.Machine

/-! ### Tables -/

theorem find?_map_of {α : Type} (f : α → α) (p : α → Bool) (h : ∀ x, p (f x) = p x) (l : List α) :
    (l.map f).find? p = (l.find? p).map f := by
  induction l with
  | nil => rfl
  | cons x l ih =>
    simp only [List.map_cons, List.find?_cons, h x]
    cases p x <;> simp [ih]

theorem State.group?_id {s : State} {i : GroupId} {g : Group} (h : s.group? i = some g) : g.id = i := by
  simpa using List.find?_some h

theorem Group.path?_id {g : Group} {k : Nat} {p : Path} (h : g.path? k = some p) : p.id = k := by
  simpa using List.find?_some h

theorem State.group?_mapGroups (s : State) (f : Group → Group) (hf : ∀ g, (f g).id = g.id) (i : GroupId) :
    ({ s with groups := s.groups.map f } : State).group? i = (s.group? i).map f :=
  find?_map_of f _ (fun g => by simp [hf g]) s.groups

theorem State.group?_setGroup (s : State) (g : Group) (i : GroupId) :
    (s.setGroup g).group? i = (s.group? i).map (fun h => if h.id == g.id then g else h) :=
  State.group?_mapGroups s _ (fun h => by by_cases e : h.id = g.id <;> simp [e]) i

/-- A group that was set is found again. -/
theorem State.group?_setGroup_self {s : State} {g g' : Group} (h : s.group? g.id = some g')
    : (s.setGroup g).group? g.id = some g := by
  rw [State.group?_setGroup, h]
  simp [State.group?_id h]

/-- Setting a group leaves the others. -/
theorem State.group?_setGroup_ne {s : State} {g : Group} {i : GroupId} (h : i ≠ g.id) :
    (s.setGroup g).group? i = s.group? i := by
  rw [State.group?_setGroup]
  cases e : s.group? i with
  | none => rfl
  | some x => simp [State.group?_id e, h]

theorem State.group?_modGroup_self {s : State} {i : GroupId} {g : Group} {f : Group → Group}
    (h : s.group? i = some g) (hf : (f g).id = g.id) :
    (s.modGroup i f).group? i = some (f g) := by
  have hi := State.group?_id h
  unfold State.modGroup
  rw [h]
  have := State.group?_setGroup_self (s := s) (g := f g) (g' := g) (by rw [hf, hi]; exact h)
  rwa [hf, hi] at this

theorem State.group?_modGroup_ne {s : State} {i j : GroupId} {f : Group → Group}
    (hf : ∀ g, (f g).id = g.id) (h : j ≠ i) : (s.modGroup i f).group? j = s.group? j := by
  unfold State.modGroup
  cases e : s.group? i with
  | none => rfl
  | some g =>
    refine State.group?_setGroup_ne ?_
    rw [hf, State.group?_id e]; exact h

theorem find?_updFirst {α : Type} (key : α → Nat) (k j : Nat) (x : α) (hx : key x = k) (l : List α) :
    (updFirst (fun y => key y == k) (fun _ => x) l).find? (fun y => key y == j) =
      (l.find? (fun y => key y == j)).map (fun y => if j = k then x else y) := by
  induction l with
  | nil => rfl
  | cons y l ih =>
    unfold updFirst
    by_cases hy : key y = k
    · simp only [hy, beq_self_eq_true, if_true, List.find?_cons, hx]
      by_cases hj : k = j
      · simp [hj]
      · simp only [beq_eq_false_iff_ne.2 hj]
        cases l.find? (fun y => key y == j) <;> simp [Ne.symm hj]
    · simp only [beq_eq_false_iff_ne.2 hy, Bool.false_eq_true, if_false, List.find?_cons, ih]
      by_cases hj : key y = j
      · have : j ≠ k := fun h => hy (hj.trans h)
        simp [hj, this]
      · rw [beq_eq_false_iff_ne.2 hj]

theorem Group.path?_setPath (g : Group) (q : Path) (k : Nat) :
    (g.setPath q).path? k = (g.path? k).map (fun x => if k = q.id then q else x) :=
  find?_updFirst Path.id q.id k q rfl g.paths

theorem Group.path?_setPath_self {g : Group} {q p : Path} (h : g.path? q.id = some p) :
    (g.setPath q).path? q.id = some q := by
  rw [Group.path?_setPath, h]
  simp

theorem Group.path?_setPath_ne {g : Group} {q : Path} {k : Nat} (h : k ≠ q.id) :
    (g.setPath q).path? k = g.path? k := by
  rw [Group.path?_setPath]
  cases e : g.path? k with
  | none => rfl
  | some x => simp [h]

theorem find?_mapKey {α : Type} (key : α → Nat) (k j : Nat) (x : α) (hx : key x = k) (l : List α) :
    (l.map (fun y => if key y == k then x else y)).find? (fun y => key y == j) =
      (l.find? (fun y => key y == j)).map (fun y => if key y == k then x else y) := by
  refine find?_map_of _ _ (fun y => ?_) l
  by_cases e : key y = k <;> simp [e, hx]

/-- An entry that was replaced or appended by its key is found again, and no other entry changes. -/
theorem find?_upsert {α : Type} (key : α → Nat) (k j : Nat) (x : α) (hx : key x = k) (l : List α) :
    (upsert (fun y => key y == k) x l).find? (fun y => key y == j) =
      if j = k then some x else l.find? (fun y => key y == j) := by
  unfold upsert
  split
  · next ha =>
    rw [find?_mapKey key k j x hx]
    by_cases hj : j = k
    · subst hj
      cases e : l.find? (fun y => key y == j) with
      | none =>
        simp only [List.any_eq_true, beq_iff_eq] at ha
        obtain ⟨y, hy, hk⟩ := ha
        exact absurd hk (by simpa using List.find?_eq_none.1 e y hy)
      | some y =>
        have := List.find?_some e
        simp only [beq_iff_eq] at this
        simp [this]
    · cases e : l.find? (fun y => key y == j) with
      | none => simp [hj]
      | some y =>
        have := List.find?_some e
        simp only [beq_iff_eq] at this
        simp [this, hj]
  · next ha =>
    rw [List.find?_append]
    by_cases hj : j = k
    · subst hj
      have : l.find? (fun y => key y == j) = none := by
        rw [List.find?_eq_none]
        intro y hy
        simp only [List.any_eq_true, not_exists, not_and] at ha
        simpa using ha y hy
      simp [this, hx]
    · have : key x ≠ j := by rw [hx]; exact fun h => hj h.symm
      simp [hj, this]

theorem State.ctx?_setCtx (s : State) (c : Ctx) (j : Nat) :
    (s.setCtx c).ctx? j = if j = c.num then some c else s.ctx? j :=
  find?_upsert Ctx.num c.num j c rfl s.ctxs

theorem State.ctx?_num {s : State} {c : Nat} {x : Ctx} (h : s.ctx? c = some x) : x.num = c := by
  simpa using List.find?_some h

theorem State.ctx?_modCtx {s : State} {c : Nat} {f : Ctx → Ctx} (hf : ∀ x, (f x).num = x.num) (j : Nat) :
    (s.modCtx c f).ctx? j = if j = c then (s.ctx? c).map f else s.ctx? j := by
  unfold State.modCtx
  cases e : s.ctx? c with
  | none =>
    by_cases h : j = c
    · subst h; simp [e]
    · simp [h]
  | some x =>
    have hn := State.ctx?_num e
    rw [State.ctx?_setCtx, hf, hn]
    simp

/-! ### What stays as it was -/

theorem FileSame.refl (g : Group) : FileSame g g := ⟨rfl, rfl, rfl, rfl⟩

theorem FileSame.trans {a b c : Group} (h : FileSame a b) (k : FileSame b c) : FileSame a c :=
  ⟨k.v.trans h.v, k.s.trans h.s, k.p.trans h.p, k.q.trans h.q⟩

theorem SpecialSame.refl (g : Group) : SpecialSame g g := by constructor <;> rfl

theorem SpecialSame.trans {a b c : Group} (h : SpecialSame a b) (k : SpecialSame b c) : SpecialSame a c := by
  constructor
  · exact k.id.trans h.id
  · exact k.ctx.trans h.ctx
  · exact k.kid.trans h.kid
  · exact k.crew.trans h.crew
  · exact k.hdr.trans h.hdr
  · exact k.gval.trans h.gval
  · exact k.threads.trans h.threads
  · exact k.handler.trans h.handler
  · exact k.trapinfo.trans h.trapinfo
  · exact k.tokE.trans h.tokE
  · exact k.tokW.trans h.tokW
  · exact k.frame.trans h.frame
  · exact k.phase.trans h.phase
  · exact k.flights.trans h.flights
  · exact k.fences.trans h.fences
  · exact k.intReq.trans h.intReq
  · exact k.intPend.trans h.intPend

theorem DeviceSame.refl (s : State) : DeviceSame s s := by constructor <;> intros <;> rfl

theorem DeviceSame.trans {a b c : State} (h : DeviceSame a b) (k : DeviceSame b c) : DeviceSame a c := by
  constructor
  · exact k.time.trans h.time
  · exact k.clocks.trans h.clocks
  · exact k.clock.trans h.clock
  · exact k.mem.trans h.mem
  · exact k.ctxtab.trans h.ctxtab
  · exact fun x => (k.ctxs x).trans (h.ctxs x)
  · exact k.launches.trans h.launches
  · exact k.crews.trans h.crews
  · exact k.images.trans h.images
  · exact k.ops.trans h.ops
  · exact k.reqs.trans h.reqs
  · exact k.l1.trans h.l1
  · exact k.expiry.trans h.expiry
  · exact k.eDrop.trans h.eDrop
  · exact k.dirty.trans h.dirty
  · exact k.token.trans h.token
  · exact k.resv.trans h.resv
  · exact k.cells.trans h.cells
  · exact k.split.trans h.split
  · exact k.scraps.trans h.scraps
  · exact k.engines.trans h.engines
  · exact k.page.trans h.page
  · exact k.links.trans h.links
  · exact k.boot.trans h.boot
  · exact k.svc.trans h.svc
  · exact k.cong.trans h.cong

theorem OthersSame.refl (i : GroupId) (s : State) : OthersSame i s s := by
  intro j _
  cases e : s.group? j with
  | none => exact .inl ⟨rfl, rfl⟩
  | some g => exact .inr ⟨g, g, rfl, rfl, .refl g, .refl g⟩

theorem OthersSame.trans {i : GroupId} {a b c : State} (h : OthersSame i a b) (k : OthersSame i b c) :
    OthersSame i a c := by
  intro j hj
  rcases h j hj with ⟨h1, h2⟩ | ⟨g, g', h1, h2, hf, hs⟩ <;>
    rcases k j hj with ⟨k1, k2⟩ | ⟨x, y, k1, k2, kf, ks⟩
  · exact .inl ⟨h1, k2⟩
  · rw [h2] at k1; cases k1
  · rw [h2] at k1; cases k1
  · rw [h2] at k1; cases k1
    exact .inr ⟨g, y, h1, k2, hf.trans kf, hs.trans ks⟩

/-- An update of the state that leaves the group table leaves every group. -/
theorem OthersSame.of_groups {i : GroupId} {s t : State} (h : t.groups = s.groups) : OthersSame i s t := by
  have : ∀ j, t.group? j = s.group? j := fun j => by simp [State.group?, h]
  intro j _
  cases e : s.group? j with
  | none => exact .inl ⟨rfl, by rw [this, e]⟩
  | some g => exact .inr ⟨g, g, rfl, by rw [this, e], .refl g, .refl g⟩

theorem OthersSame.setGroup {s : State} (g : Group) : OthersSame g.id s (s.setGroup g) := by
  intro j hj
  rw [State.group?_setGroup_ne hj]
  exact OthersSame.refl g.id s j hj

theorem DeviceSame.setGroup (s : State) (g : Group) : DeviceSame s (s.setGroup g) := by
  constructor <;> intros <;> rfl

theorem DeviceSame.begun (s : State) : DeviceSame s s.begun := by constructor <;> intros <;> rfl

theorem OthersSame.begun (i : GroupId) (s : State) : OthersSame i s s.begun := .of_groups rfl

/-- A record in a ring changes the recorder alone. -/
theorem DeviceSame.record (s : State) (a b c d e f : Nat) : DeviceSame s (s.record a b c d e f) := by
  constructor <;> intros <;> rfl

/-- So does a record of a group. -/
theorem DeviceSame.recordG (s : State) (g : Group) (a b : Nat) : DeviceSame s (s.recordG g a b) := by
  constructor <;> intros <;> rfl

theorem State.record_groups (s : State) (a b c d e f : Nat) : (s.record a b c d e f).groups = s.groups := rfl

theorem DeviceSame.countIssue (s : State) (g : Group) : DeviceSame s (s.countIssue g) := by
  constructor <;> intros <;> rfl

theorem DeviceSame.unwatch (s : State) (c : Nat) :
    DeviceSame s (s.modCtx c (fun x => { x with watchStart := none })) := by
  constructor <;> try (intros; simp; done)
  intro j
  rw [State.ctx?_modCtx (f := fun x => { x with watchStart := none }) (fun _ => rfl)]
  by_cases h : j = c
  · subst h
    cases e : s.ctx? j <;> simp [Ctx.still]
  · simp [h]

theorem State.group?_of_groups {s t : State} (h : t.groups = s.groups) (i : GroupId) : t.group? i = s.group? i := by
  simp [State.group?, h]

/-- The paths of a group whose yields have ended. -/
def Group.stirred (h : Group) (g : GroupId) (pid clock : Nat) : Group :=
  if h.id.cluster == g.cluster && h.id.core == g.core then
    { h with paths := h.paths.map (fun p => match p.park with
      | some (.yield n) =>
        if h.id == g && p.id == pid then p else { p with park := some (.yield (Nat.min n (clock + 1))) }
      | _ => p) }
  else h

theorem State.group?_endYields (s : State) (g : GroupId) (pid : Nat) (i : GroupId) :
    (s.endYields g pid).group? i = (s.group? i).map (fun h => h.stirred g pid s.clock) := by
  refine State.group?_mapGroups s (fun h => h.stirred g pid s.clock) (fun h => ?_) i
  unfold Group.stirred; split <;> rfl

theorem FileSame.stirred (h : Group) (g : GroupId) (pid clock : Nat) : FileSame h (h.stirred g pid clock) := by
  unfold Group.stirred; split <;> exact ⟨rfl, rfl, rfl, rfl⟩

theorem SpecialSame.stirred (h : Group) (g : GroupId) (pid clock : Nat) : SpecialSame h (h.stirred g pid clock) := by
  unfold Group.stirred; split <;> constructor <;> rfl

theorem OthersSame.endYields (s : State) (g : GroupId) (pid : Nat) (i : GroupId) :
    OthersSame i s (s.endYields g pid) := by
  intro j _
  rw [State.group?_endYields]
  cases e : s.group? j with
  | none => exact .inl ⟨rfl, rfl⟩
  | some h => exact .inr ⟨h, _, rfl, rfl, .stirred .., .stirred ..⟩

/-- A path after the yields have ended: only its wait may have. -/
theorem Group.path?_stirred (h : Group) (g : GroupId) (pid clock k : Nat) :
    ∃ f : Path → Path, (h.stirred g pid clock).path? k = (h.path? k).map f ∧
      ∀ q, (f q).id = q.id ∧ (f q).pc = q.pc ∧ (f q).mask = q.mask ∧ (f q).stack = q.stack ∧
        (f q).place = q.place ∧ (f q).windows = q.windows := by
  unfold Group.stirred
  split
  · refine ⟨_, find?_map_of _ _ (fun q => ?_) h.paths, fun q => ?_⟩
    · split
      · split <;> rfl
      · rfl
    · split
      · split <;> simp
      · simp
  · exact ⟨fun q => q, by simp, fun q => ⟨rfl, rfl, rfl, rfl, rfl, rfl⟩⟩

theorem Group.issuedFrom_paths (g : Group) (p : Path) (c : Nat) : (g.issuedFrom p c).paths = g.paths := by
  unfold Group.issuedFrom; dsimp only; split
  · split <;> rfl
  · rfl

theorem FileSame.issuedFrom (g : Group) (p : Path) (c : Nat) : FileSame g (g.issuedFrom p c) := by
  unfold Group.issuedFrom; dsimp only; split
  · split <;> exact ⟨rfl, rfl, rfl, rfl⟩
  · exact ⟨rfl, rfl, rfl, rfl⟩

theorem SpecialSame.issuedFrom (g : Group) (p : Path) (c : Nat) : SpecialSame g (g.issuedFrom p c) := by
  unfold Group.issuedFrom; dsimp only; split
  · split <;> constructor <;> rfl
  · constructor <;> rfl

/-! ### Settling -/

/-- What the end of an issue does (R262, R300, R310, R312): the path is settled by `fin`, the group's
bookkeeping counts the issue, yields of the core end, and nothing else changes. -/
theorem State.finish_spec {s' : State} {i : Instr} {g g' : Group} {p p' : Path} {fin : Path → Path}
    {pc : DWord} {stack : List DWord} (hid' : g'.id = g.id)
    (hg : s'.group? g.id = some g') (hp : g'.path? p.id = some p')
    (hothers : ∀ k, k ≠ p.id → (g'.path? k).map (fun q => (q.pc, q.mask, q.stack, q.place)) =
      (g.path? k).map (fun q => (q.pc, q.mask, q.stack, q.place)))
    (hfin : ∀ q : Path, q.id = p'.id → q.pc = p'.pc → q.mask = p'.mask → q.stack = p'.stack →
      q.place = p'.place → p.MovedTo (fin q) pc stack) :
    ∃ h, (s'.finish i g p fin).group? g.id = some h ∧ Went g h p pc stack ∧ SpecialSame g' h ∧ FileSame g' h ∧
      OthersSame g.id s' (s'.finish i g p fin) ∧ DeviceSame s' (s'.finish i g p fin) := by
  let s1 := s'.modCtx g.ctx (fun c => { c with watchStart := none })
  let s2 := ((s1.endYields g.id p.id).slot g.kid (quadOf g.id.cluster g.id.core)).countIssue g
  let g1 := g'.stirred g.id p.id s1.clock
  have hsp1' : SpecialSame g' g1 := .stirred ..
  have hg1 : g1.id = g.id := hsp1'.id.trans hid'
  have hs2 : s2.group? g.id = some g1 := by
    show (s1.endYields g.id p.id).group? g.id = _
    rw [State.group?_endYields, State.group?_of_groups (by simp [s1] : s1.groups = s'.groups), hg]; rfl
  let h := g1.closeIssue p s2.clock i.info.ends fin
  have hsp1 : SpecialSame g' g1 := .stirred ..
  obtain ⟨f, hf, hfq⟩ := Group.path?_stirred g' g.id p.id s1.clock p.id
  rw [hp, Option.map_some] at hf
  have hx : ∀ k, (g1.issuedFrom p s2.clock).path? k = g1.path? k := fun k => by
    simp [Group.path?, Group.issuedFrom_paths]
  let q := f p'
  let q1 := fin (if i.info.ends then { q with windows := [] } else q.countWindows)
  have hm : p.MovedTo q1 pc stack := by
    obtain ⟨a, b, c, d, e, _⟩ := hfq p'
    show p.MovedTo (fin _) pc stack
    apply hfin <;> (split <;> simp [Path.countWindows, q, a, b, c, d, e])
  have hh : h = (g1.issuedFrom p s2.clock).setPath q1 := by
    simp only [h, Group.closeIssue, hx, g1, hf]; rfl
  have hsp2 : SpecialSame g1 h := by
    rw [hh]; exact (SpecialSame.issuedFrom g1 p s2.clock).trans (by constructor <;> rfl)
  have hfile : FileSame g' h := by
    rw [hh]
    exact ((FileSame.stirred g' g.id p.id s1.clock).trans (FileSame.issuedFrom g1 p s2.clock)).trans ⟨rfl, rfl, rfl, rfl⟩
  have hclose : ∀ x : Group, (x.closeIssue p s2.clock i.info.ends fin).id = x.id := by
    intro x; unfold Group.closeIssue; dsimp only; split
    · exact (SpecialSame.issuedFrom x p s2.clock).id
    · exact (SpecialSame.issuedFrom x p s2.clock).id
  have ht : (s'.finish i g p fin).group? g.id = some h :=
    State.group?_modGroup_self (f := fun x => x.closeIssue p s2.clock i.info.ends fin) hs2 (hclose g1)
  refine ⟨h, ht, ⟨⟨q1, ?_, hm⟩, ?_⟩, hsp1.trans hsp2, hfile, ?_, ?_⟩
  · rw [hh, ← hm.id]
    exact Group.path?_setPath_self (p := q) (by rw [hm.id, hx]; exact hf)
  · intro k hk
    rw [hh, Group.path?_setPath_ne (by rw [hm.id]; exact hk), hx, ← hothers k hk]
    obtain ⟨f', hf', hfq'⟩ := Group.path?_stirred g' g.id p.id s1.clock k
    rw [show g1.path? k = _ from hf']
    cases g'.path? k with
    | none => rfl
    | some x =>
      obtain ⟨_, b, c, d, e, _⟩ := hfq' x
      simp [b, c, d, e]
  · have h1 : OthersSame g.id s' s2 :=
      (OthersSame.of_groups (by simp [s1] : s1.groups = s'.groups)).trans
        ((OthersSame.endYields s1 g.id p.id g.id).trans (.of_groups rfl))
    refine h1.trans ?_
    intro j hj
    have : (s'.finish i g p fin).group? j = s2.group? j :=
      State.group?_modGroup_ne (f := fun x => x.closeIssue p s2.clock i.info.ends fin) hclose hj
    rw [this]
    exact OthersSame.refl g.id s2 j hj
  · refine (DeviceSame.unwatch s' g.ctx).trans ?_
    constructor <;> intros <;> simp [State.finish, State.ctx?]

/-- The same from the state before the instruction's own part, which has changed registers alone. -/
theorem State.finish_retired {s s' : State} {i : Instr} {g g' : Group} {p p' : Path} {fin : Path → Path}
    {pc : DWord} {stack : List DWord}
    (hd : DeviceSame s s') (ho : OthersSame g.id s s') (hsp : SpecialSame g g')
    (hg : s'.group? g.id = some g') (hp : g'.path? p.id = some p')
    (hothers : ∀ k, k ≠ p.id → (g'.path? k).map (fun q => (q.pc, q.mask, q.stack, q.place)) =
      (g.path? k).map (fun q => (q.pc, q.mask, q.stack, q.place)))
    (hfin : ∀ q : Path, q.id = p'.id → q.pc = p'.pc → q.mask = p'.mask → q.stack = p'.stack →
      q.place = p'.place → p.MovedTo (fin q) pc stack) :
    ∃ h, Retired s (s'.finish i g p fin) g h p pc stack ∧ FileSame g' h := by
  obtain ⟨h, h1, h2, h3, h4, h5, h6⟩ := State.finish_spec (i := i) hsp.id hg hp hothers hfin
  exact ⟨h, ⟨h1, h2, hsp.trans h3, ho.trans h5, hd.trans h6⟩, h4⟩

/-! ### Issuing -/

theorem State.opened_groups (s : State) (i : Instr) (g : Group) (p : Path) : (s.opened i g p).groups = s.groups := by
  unfold State.opened; split <;> rfl

theorem DeviceSame.opened (s : State) (i : Instr) (g : Group) (p : Path) : DeviceSame s (s.opened i g p) := by
  unfold State.opened; split
  · exact (DeviceSame.begun s).trans (DeviceSame.recordG ..)
  · exact .begun s

theorem OthersSame.opened (s : State) (i : Instr) (g : Group) (p : Path) (k : GroupId) :
    OthersSame k s (s.opened i g p) := .of_groups (s.opened_groups i g p)

theorem Ready.group?_opened {s : State} {i : Instr} {g : Group} {p : Path} (h : Ready s i g p) :
    (s.opened i g p).group? g.id = some g := by
  rw [State.group?_of_groups (s.opened_groups i g p)]; exact h.group

/-- An instruction that does not end windows reads through its path as it stands. -/
theorem Path.reading_of_ends {i : Instr} (p : Path) (h : i.info.ends = false) : p.reading i = p := by
  simp [Path.reading, h]

/-- An instruction that is ready is settled by what its own part answers. -/
theorem issue_ready {s : State} {i : Instr} {g : Group} {p : Path} {body : State → Group → Path → Res}
    (hr : Ready s i g p) :
    issue i s body = .next (s.begun.settle i g p
      (if g.records i && (body s.begun g (p.reading i)).issues then body (s.begun.recordIssue g p i) g (p.reading i)
       else body s.begun g (p.reading i))) := by
  unfold issue
  rw [hr.issuer]
  dsimp only
  rw [hr.group]
  dsimp only
  rw [hr.path]
  dsimp only
  have : State.gate { s with issuer := none } g p i = .pass := hr.gate
  rw [this]
  rfl

/-- An instruction that is ready and whose own part issues has its effect in the opened state. -/
theorem issue_issues {s : State} {i : Instr} {g : Group} {p : Path} {body : State → Group → Path → Res}
    (hr : Ready s i g p) (h : (body s.begun g (p.reading i)).issues = true) :
    issue i s body = .next (s.begun.settle i g p (body (s.opened i g p) g (p.reading i))) := by
  rw [issue_ready hr, h, Bool.and_true]
  unfold State.opened; split <;> simp [*]

/-- Path facts that the end of an issue needs, for a path that only goes on. -/
theorem Path.next_movedTo {p q : Path} (i : Instr) (h : q.id = p.id) (hp : q.pc = p.pc) (hm : q.mask = p.mask)
    (hs : q.stack = p.stack) (hl : q.place = p.place) : p.MovedTo (q.next i) (p.following i) p.stack := by
  constructor <;> simp [Path.next, Path.following, *]

/-- An instruction that has done its work in the group's registers retires. -/
theorem issue_done {s s' : State} {i : Instr} {g g' : Group} {p : Path} {body : State → Group → Path → Res}
    (hr : Ready s i g p) (h : (body s.begun g (p.reading i)).issues = true) (hb : body (s.opened i g p) g (p.reading i) = .done s')
    (hg : s'.group? g.id = some g') (hpaths : g'.paths = g.paths) (hsp : SpecialSame g g')
    (hd : DeviceSame (s.opened i g p) s') (ho : OthersSame g.id (s.opened i g p) s') :
    ∃ t h, issue i s body = .next t ∧ Retired s t g h p (p.following i) p.stack ∧ FileSame g' h := by
  rw [issue_issues hr h, hb]
  have hp' : ∀ k, g'.path? k = g.path? k := fun k => by simp [Group.path?, hpaths]
  obtain ⟨h, hret, hfile⟩ := State.finish_retired (s := s) (i := i) (p := p) (p' := p)
    (fin := fun p => p.next i) (pc := p.following i) (stack := p.stack)
    ((DeviceSame.opened s i g p).trans hd) ((OthersSame.opened s i g p g.id).trans ho) hsp hg (by rw [hp']; exact hr.path) (fun k _ => by rw [hp'])
    (fun q a b c d e => Path.next_movedTo i a b c d e)
  exact ⟨_, h, rfl, hret, hfile⟩

/-- The same for an instruction with a window: the path keeps the old values of the registers written. -/
theorem issue_long {s s' : State} {i : Instr} {g g' : Group} {p : Path} {op : Option Nat}
    {body : State → Group → Path → Res}
    (hr : Ready s i g p) (h : (body s.begun g (p.reading i)).issues = true) (hb : body (s.opened i g p) g (p.reading i) = .long s' op)
    (hg : s'.group? g.id = some g') (hpaths : g'.paths = g.paths) (hsp : SpecialSame g g')
    (hd : DeviceSame (s.opened i g p) s') (ho : OthersSame g.id (s.opened i g p) s') :
    ∃ t h, issue i s body = .next t ∧ Retired s t g h p (p.following i) p.stack ∧ FileSame g' h := by
  rw [issue_issues hr h, hb]
  have hp' : ∀ k, g'.path? k = g.path? k := fun k => by simp [Group.path?, hpaths]
  obtain ⟨h, hret, hfile⟩ := State.finish_retired (s := s) (i := i) (p := p) (p' := p)
    (fin := fun q => (q.next i).openWindow g p i.info op) (pc := p.following i) (stack := p.stack)
    ((DeviceSame.opened s i g p).trans hd) ((OthersSame.opened s i g p g.id).trans ho) hsp hg (by rw [hp']; exact hr.path) (fun k _ => by rw [hp'])
    (fun q a b c d e => by
      have := Path.next_movedTo i a b c d e
      unfold Path.openWindow; split
      · exact this
      · exact ⟨this.id, this.pc, this.mask, this.place, this.stack, this.park⟩)
  exact ⟨_, h, rfl, hret, hfile⟩

/-- A transfer: the path goes on at `pc`, with the return stack that the instruction left. -/
theorem issue_jump {s s' : State} {i : Instr} {g g' : Group} {p p' : Path} {pc : DWord}
    {body : State → Group → Path → Res}
    (hr : Ready s i g p) (h : (body s.begun g (p.reading i)).issues = true) (hb : body (s.opened i g p) g (p.reading i) = .jump s' pc)
    (hg : s'.group? g.id = some g') (hp : g'.path? p.id = some p') (hm : p'.mask = p.mask)
    (hl : p'.place = p.place) (hothers : ∀ k, k ≠ p.id → g'.path? k = g.path? k) (hsp : SpecialSame g g')
    (hd : DeviceSame (s.opened i g p) s') (ho : OthersSame g.id (s.opened i g p) s') :
    ∃ t h, issue i s body = .next t ∧ Retired s t g h p pc p'.stack ∧ FileSame g' h := by
  rw [issue_issues hr h, hb]
  have hid : p'.id = p.id := Group.path?_id hp
  obtain ⟨h, hret, hfile⟩ := State.finish_retired (s := s) (i := i) (p := p) (p' := p')
    (fin := fun q => { q.next i with pc := pc }) (pc := pc) (stack := p'.stack)
    ((DeviceSame.opened s i g p).trans hd) ((OthersSame.opened s i g p g.id).trans ho) hsp hg hp (fun k hk => by rw [hothers k hk])
    (fun q a b c d e => by constructor <;> simp [Path.next, *])
  exact ⟨_, h, rfl, hret, hfile⟩

end Sys2Proof.Machine
end

