-- ==== Sys2Proof/Laws/Registers.lean ====
section
/-! SUPPORT. Laws of registers and predicates: what a write leaves, a run of registers at a time. -/

namespace Sys2Proof.Machine

/-- Where a register word is held: two names of one word agree only in the lane of a vector register. -/
theorem Group.reg_setReg (g : Group) (c l c' l' : Nat) (w : Word) (hl : l < 32) (hl' : l' < 32) :
    (g.setReg c l w).reg c' l' = if c' = c ∧ (c < 192 → l' = l) then w else g.reg c' l' := by
  unfold Group.setReg Group.reg
  by_cases hc : c < 192 <;> by_cases hc' : c' < 192 <;> simp only [hc, hc', if_true, if_false]
  · rw [SMap.get_set]
    by_cases h : 32 * c' + l' = 32 * c + l
    · have : c' = c ∧ l' = l := by omega
      simp [this.1, this.2]
    · have : ¬ (c' = c ∧ l' = l) := by omega
      simp only [h, if_false]
      rw [if_neg]; simpa using this
  · rw [if_neg]; omega
  · rw [if_neg]; omega
  · rw [SMap.get_set]
    by_cases h : c' = c
    · simp [h]
    · have : c' - 192 ≠ c - 192 := by omega
      simp [h, this]

theorem Group.setReg_pred (g : Group) (c l : Nat) (w : Word) (k : Nat) : (g.setReg c l w).pred k = g.pred k := by
  simp [Group.pred]

theorem Group.setReg_qpred (g : Group) (c l : Nat) (w : Word) (k : Nat) : (g.setReg c l w).qpred k = g.qpred k := by
  simp [Group.qpred]

/-- What a group keeps when only its registers and predicates change. -/
structure OnlyFile (g h : Group) : Prop where
  special : SpecialSame g h
  paths : h.paths = g.paths

theorem OnlyFile.refl (g : Group) : OnlyFile g g := ⟨.refl g, rfl⟩

theorem OnlyFile.trans {a b c : Group} (h : OnlyFile a b) (k : OnlyFile b c) : OnlyFile a c :=
  ⟨h.special.trans k.special, k.paths.trans h.paths⟩

theorem OnlyFile.setReg (g : Group) (c l : Nat) (w : Word) : OnlyFile g (g.setReg c l w) := by
  unfold Group.setReg; split <;> exact ⟨by constructor <;> rfl, rfl⟩

theorem OnlyFile.setPred (g : Group) (k : Nat) (m v : Mask) : OnlyFile g (g.setPred k m v) := by
  unfold Group.setPred; split
  · exact .refl g
  · exact ⟨by constructor <;> rfl, rfl⟩

theorem OnlyFile.setQ (g : Group) (k : Nat) (b : Bool) : OnlyFile g (g.setQ k b) := by
  unfold Group.setQ; split
  · exact .refl g
  · exact ⟨by constructor <;> rfl, rfl⟩

theorem OnlyFile.foldl {α : Type} (f : Group → α → Group) (hf : ∀ g a, OnlyFile g (f g a)) (xs : List α) (g : Group) :
    OnlyFile g (xs.foldl f g) := by
  induction xs generalizing g with
  | nil => exact .refl g
  | cons x xs ih => exact (hf g x).trans (ih (f g x))

theorem OnlyFile.wrN (g : Group) (n : Nat) (r : Reg) (l : Nat) (x : DWord) : OnlyFile g (g.wrN n r l x) := by
  unfold Group.wrN; dsimp only; split
  · exact (OnlyFile.setReg ..).trans (OnlyFile.setReg ..)
  · exact OnlyFile.setReg ..

theorem OnlyFile.setLanes (g : Group) (n : Nat) (d : Reg) (ls : List Nat) (f : Nat → DWord) :
    OnlyFile g (g.setLanes n d ls f) := OnlyFile.foldl _ (fun g l => OnlyFile.wrN g n d l (f l)) ls g

theorem PredsSame.setLanes (g : Group) (n : Nat) (d : Reg) (ls : List Nat) (f : Nat → DWord) :
    PredsSame g (g.setLanes n d ls f) := by
  have h1 : ∀ (g : Group) l k, (g.wrN n d l (f l)).pred k = g.pred k := by
    intro g l k; unfold Group.wrN; dsimp only; split <;> simp [Group.setReg_pred]
  have h2 : ∀ (g : Group) l k, (g.wrN n d l (f l)).qpred k = g.qpred k := by
    intro g l k; unfold Group.wrN; dsimp only; split <;> simp [Group.setReg_qpred]
  unfold Group.setLanes
  induction ls generalizing g with
  | nil => exact ⟨fun _ => rfl, fun _ => rfl⟩
  | cons l ls ih =>
    have := ih (g.wrN n d l (f l))
    exact ⟨fun k => (this.p k).trans (h1 g l k), fun k => (this.q k).trans (h2 g l k)⟩

/-- A destination of `n` registers keeps within its file: one register, or a pair that starts even. -/
def Fits (d : Reg) (n : Nat) : Prop := n = 1 ∨ (n = 2 ∧ d.code % 2 = 0)

theorem Group.reg_wrN {n : Nat} {d : Reg} (hd : Fits d n) (g : Group) (l c l' : Nat) (x : DWord)
    (hl : l < 32) (hl' : l' < 32) :
    (g.wrN n d l x).reg c l' =
      if d.code ≤ c ∧ c < d.code + n ∧ (d.code < 192 → l' = l) then x.extractLsb' (32 * (c - d.code)) 32
      else g.reg c l' := by
  unfold Group.wrN
  rcases hd with rfl | ⟨rfl, he⟩
  · simp only [show (1 : Nat) ≠ 2 by decide, if_false]
    rw [Group.reg_setReg _ _ _ _ _ _ hl hl']
    by_cases h : c = d.code
    · subst h; simp
    · rw [if_neg (by tauto), if_neg (by omega)]
  · simp only [if_true]
    rw [Group.reg_setReg _ _ _ _ _ _ hl hl', Group.reg_setReg _ _ _ _ _ _ hl hl']
    by_cases h1 : c = d.code + 1
    · subst h1
      by_cases h2 : d.code < 192
      · by_cases h3 : l' = l
        · rw [if_pos ⟨rfl, fun _ => h3⟩, if_pos (by omega)]
          congr 1; omega
        · have : d.code + 1 < 192 := by omega
          rw [if_neg (by tauto), if_neg (by omega), if_neg (by tauto)]
      · rw [if_pos ⟨rfl, by omega⟩, if_pos (by omega)]
        congr 1; omega
    · rw [if_neg (by tauto)]
      by_cases h2 : c = d.code
      · subst h2
        by_cases h3 : d.code < 192 → l' = l
        · rw [if_pos ⟨rfl, h3⟩, if_pos ⟨by omega, by omega, h3⟩]
          simp
        · rw [if_neg (by tauto), if_neg (by tauto)]
      · rw [if_neg (by tauto), if_neg (by omega)]

theorem Reg.code_s (d : Reg) : 192 ≤ d.code ↔ ∃ n, d = .s n := by
  cases d with
  | v n => simp [Reg.code]
  | s n => simp [Reg.code]

/-- What a write of a run of registers in a list of lanes leaves; a group-wide register has one lane. -/
theorem Wrote.setLanes {n : Nat} {d : Reg} (hd : Fits d n) (g : Group) (ls : List Nat) (f : Nat → DWord)
    (hl : ∀ l ∈ ls, l < 32) (hs : 192 ≤ d.code → ls = [] ∨ ls = [0]) : Wrote g (g.setLanes n d ls f) n d ls f := by
  have key : ∀ (ls : List Nat) (g : Group), (∀ l ∈ ls, l < 32) → (192 ≤ d.code → ls = [] ∨ ls = [0]) →
      ∀ c l', l' < 32 → (g.setLanes n d ls f).reg c l' =
        if d.code ≤ c ∧ c < d.code + n ∧ (d.code < 192 → l' ∈ ls) ∧ ls ≠ []
        then (f (if d.code < 192 then l' else 0)).extractLsb' (32 * (c - d.code)) 32 else g.reg c l' := by
    intro ls
    induction ls with
    | nil => intro g _ _ c l' _; simp [Group.setLanes]
    | cons l ls ih =>
      intro g hl hs c l' hl'
      have hls : 192 ≤ d.code → ls = [] := by
        intro h; rcases hs h with h | h <;> simp_all
      show ((g.wrN n d l (f l)).setLanes n d ls f).reg c l' = _
      rw [ih _ (fun x hx => hl x (List.mem_cons_of_mem _ hx)) (fun h => .inl (hls h)) c l' hl',
        Group.reg_wrN hd _ _ _ _ _ (hl l (by simp)) hl']
      by_cases hc : d.code ≤ c ∧ c < d.code + n
      · by_cases h192 : d.code < 192
        · by_cases hm : l' ∈ ls
          · have : ls ≠ [] := List.ne_nil_of_mem hm
            simp [hc, h192, hm, this]
          · by_cases he : l' = l
            · subst he; simp [hc, h192, hm]
            · simp [hc, h192, hm, he]
        · have hn := hls (by omega)
          subst hn
          have : l = 0 := by rcases hs (by omega) with h | h <;> simp_all
          subst this
          simp [hc, h192]
      · rw [if_neg (by tauto), if_neg (by tauto), if_neg (by tauto)]
  constructor
  · intro l hm k hk
    rw [key ls g hl hs _ _ (hl l hm), if_pos]
    · rcases Nat.lt_or_ge d.code 192 with h | h
      · rw [if_pos h]; congr 1; omega
      · have : l = 0 := by rcases hs h with h | h <;> simp_all
        rw [if_neg (by omega), this]; congr 1; omega
    · exact ⟨by omega, by omega, fun _ => hm, List.ne_nil_of_mem hm⟩
  · intro c l hl32 h
    rw [key ls g hl hs _ _ hl32, if_neg]
    rintro ⟨a, b, e, ne⟩
    rcases h with h | h | ⟨h, h'⟩ | h
    · omega
    · omega
    · rcases Nat.lt_or_ge d.code 192 with h2 | h2
      · exact h' (e h2)
      · omega
    · exact ne h

theorem lanesOf_lt {m : Mask} {l : Nat} (h : l ∈ lanesOf m) : l < 32 := by
  simpa using (List.mem_filter.1 h).1

theorem mem_lanesOf {m : Mask} {l : Nat} : l ∈ lanesOf m ↔ l < 32 ∧ m.getLsbD l = true := by
  simp [lanesOf]

theorem Group.acting_lt {g : Group} {p : Path} {w : Bool} {gd : Guard} {l : Nat} (h : l ∈ g.acting p w gd) :
    l < 32 := by
  unfold Group.acting at h
  split at h
  · split at h <;> simp_all
  · exact lanesOf_lt h

theorem Group.acting_wide (g : Group) (p : Path) (gd : Guard) :
    g.acting p true gd = [] ∨ g.acting p true gd = [0] := by
  unfold Group.acting; simp only [if_true]; split
  · exact .inr rfl
  · exact .inl rfl

/-- A well-formed destination keeps within its file, and is group-wide only for G=1. -/
theorem Fits.of_ok {d : Reg} {wide : Bool} {n : Nat} (hn : n = 1 ∨ n = 2) (h : d.okDest wide n = true) :
    Fits d n ∧ (192 ≤ d.code → wide = true) := by
  unfold Reg.okDest at h
  cases d with
  | v k =>
    simp only [Fits, Reg.code]
    rcases hn with rfl | rfl <;> simp_all
  | s k =>
    simp only [Fits, Reg.code]
    rcases hn with rfl | rfl <;> simp_all; omega

/-! ### Predicates -/

theorem getLsbD_laneBit {l k : Nat} (hl : l < 32) : (laneBit l).getLsbD k = decide (k = l) := by
  unfold laneBit
  rw [BitVec.getLsbD_ofNat, Nat.testBit_two_pow]
  by_cases h : l = k
  · subst h; simp [hl]
  · simp [h, Ne.symm h]

theorem allLanes_getLsbD {l : Nat} (hl : l < 32) : allLanes.getLsbD l = true := by
  unfold allLanes
  interval_cases l <;> decide

theorem Group.pred_setPred (g : Group) (k j : Nat) (m v : Mask) :
    (g.setPred k m v).pred j = if j = k ∧ k ≠ 7 then (g.pred k &&& ~~~m) ||| (v &&& m) else g.pred j := by
  unfold Group.setPred
  by_cases hk : k = 7
  · simp [hk]
  · simp only [hk, if_false]
    by_cases hj : j = 7
    · subst hj
      rw [if_neg (by omega)]; simp [Group.pred]
    · simp only [Group.pred, hj, if_false, SMap.get_set, hk]
      by_cases h : j = k <;> simp [h, hk]

theorem Group.qpred_setPred (g : Group) (k j : Nat) (m v : Mask) : (g.setPred k m v).qpred j = g.qpred j := by
  simp [Group.qpred]

theorem Group.pred_setQ (g : Group) (k j : Nat) (b : Bool) : (g.setQ k b).pred j = g.pred j := by
  simp [Group.pred]

theorem Group.qpred_setQ (g : Group) (k j : Nat) (b : Bool) (hk : k < 8) :
    (g.setQ k b).qpred j = if j = k then (k == 7 || b) else g.qpred j := by
  unfold Group.setQ Group.qpred
  by_cases h7 : k = 7
  · subst h7; by_cases hj : j = 7 <;> simp [hj]
  · simp only [h7, if_false]
    have hbit : ∀ i, (BitVec.ofNat 8 (2 ^ k)).getLsbD i = decide (i = k) := by
      intro i
      rw [BitVec.getLsbD_ofNat, Nat.testBit_two_pow]
      by_cases h : k = i
      · subst h; simp [hk]
      · simp [h, Ne.symm h]
    by_cases hj : j = k
    · subst hj
      cases b <;> simp only [Bool.false_eq_true, if_false, if_true, BitVec.getLsbD_or, BitVec.getLsbD_and,
        BitVec.getLsbD_not, hbit] <;> simp [hk]
    · simp only [hj, if_false]
      by_cases hj8 : j < 8
      · cases b <;> simp only [Bool.false_eq_true, if_false, if_true, BitVec.getLsbD_or, BitVec.getLsbD_and,
          BitVec.getLsbD_not, hbit] <;> simp [hj, hj8]
      · have h8 : 8 ≤ j := by omega
        simp [BitVec.getLsbD_of_ge _ _ h8]

/-- What a lane-wise write of a predicate leaves. -/
theorem WrotePred.setPreds (g : Group) (d : Fin 8) (ls : List Nat) (f : Nat → Bool) (hl : ∀ l ∈ ls, l < 32) :
    WrotePred g (g.setPreds false d ls f) d ls f := by
  have hq : ∀ (ls : List Nat) (g : Group) k, (g.setPreds false d ls f).qpred k = g.qpred k := by
    intro ls
    induction ls with
    | nil => intro g k; rfl
    | cons l ls ih =>
      intro g k
      exact (ih (g.setPred d.val (laneBit l) (if f l then laneBit l else 0)) k).trans (Group.qpred_setPred ..)
  have hp : ∀ (ls : List Nat) (g : Group) k, k ≠ d.val → (g.setPreds false d ls f).pred k = g.pred k := by
    intro ls
    induction ls with
    | nil => intro g k _; rfl
    | cons l ls ih =>
      intro g k hk
      refine (ih (g.setPred d.val (laneBit l) (if f l then laneBit l else 0)) k hk).trans ?_
      rw [Group.pred_setPred, if_neg (by tauto)]
  have key : ∀ (ls : List Nat) (g : Group), (∀ l ∈ ls, l < 32) → ∀ l, l < 32 →
      ((g.setPreds false d ls f).pred d.val).getLsbD l =
        if l ∈ ls then (d.val == 7 || f l) else (g.pred d.val).getLsbD l := by
    intro ls
    induction ls with
    | nil => intro g _ l _; simp [Group.setPreds]
    | cons a ls ih =>
      intro g hls l hl
      have ha : a < 32 := hls a (by simp)
      refine (ih (g.setPred d.val (laneBit a) (if f a then laneBit a else 0))
        (fun x hx => hls x (List.mem_cons_of_mem _ hx)) l hl).trans ?_
      by_cases hm : l ∈ ls
      · simp [hm]
      · simp only [hm, if_false, List.mem_cons, or_false]
        rw [Group.pred_setPred]
        by_cases h7 : d.val = 7
        · have : g.pred 7 = allLanes := by simp [Group.pred]
          simp [h7, this, allLanes_getLsbD hl]
        · simp only [h7, ne_eq, not_false_eq_true, and_self, if_true]
          have hb := getLsbD_laneBit (k := l) ha
          simp only [BitVec.getLsbD_or, BitVec.getLsbD_and, BitVec.getLsbD_not, hb, hl, decide_true, Bool.true_and]
          by_cases he : l = a
          · subst he
            cases f l <;> simp [h7, hb]
          · cases f a <;> simp [he, hb]
  constructor
  · intro l hm; rw [key ls g hl l (hl l hm), if_pos hm]
  · intro l h32 hm; rw [key ls g hl l h32, if_neg hm]
  · exact fun k hk => hp ls g k hk
  · exact fun k => hq ls g k

theorem OnlyFile.setPreds (g : Group) (w : Bool) (d : Fin 8) (ls : List Nat) (f : Nat → Bool) :
    OnlyFile g (g.setPreds w d ls f) := by
  unfold Group.setPreds; split
  · exact OnlyFile.foldl _ (fun g l => OnlyFile.setQ ..) ls g
  · exact OnlyFile.foldl _ (fun g l => OnlyFile.setPred ..) ls g

theorem RegsSame.setPreds (g : Group) (w : Bool) (d : Fin 8) (ls : List Nat) (f : Nat → Bool) :
    RegsSame g (g.setPreds w d ls f) := by
  have hv : ∀ (ls : List Nat) (g : Group), (g.setPreds w d ls f).v = g.v ∧ (g.setPreds w d ls f).s = g.s := by
    intro ls
    unfold Group.setPreds
    split
    · induction ls with
      | nil => intro g; exact ⟨rfl, rfl⟩
      | cons l ls ih => intro g; exact ⟨(ih _).1.trans (by simp), (ih _).2.trans (by simp)⟩
    · induction ls with
      | nil => intro g; exact ⟨rfl, rfl⟩
      | cons l ls ih => intro g; exact ⟨(ih _).1.trans (by simp), (ih _).2.trans (by simp)⟩
  intro c l
  simp [Group.reg, hv ls g]

/-- What a group-wide write of a predicate leaves. -/
theorem WroteQ.setQ (g : Group) (d : Fin 8) (b : Bool) : WroteQ g (g.setQ d.val b) d b := by
  constructor
  · rw [Group.qpred_setQ _ _ _ _ d.isLt, if_pos rfl]
  · intro k hk; rw [Group.qpred_setQ _ _ _ _ d.isLt, if_neg hk]
  · intro k; exact Group.pred_setQ ..

/-- Registers and predicates read the same when their maps are the same. -/
theorem FileSame.reg {g h : Group} (k : FileSame g h) (c l : Nat) : h.reg c l = g.reg c l := by
  simp [Group.reg, k.v, k.s]

theorem FileSame.pred {g h : Group} (k : FileSame g h) (j : Nat) : h.pred j = g.pred j := by
  simp [Group.pred, k.p]

theorem FileSame.qpred {g h : Group} (k : FileSame g h) (j : Nat) : h.qpred j = g.qpred j := by
  simp [Group.qpred, k.q]

theorem FileSame.predsSame {a g h : Group} (k : FileSame g h) (w : PredsSame a g) : PredsSame a h :=
  ⟨fun j => (k.pred j).trans (w.p j), fun j => (k.qpred j).trans (w.q j)⟩

theorem FileSame.regsSame {a g h : Group} (k : FileSame g h) (w : RegsSame a g) : RegsSame a h :=
  fun c l => (k.reg c l).trans (w c l)

theorem FileSame.wrote {a g h : Group} {n : Nat} {d : Reg} {ls : List Nat} {f : Nat → DWord}
    (k : FileSame g h) (w : Wrote a g n d ls f) : Wrote a h n d ls f :=
  ⟨fun l hl j hj => (k.reg ..).trans (w.value l hl j hj), fun c l hl hc => (k.reg ..).trans (w.rest c l hl hc)⟩

theorem FileSame.wrotePred {a g h : Group} {d : Fin 8} {ls : List Nat} {f : Nat → Bool}
    (k : FileSame g h) (w : WrotePred a g d ls f) : WrotePred a h d ls f :=
  ⟨fun l hl => by rw [k.pred]; exact w.value l hl, fun l hl hm => by rw [k.pred]; exact w.lanes l hl hm,
    fun j hj => (k.pred j).trans (w.rest j hj), fun j => (k.qpred j).trans (w.q j)⟩

theorem FileSame.wroteQ {a g h : Group} {d : Fin 8} {b : Bool} (k : FileSame g h) (w : WroteQ a g d b) :
    WroteQ a h d b :=
  ⟨(k.qpred _).trans w.value, fun j hj => (k.qpred j).trans (w.rest j hj), fun j => (k.pred j).trans (w.p j)⟩

end Sys2Proof.Machine
end

