-- ==== Sys2Proof/Laws/Lanes.lean ====
section
/-! SUPPORT. What the shared bodies of the vector and group-wide instructions do when ready. -/

namespace Sys2Proof.Machine

/-- A body that has put `g'` in place of the group, with new registers and predicates alone. -/
theorem issue_file {s : State} {i : Instr} {g g' : Group} {p : Path} {body : State → Group → Path → Res}
    (hr : Ready s i g p) (ho : OnlyFile g g') (hb : ∀ u : State, body u g (p.reading i) = .done (u.setGroup g')) :
    ∃ t h, issue i s body = .next t ∧ Retired s t g h p (p.following i) p.stack ∧ FileSame g' h := by
  have hid : g'.id = g.id := ho.special.id
  have hg := hr.group?_opened
  refine issue_done hr (by rw [hb]; rfl) (hb _) ?_ ho.paths ho.special (DeviceSame.setGroup ..) ?_
  · rw [← hid]; exact State.group?_setGroup_self (g' := g) (by rw [hid]; exact hg)
  · rw [← hid]; exact OthersSame.setGroup g'

theorem issue_file_long {s : State} {i : Instr} {g g' : Group} {p : Path} {body : State → Group → Path → Res}
    (hr : Ready s i g p) (ho : OnlyFile g g') (hb : ∀ u : State, body u g (p.reading i) = .long (u.setGroup g') none) :
    ∃ t h, issue i s body = .next t ∧ Retired s t g h p (p.following i) p.stack ∧ FileSame g' h := by
  have hid : g'.id = g.id := ho.special.id
  have hg := hr.group?_opened
  refine issue_long hr (by rw [hb]; rfl) (hb _) ?_ ho.paths ho.special (DeviceSame.setGroup ..) ?_
  · rw [← hid]; exact State.group?_setGroup_self (g' := g) (by rw [hid]; exact hg)
  · rw [← hid]; exact OthersSame.setGroup g'

/-- A body that leaves everything as it is. -/
theorem issue_same {s : State} {i : Instr} {g : Group} {p : Path} {body : State → Group → Path → Res}
    (hr : Ready s i g p) (hb : ∀ u : State, body u g (p.reading i) = .done u) :
    ∃ t h, issue i s body = .next t ∧ Retired s t g h p (p.following i) p.stack ∧ FileSame g h :=
  issue_done hr (by rw [hb]; rfl) (hb _) hr.group?_opened rfl (.refl g) (.refl _) (.refl _ _)

theorem lanewise_result {s : State} {i : Instr} {g : Group} {p : Path} {wide : Bool} {gd : Guard} {n : Nat}
    {d : Reg} {f : Group → Path → Nat → DWord} (hr : Ready s i g p) (he : i.info.ends = false)
    (hx : exec i s = issue i s (lanewise wide gd n d f)) (hd : Fits d n) (hw : 192 ≤ d.code → wide = true) :
    LaneResult i s g p n d (g.acting p wide gd) (f g p) := by
  obtain ⟨t, h, hn, hret, hf⟩ := issue_file (body := lanewise wide gd n d f) hr
    (OnlyFile.setLanes g n d (g.acting p wide gd) (f g p)) (fun _ => by rw [Path.reading_of_ends p he]; rfl)
  refine ⟨t, h, hx.trans hn, hret, hf.wrote (Wrote.setLanes hd g _ _ (fun _ => Group.acting_lt) fun hc => ?_),
    hf.predsSame (PredsSame.setLanes ..)⟩
  rw [hw hc]; exact Group.acting_wide ..

theorem lanewiseLong_result {s : State} {i : Instr} {g : Group} {p : Path} {gd : Guard} {n : Nat}
    {d : Reg} {f : Group → Path → Nat → DWord} (hr : Ready s i g p) (he : i.info.ends = false)
    (hx : exec i s = issue i s (lanewiseLong gd n d f)) (hd : Fits d n) (hw : ¬ 192 ≤ d.code) :
    LaneResult i s g p n d (g.acting p false gd) (f g p) := by
  obtain ⟨t, h, hn, hret, hf⟩ := issue_file_long (body := lanewiseLong gd n d f) hr
    (OnlyFile.setLanes g n d (g.acting p false gd) (f g p)) (fun _ => by rw [Path.reading_of_ends p he]; rfl)
  exact ⟨t, h, hx.trans hn, hret, hf.wrote (Wrote.setLanes hd g _ _ (fun _ => Group.acting_lt) fun hc => absurd hc hw),
    hf.predsSame (PredsSame.setLanes ..)⟩

/-- A body that acts once under its guard, on registers and predicates. -/
theorem once_result {s : State} {i : Instr} {g : Group} {p : Path} {gd : Guard} {f : Group → Path → Group}
    (hr : Ready s i g p) (he : i.info.ends = false) (hx : exec i s = issue i s (once gd f)) (ho : OnlyFile g (f g p)) :
    ∃ t h, exec i s = .next t ∧ Retired s t g h p (p.following i) p.stack ∧
      FileSame (if g.guard gd then f g p else g) h := by
  by_cases hg : g.guard gd = true
  · obtain ⟨t, h, hn, hret, hf⟩ := issue_file (body := once gd f) hr ho (fun u => by rw [Path.reading_of_ends p he]; simp [once, hg])
    exact ⟨t, h, hx.trans hn, hret, by simpa [hg] using hf⟩
  · obtain ⟨t, h, hn, hret, hf⟩ := issue_same (body := once gd f) hr (fun u => by simp [once, hg])
    exact ⟨t, h, hx.trans hn, hret, by simpa [hg] using hf⟩

theorem onceQ_result {s : State} {i : Instr} {g : Group} {p : Path} {gd : Guard} {d : Fin 8}
    {b : Group → Path → Bool} (hr : Ready s i g p) (he : i.info.ends = false)
    (hx : exec i s = issue i s (once gd (fun g p => g.setQ d.val (b g p)))) :
    PredResult i s g p true d (g.onceLanes gd) (fun _ => b g p) := by
  obtain ⟨t, h, hn, hret, hf⟩ := once_result hr he hx (OnlyFile.setQ g d.val (b g p))
  refine ⟨t, h, hn, hret, ?_, ?_⟩
  · refine hf.regsSame ?_
    split
    · intro c l; simp [Group.reg]
    · intro c l; rfl
  · by_cases hg : g.guard gd = true
    · simp only [Group.onceLanes, hg, if_true] at hf ⊢
      simpa using hf.wroteQ (WroteQ.setQ g d (b g p))
    · simp only [Group.onceLanes, hg, Bool.false_eq_true, if_false] at hf ⊢
      exact hf.predsSame ⟨fun _ => rfl, fun _ => rfl⟩

theorem onceS_result {s : State} {i : Instr} {g : Group} {p : Path} {gd : Guard} {n : Nat} {d : Fin 64}
    {f : Group → Path → DWord} (hr : Ready s i g p) (he : i.info.ends = false) (hd : Fits (.s d) n)
    (hx : exec i s = issue i s (once gd (fun g p => g.wrN n (.s d) 0 (f g p)))) :
    LaneResult i s g p n (.s d) (g.onceLanes gd) (fun _ => f g p) := by
  obtain ⟨t, h, hn, hret, hf⟩ := once_result hr he hx (OnlyFile.wrN g n (.s d) 0 (f g p))
  have he : (if g.guard gd then g.wrN n (.s d) 0 (f g p) else g) = g.setLanes n (.s d) (g.onceLanes gd) (fun _ => f g p) := by
    unfold Group.onceLanes; split <;> rfl
  rw [he] at hf
  refine ⟨t, h, hn, hret, hf.wrote (Wrote.setLanes hd g _ _ ?_ ?_), hf.predsSame (PredsSame.setLanes ..)⟩
  · intro l hl; unfold Group.onceLanes at hl; split at hl
    · rw [List.mem_singleton] at hl; omega
    · cases hl
  · intro _; unfold Group.onceLanes; split
    · exact .inr rfl
    · exact .inl rfl

end Sys2Proof.Machine
end

