-- ==== Sys2Proof/Laws/Memory.lean ====
section
/-! SUPPORT. Storage: a read after a write, and that every operation keeps the canonical form (log 4). -/

namespace Sys2Proof.Machine

/-! ### Bytes -/

/-- A byte after one byte is written. -/
theorem State.byte_setByte (s : State) (key a : Nat) (b : Byte) :
    (s.setByte key b).byte a = if a = key then b else s.byte a := by
  simp [State.byte, State.setByte, SMap.get_set]

/-- A byte after a write of `n` bytes: little-endian inside the range, as before outside it (R3). -/
theorem State.byte_write (n : Nat) : ∀ (s : State) (key v a : Nat),
    (s.write key n v).byte a =
      if key ≤ a ∧ a < key + n then BitVec.ofNat 8 (v / 256 ^ (a - key)) else s.byte a := by
  induction n with
  | zero =>
    intro s key v a
    simp only [State.write]
    rw [if_neg (by omega)]
  | succ n ih =>
    intro s key v a
    rw [State.write, ih, State.byte_setByte]
    by_cases h : a = key
    · subst h
      rw [if_neg (by omega), if_pos rfl, if_pos (by omega)]
      simp
    · by_cases hr : key + 1 ≤ a ∧ a < key + 1 + n
      · rw [if_pos hr, if_pos (by omega)]
        congr 1
        rw [show a - key = (a - (key + 1)) + 1 by omega, Nat.pow_succ, Nat.mul_comm (256 ^ _), Nat.div_div_eq_div_mul]
      · rw [if_neg hr, if_neg h, if_neg (by omega)]

/-- A byte after a range is zeroed. -/
theorem State.byte_zero (s : State) (key n a : Nat) :
    (s.zero key n).byte a = if key ≤ a ∧ a < key + n then 0 else s.byte a := by
  have h : ∀ m : SMap Byte, SMap.find? (m.clear key n) a =
      if key ≤ a ∧ a < key + n then none else SMap.find? m a := by
    intro m
    induction m with
    | nil => simp [SMap.clear, SMap.find?]
    | cons e m ih =>
      obtain ⟨k, v⟩ := e
      by_cases hk : k < key ∨ key + n ≤ k
      · have : SMap.clear ((k, v) :: m) key n = (k, v) :: SMap.clear m key n := by
          simp [SMap.clear, hk]
        rw [this, SMap.find?, SMap.find?, ih]
        by_cases hx : k = a
        · subst hx
          rw [if_pos rfl, if_pos rfl, if_neg (by omega)]
        · have ha : ¬a = k := fun e => hx e.symm
          simp only [ha, if_false]
      · have : SMap.clear ((k, v) :: m) key n = SMap.clear m key n := by
          simp [SMap.clear, hk]
        rw [this, ih, SMap.find?]
        by_cases hx : k = a
        · subst hx
          rw [if_pos (by omega), if_pos (by omega)]
        · have ha : ¬a = k := fun e => hx e.symm
          simp only [ha, if_false]
  simp only [State.byte, State.zero, SMap.get, h]
  split <;> rfl

/-- What is read after a write to another place. -/
theorem State.read_congr (n : Nat) : ∀ (s t : State) (key : Nat),
    (∀ a, key ≤ a → a < key + n → t.byte a = s.byte a) → t.read key n = s.read key n := by
  induction n with
  | zero => intro s t key _; rfl
  | succ n ih =>
    intro s t key h
    rw [State.read, State.read, h key (by omega) (by omega), ih s t (key + 1) (fun a h1 h2 => h a (by omega) (by omega))]

/-- A read is below the range of its bytes. -/
theorem State.read_lt (n : Nat) : ∀ (s : State) (key : Nat), s.read key n < 256 ^ n := by
  induction n with
  | zero => intro s key; simp [State.read]
  | succ n ih =>
    intro s key
    have h1 := (s.byte key).isLt
    have h2 := ih s (key + 1)
    rw [State.read, Nat.pow_succ]
    omega

/-- A read after a write to the same place (R3). -/
theorem State.read_write (n : Nat) : ∀ (s : State) (key v : Nat),
    (s.write key n v).read key n = v % 256 ^ n := by
  induction n with
  | zero => intro s key v; simp [State.read, Nat.mod_one]
  | succ n ih =>
    intro s key v
    rw [State.write, State.read, ih, State.byte_write, if_neg (by omega), State.byte_setByte, if_pos rfl]
    rw [BitVec.toNat_ofNat, Nat.pow_succ 256, Nat.mul_comm (256 ^ n), Nat.mod_mul]

/-- A read beside a write. -/
theorem State.read_write_ne (s : State) (k1 n1 k2 n2 v : Nat) (h : k1 + n1 ≤ k2 ∨ k2 + n2 ≤ k1) :
    (s.write k2 n2 v).read k1 n1 = s.read k1 n1 := by
  apply State.read_congr
  intro a h1 h2
  rw [State.byte_write, if_neg (by omega)]

/-! ### Doublewords in order -/

theorem State.writeWords_cons (s : State) (key w : Nat) (l : List Nat) :
    s.writeWords key (w :: l) = (s.write key 8 w).writeWords (key + 8) l := by
  conv => lhs; unfold State.writeWords

/-- Bytes beside the doublewords written. -/
theorem State.byte_writeWords (l : List Nat) : ∀ (s : State) (key a : Nat),
    (a < key ∨ key + 8 * l.length ≤ a) → (s.writeWords key l).byte a = s.byte a := by
  induction l with
  | nil => exact fun s key a _ => rfl
  | cons w l ih =>
    refine fun s key a h => ?_
    have hl : (w :: l).length = l.length + 1 := rfl
    rw [State.writeWords_cons, ih _ _ _ (by omega), State.byte_write 8 s key w a, if_neg (by omega)]

/-- The doublewords written. -/
theorem State.read_writeWords (l : List Nat) : ∀ (s : State) (key j w : Nat), l[j]? = some w →
    (s.writeWords key l).read (key + 8 * j) 8 = w % 2 ^ 64 := by
  induction l with
  | nil => exact fun s key j w h => by simp at h
  | cons v l ih =>
    refine fun s key j w h => ?_
    rw [State.writeWords_cons]
    cases j with
    | zero =>
      have hv : v = w := by simpa using h
      subst hv
      have hk : key + 8 * 0 = key := rfl
      rw [hk, State.read_congr 8 (s.write key 8 v) _ key
        (fun a h1 h2 => State.byte_writeWords l _ (key + 8) a (by omega))]
      exact (State.read_write 8 s key v).trans (congrArg (v % ·) (by decide))
    | succ j =>
      have hj : l[j]? = some w := by simpa using h
      rw [show key + 8 * (j + 1) = key + 8 + 8 * j by omega]
      exact ih _ _ _ _ hj

/-! ### The canonical form -/

theorem State.wf_setByte {s : State} (key : Nat) (b : Byte) (h : Memory.wf s.mem = true) :
    Memory.wf (s.setByte key b).mem = true := SMap.wf_set key b h

theorem State.wf_write (n : Nat) : ∀ {s : State} (key v : Nat), Memory.wf s.mem = true →
    Memory.wf (s.write key n v).mem = true := by
  induction n with
  | zero => intro s key v h; exact h
  | succ n ih => intro s key v h; exact ih _ _ (s.wf_setByte key _ h)

theorem State.wf_writeMasked (n : Nat) : ∀ {s : State} (key mask v : Nat), Memory.wf s.mem = true →
    Memory.wf (s.writeMasked key mask n v).mem = true := by
  induction n with
  | zero => intro s key mask v h; exact h
  | succ n ih =>
    intro s key mask v h
    rw [State.writeMasked]
    apply ih
    split
    · exact s.wf_setByte key _ h
    · exact h

theorem State.wf_zero {s : State} (key n : Nat) (h : Memory.wf s.mem = true) :
    Memory.wf (s.zero key n).mem = true := SMap.wf_clear key n h

theorem State.wf_writeBytes (l : List Byte) : ∀ {s : State} (key : Nat), Memory.wf s.mem = true →
    Memory.wf (s.writeBytes key l).mem = true := by
  induction l with
  | nil => intro s key h; exact h
  | cons b l ih => intro s key h; exact ih _ (s.wf_setByte key b h)

theorem State.wf_writeWords (l : List Nat) : ∀ (s : State) (key : Nat), Memory.wf s.mem = true →
    Memory.wf (s.writeWords key l).mem = true := by
  induction l with
  | nil => exact fun s key h => h
  | cons w l ih =>
    refine fun s key h => ?_
    rw [State.writeWords_cons]
    exact ih (s.write key 8 w) (key + 8) (State.wf_write 8 key w h)

theorem State.wf_copyRange {s : State} (src dst n : Nat) (h : Memory.wf s.mem = true) :
    Memory.wf (s.copyRange src dst n).mem = true := by
  have key : ∀ (l : List (Nat × Byte)) (m : SMap Byte), SMap.wf Memory.unlisted m = true →
      SMap.wf Memory.unlisted (l.foldl (fun m (e : Nat × Byte) => SMap.set Memory.unlisted m (e.1 - src + dst) e.2) m) = true := by
    intro l
    induction l with
    | nil => intro m hm; exact hm
    | cons e l ih => intro m hm; exact ih _ (SMap.wf_set _ _ hm)
  exact key _ _ (s.wf_zero dst n h)

/-- A reset keeps the form: what survives is a part of storage. -/
theorem State.wf_afterReset {s : State} (warm : Bool) (h : Memory.wf s.mem = true) :
    Memory.wf (s.afterReset warm).mem = true := by
  cases warm
  · simp only [State.afterReset, Bool.false_eq_true, if_false]
    exact SMap.wf_filter _ h
  · simp only [State.afterReset, if_true]
    exact h

theorem State.wf_reset : Memory.wf State.reset.mem = true := rfl

end Sys2Proof.Machine
end

