-- ==== Sys2Proof/Tests/Slice0.lean ====
section
/-! SUPPORT. Tests: ill-formed terms that WellFormed refuses, the spec's worked encodings, single steps
with results worked out from the spec, and a state that meets the hypotheses of each statement. -/

namespace Sys2Proof.Tests

set_option Elab.async false

open Sys2Proof Sys2Proof.Machine

/-! ### States -/

/-- No schedule, and group 0 about to issue. -/
def at0 (s : State) : State := { s with agenda := [], issuer := some (⟨0, 0, 0⟩, 0) }

/-- One group of one thread. -/
def one : State := at0 (State.reset.placeWords 0)

def grp (s : State) : Group := (s.group? ⟨0, 0, 0⟩).getD fetchGroup

def pth (s : State) : Path := ((grp s).path? 0).getD ⟨0, 0, 0, [], .slot 0, 0, none, [], [], false, none, false, none⟩

def onG (f : Group → Group) (s : State) : State := s.modGroup ⟨0, 0, 0⟩ f

def onP (f : Path → Path) (s : State) : State := onG (fun g => { g with paths := g.paths.map f }) s

def onC (f : Ctx → Ctx) (s : State) : State := s.modCtx 0 f

def onL (f : Launch → Launch) (s : State) : State := s.modLaunch 0 f

/-- Group-wide registers by number. -/
def regs (xs : List (Nat × Word)) (s : State) : State :=
  onG (fun g => xs.foldl (fun h x => h.setReg (192 + x.1) 0 x.2) g) s

/-- Vector registers by number and lane. -/
def vregs (xs : List (Nat × Nat × Word)) (s : State) : State :=
  onG (fun g => xs.foldl (fun h x => h.setReg x.1 x.2.1 x.2.2) g) s

/-- All 32 lanes on one path. -/
def full (s : State) : State :=
  onG (fun g => { g with threads := (List.range 32).map (fun l => (l, { wid := l, home := 0, team := 0, homeCore := 0, tkey := 0, src := 0, rank := 0, arrivals := 0 })) })
    (onP (fun p => { p with mask := allLanes }) s)

/-- Two paths of half the lanes, one in each path slot. -/
def two (s : State) : State :=
  onG (fun g => { g with paths := g.paths.map (fun p => { p with mask := 0xFFFF }) ++ g.paths.map (fun p => { p with id := 1, mask := 0xFFFF0000, place := .slot 1 }), nextPath := 2 }) (full s)

def gq : Guard := ⟨true, false, 7⟩
def gp : Guard := ⟨false, false, 7⟩
/-- A group guard that is false while q0 is. -/
def gn : Guard := ⟨true, false, 0⟩

/-- Instruction `i` is ready to issue from path 0 of group 0. -/
def ready (s : State) (i : Instr) : Bool :=
  i.wf && decide (s.issuer = some ((grp s).id, (pth s).id)) && decide (s.group? (grp s).id = some (grp s)) &&
    decide ((grp s).path? (pth s).id = some (pth s)) && decide (s.gate (grp s) (pth s) i = .pass)

theorem ready_iff (s : State) (i : Instr) : ready s i = true ↔ Ready s i (grp s) (pth s) := by
  simp only [ready, Bool.and_eq_true, decide_eq_true_eq]
  exact ⟨fun h => ⟨h.1.1.1.1, h.1.1.1.2, h.1.1.2, h.1.2, h.2⟩, fun h => ⟨⟨⟨⟨h.wf, h.issuer⟩, h.group⟩, h.path⟩, h.gate⟩⟩

def next (r : Host.Outcome State Fault Refusal) : State :=
  match r with
  | .next t => t
  | _ => State.reset

/-- Group 0 after an instruction. -/
def after (i : Instr) (s : State) : Group := grp (next (exec i s))

/-- The pieces of an access whose checks pass, for `Granted`. -/
def pieces (s : State) (w : Want) (c : Bool) (ls : List (Nat × Loc)) : List (Nat × Piece) :=
  match s.begun.access (grp s) (pth s) w c ls with
  | .ok ps => if decide ((grp s).flights = []) && decide (s.cong.mode ≠ 1) &&
      s.begun.windowHeld (grp s) (pth s) w ls == false then ps else []
  | _ => []

theorem pieces_granted {s : State} {w : Want} {c : Bool} {ls : List (Nat × Loc)} (h : pieces s w c ls ≠ []) :
    Granted s (grp s) (pth s) w c ls (pieces s w c ls) := by
  have e : ∃ ps, s.begun.access (grp s) (pth s) w c ls = .ok ps ∧ (grp s).flights = [] ∧ s.cong.mode ≠ 1 ∧
      s.begun.windowHeld (grp s) (pth s) w ls = false ∧ pieces s w c ls = ps := by
    unfold pieces at h ⊢
    split at h
    · next ps hp =>
      split at h
      · next hc =>
        simp only [Bool.and_eq_true, decide_eq_true_eq, beq_iff_eq] at hc
        exact ⟨ps, hp, hc.1.1, hc.1.2, hc.2, if_pos (by simpa using hc)⟩
      · exact absurd rfl h
    · exact absurd rfl h
  obtain ⟨ps, h1, h2, h3, h4, h5⟩ := e
  rw [h5]
  exact ⟨h1, fun k => by simp [Group.count, h2], h3, h4⟩

/-! ### Ill-formed terms: each breaks one check of WellFormed -/

def aluG : AluForm := ⟨true, gq, .s32, false, .s 4, .s 5, .reg (.s 6)⟩
def aluV : AluForm := ⟨false, gp, .s32, false, .v 6, .v 2, .reg (.v 3)⟩
def memV : Addr := ⟨some (.s 0), some (.v 2), none⟩
def mmaF : MmaForm := ⟨gq, 0, .c, .c, false, false, false, 8, 9, 12, .dense 4, 8, 0⟩

/-- The operand checks: files and pairs of R130 and R102, guards of R132, saturation and types of R172, and
immediates of R170. -/
theorem ill_operands : ([.add { aluV with d := .s 4 }, .add { aluG with d := .v 4 }, .add { aluG with a := .v 2 },
    .add { aluV with ty := .s64, d := .v 5 }, .add { aluV with ty := .s64, a := .v 3 }, .add { aluV with ty := .s64, b := .reg (.s 3) },
    .add { aluG with gd := gp }, .div ⟨gq, 0, .s32, .v 1, .v 2, .reg (.v 3)⟩, .add { aluV with sat := true, ty := .b32 },
    .mul { aluV with sat := true }, .add { aluV with ty := .s8, b := .imm 0x80 }, .add { aluV with ty := .n8, b := .imm 0x100 },
    .and aluV, .not ⟨false, gp, .s32, false, .v 1, .v 2⟩, .abs ⟨false, gp, .n32, false, .v 1, .v 2⟩, .shl aluV, .sar { aluV with ty := .b32 },
    .shl { aluV with ty := .b32, b := .imm 256 }, .bfe { aluV with ty := .b32 }, .bfi ⟨false, gp, .b8, false, .v 1, .v 2, .v 3, .imm 0⟩,
    .mad ⟨false, gp, .b32, true, .v 1, .v 2, .v 3, .imm 0⟩, .clz ⟨false, gp, .s32, false, .v 1, .v 2⟩,
    .addc ⟨false, gp, .s32, .v 1, .v 2, .v 3, 0⟩, .div ⟨gp, 0, .s16, .v 1, .v 2, .imm 1⟩, .fadd ⟨gp, .bf16, .v 1, .v 2, .imm 0x10000⟩,
    .fcmp ⟨gp, .bf16x2, .eq, 0, .v 1, .imm 0⟩, .dot2 ⟨gp, .f32, .v 1, .v 2, .v 3, .v 4⟩, .cvt ⟨gp, .int .b32, .flt .f32, false, false, .v 1, .v 2⟩,
    .cvt ⟨gp, .flt .f32, .int .s32, false, true, .v 1, .v 2⟩, .cvt ⟨gp, .flt .none, .int .s32, false, false, .v 1, .v 2⟩,
    .prmb ⟨gp, .v 1, .v 2, none, .imm 0x10000⟩, .shfl ⟨gp, false, .idx, .v 1, .v 2, .imm 32⟩, .lred ⟨gp, 0, .s32, .add, true, .v 1, .v 2⟩,
    .topk ⟨gp, 0, .s32, false, false, 33, .v 1, .v 2⟩, .topk ⟨gp, 0, .s64, false, false, 1, .v 2, .v 2⟩, .padWord 2,
    .getsr ⟨true, gq, .lane, .s 1⟩, .getsr ⟨false, gp, .wid, .v 1⟩, .rinfo ⟨true, gq, .tkey, .s 1⟩] : List Instr).all (fun i => !i.wf) = true := by
  decide +kernel

/-- Control and group-wide instructions act under a q guard and name pairs by their even register (R102, R132). -/
theorem ill_group : ([.br gp 4, .call gp 4, .ret gp, .halt gp, .yield gp, .jmpi gq 3, .callReg gq 5, .setsr gq 1, .setq gp 0 0, .qand gp 0 1 2,
    .vote gp (.any 0 0), .bcast gq true 3 4 none, .bcastImm gq true 4 5 0, .actm gp 0, .cellInit ⟨gp, false, 0, 1, 2⟩,
    .cellWait ⟨gq, false, false, false, 0, some 3⟩, .cellTest ⟨gq, false, false, 0, 0, some 1⟩, .cellArm ⟨gp, false, false, 0⟩, .waitc gp 0 (.imm 0),
    .launch ⟨gq, false, 0, 5, none⟩, .tlsig ⟨gq, false, false, 1, 2⟩, .tlwait ⟨gq, false, false, 0, 2, 3⟩, .tlwaitExt ⟨gq, false, 0, 2, 4, 0⟩,
    .mwaitrExt gq 0 0 0, .trace gq 3, .traceImm gp 0, .mark gp 0, .bindw ⟨gq, 0, .e4, 1, 2, 4⟩, .unbindw gp 0, .talloc gp 0 0 0,
    .qpop gp 0 0, .msend ⟨gp, false, .minimal, 0, 0, 0, 0⟩, .mrecv ⟨gp, false, 0, 0, 0, 0, 0⟩, .mprobe ⟨gp, 0, 0, 0⟩] : List Instr).all
    (fun i => !i.wf) = true := by decide +kernel

/-- Memory, copy, atomic and matrix forms (R196 to R247, R319, R405). -/
theorem ill_memory : ([.ld ⟨false, gp, 0, true, .b32, .g, .v 4, memV⟩, .ld ⟨false, gp, 0, false, .b32, .g, .v 4, ⟨some (.s 1), none, none⟩⟩,
    .ld ⟨true, gq, 0, false, .b32, .p, .s 4, ⟨some (.s 1), none, none⟩⟩, .st ⟨false, gp, .b64, .g, .v 5, memV⟩, .ldv ⟨gp, 0, false, .w16, .g, .v 2, memV⟩,
    .stv ⟨gp, .w64, .g, .s 0, memV⟩, .cpa ⟨gp, .e4, .p, .g, false, .v 0, .v 2, 0⟩, .cpa ⟨gp, .e4, .c, .g, false, .v 0, .v 3, 0⟩,
    .atom ⟨false, gp, 0, .addF32, false, false, .v 1, .v 2, .v 3, none, none⟩, .atom ⟨false, gp, 0, .cas, false, false, .v 1, .v 2, .v 3, none, none⟩,
    .red ⟨false, gp, .exch, false, false, .v 2, .v 3, none⟩, .red ⟨false, gp, .addF32, true, false, .v 2, .v 4, none⟩,
    .ldr ⟨false, gp, 0, true, false, .v 1, .v 2, none⟩, .stc ⟨false, gp, 0, false, false, .s 1, .v 2, .v 3, none⟩, .prefetch ⟨false, false, 7⟩ ⟨some (.v 3), none, none⟩,
    .bcomp ⟨gp, .h, .c, false, 0, 1, 2, 0, false, false, 0⟩, .bcomp ⟨gp, .c, .g, false, 1, 2, 3, 0, false, false, 0⟩, .mres gq 0, .mrel gp 1, .mzero gp 0,
    .mma { mmaF with gd := gp }, .mma { mmaF with ca := true }, .mma { mmaF with c := 13 }, .mma { mmaF with var := .gather 4 3 },
    .mqinit ⟨gp, false, 0, 0, 0⟩, .mdrain ⟨gq, .f32, true, .g, 0, 2, 0⟩, .mdrain ⟨gq, .f32, false, .p, 0, 2, 0⟩, .mdrain ⟨gq, .none, false, .c, 0, 2, 0⟩,
    .mload ⟨gq, .s8, .c, 0, 0, 2⟩, .mload ⟨gq, .f32, .g, 0, 1, 2⟩, .mload ⟨gp, .f32, .c, 0, 0, 2⟩,
    .ratom ⟨false, gp, 0, .cas, false, some (.v 1), 0, .v 2, 2⟩, .ratom ⟨false, gp, 0, .add, true, some (.v 2), 0, .v 3, 3⟩,
    .ratomCas ⟨false, gp, 0, false, none, 0, .v 2, 3, 4⟩, .ratom ⟨false, gp, 1, .add, false, none, 0, .v 2, 2⟩] : List Instr).all (fun i => !i.wf) = true := by
  decide +kernel

/-! ### Worked encodings of the spec -/

/-- The words of chapter 06 and those that it calls illegal. -/
theorem test_decode_encoding : decodeTableWord 64 0x0060003020670200 = some (.add aluV) ∧
    decodeTableWord 64 0x00600C5020670200 = some (.add { aluV with b := .reg (.s 5) }) ∧
    decodeTableWord 64 0x00600060504A0204 = some (.add { aluG with gd := ⟨true, true, 2⟩ }) ∧
    decodeTableWord 64 0x0060003020670204 = some (.add ⟨true, gq, .s32, false, .s 6, .s 2, .reg (.s 3)⟩) ∧
    decodeTableWord 64 0x0410000080971650 = some (.rcp ⟨gp, 1, .f32, .v 9, .v 8⟩) ∧
    [0x0060003020671200, 0x0060043020670204, 0x00600030206702E0, 0, 0x8000000080971650].map (decodeTableWord 64) =
      [none, none, none, none, none] := by decide +kernel

/-- The bytes of the first word of chapter 06, in memory order. -/
theorem test_decode_bytes : (match decode [0x00, 0x02, 0x67, 0x20, 0x30, 0x00, 0x60, 0x00] with
    | .ok i => decide (i = .add aluV)
    | .error _ => false) = true := by decide +kernel

/-- Control and vector words of chapters 07, 08 and 24. -/
theorem test_decode_vector : decodeTableWord 96 (0x80 * 2 ^ 64 + 0x10039) = some (.brd ⟨false, false, 1⟩ 0 0x80) ∧
    decodeTableWord 64 0x0010000000070014 = some (.rcv 1) ∧
    decodeTableWord 96 (0xBA98 * 2 ^ 64 + 0x0120000040570801) = some (.prmb ⟨gp, .v 5, .v 4, none, .imm 0xBA98⟩) ∧
    decodeTableWord 64 0x1544100020370700 = some (.cvt ⟨gp, .flt (.b8 false false 3), .flt .f32, true, false, .v 3, .v 2⟩) ∧
    decodeTableWord 96 (8 * 2 ^ 64 + 0x0410000070871821) = some (.topk ⟨gp, 1, .f32, false, false, 8, .v 8, .v 7⟩) := by decide +kernel

/-- Memory words of chapters 09, 23, 24 and 25. -/
theorem test_decode_memory : decodeTableWord 64 0x0100002C00470A00 = some (.ld ⟨false, gp, 0, false, .b32, .g, .v 4, memV⟩) ∧
    decodeTableWord 64 0x0950006CE2870A00 = some (.ld ⟨false, gp, 0, true, .b32, .h, .v 40, ⟨some (.s 14), some (.v 6), none⟩⟩) ∧
    decodeTableWord 64 0x1110200C80070A08 = some (.st ⟨false, gp, .b32, .p, .v 2, ⟨some (.s 8), none, none⟩⟩) ∧
    decodeTableWord 64 0x1110000050670A00 = some (.ld ⟨false, gp, 0, false, .b32, .p, .v 6, ⟨some (.v 5), none, none⟩⟩) ∧
    decodeTableWord 64 0x00A0018100070A3C = some (.cellWait ⟨gq, false, false, false, 16, some 24⟩) := by decide +kernel

/-- Matrix words of chapters 10 and 23. -/
theorem test_decode_matrix : decodeTableWord 128 (7 * 2 ^ 64 + 0x0040C09080170D1E) =
      some (.mma ⟨gq, 1, .k, .c, false, false, false, 8, 9, 12, .dense 0, 0, 7⟩) ∧
    decodeTableWord 128 (0x207 * 2 ^ 64 + 0x041181D1C0070D1E) =
      some (.mma ⟨gq, 0, .c, .c, true, false, false, 28, 29, 24, .gather 0 8, 0, 7⟩) ∧
    decodeTableWord 64 0x5010011100070D2C = some (.mdrain ⟨gq, .f32, false, .h, 16, 17, 0⟩) := by decide +kernel

/-- Queue, launch, reorder, barrier and tile words of chapters 12, 13, 15, 16, 17 and 22. -/
theorem test_decode_group : decodeTableWord 64 0x0010006040070F8C = some (.tlsig ⟨gq, true, false, 4, 6⟩) ∧
    decodeTableWord 96 (500 * 2 ^ 64 + 0x0020006040170F95) = some (.tlwaitExt ⟨gq, false, 1, 4, 6, 500⟩) ∧
    decodeTableWord 64 0x0000006040070F84 = some (.launch ⟨gq, false, 4, 6, none⟩) ∧
    decodeTableWord 96 (0x01000003 * 2 ^ 64 + 0x0010000140070EB9) = some (.reorder ⟨.v 20, true, false, 3, 1⟩) ∧
    decodeTableWord 64 0x0010000001470EC4 = some (.rinfo ⟨true, gq, .count, .s 20⟩) ∧
    decodeTableWord 64 0x0020000000070ED8 = some (.barSync ⟨gp, 2, false, none⟩) ∧
    decodeTableWord 64 0x03100CA000070EC8 = some (.barArrive ⟨gp, 1, true, some 10⟩) ∧
    decodeTableWord 96 (2 * 2 ^ 64 + 0x0030000000870E85) = some (.tallocImm gq 3 8 2) ∧
    decodeTableWord 64 0x0010000080070E9C = some (.qpush gq 1 8) ∧ decodeTableWord 64 0x0010000000970EA4 = some (.qpop gq 1 9) := by
  decide +kernel

/-- Window, message and trace words of chapters 18, 19, 20, 24 and 26. -/
theorem test_decode_system : decodeTableWord 64 0x0030E0C0A0070FD4 = some (.bindw ⟨gq, 3, .e4, 10, 12, 14⟩) ∧
    decodeTableWord 64 0x0800C06040070FD4 = some (.bindw ⟨gq, 0, .e16, 4, 6, 12⟩) ∧
    decodeTableWord 96 (7 * 2 ^ 64 + 0x0050605040070F9D) = some (.msend ⟨gq, true, .plus, 4, 5, 6, 7⟩) ∧
    decodeTableWord 96 (0x26 * 2 ^ 64 + 0x0040907050070F9D) = some (.msend ⟨gq, false, .plus, 5, 7, 9, 0x26⟩) ∧
    decodeTableWord 96 (0x26 * 2 ^ 64 + 0x0000908060A70FA5) = some (.mrecv ⟨gq, false, 10, 6, 8, 9, 0x26⟩) ∧
    decodeTableWord 64 0x00000000A0B70FB4 = some (.mwaitr gq false 11 10) ∧
    decodeTableWord 64 0x0000000040070FBC = some (.trace gq 4) ∧ decodeTableWord 96 (0x25 * 2 ^ 64 + 0x0000000000070FC5) = some (.mark gq 37) ∧
    decodeTableWord 96 (0x21 * 2 ^ 64 + 0x0000000060070FCD) = some (.evt gq 0x21 6) := by decide +kernel

/-! ### Single steps -/

/-- R173, R176: a sum wraps at 32 bits and saturates where asked; the 64-bit subtraction of chapter 08. -/
theorem test_add_wraps : (after (.add aluV) (vregs [(2, 0, 0x7FFFFFFF), (3, 0, 1)] one)).reg 6 0 = 0x80000000 ∧
    (after (.add { aluV with sat := true }) (vregs [(2, 0, 0x7FFFFFFF), (3, 0, 1)] one)).reg 6 0 = 0x7FFFFFFF := by decide +kernel

theorem test_subc_borrows : let g := after (.subc ⟨false, gp, .n32, .v 4, .v 0, .v 2, 0⟩) (vregs [(0, 0, 0xFFFFFFFF), (1, 0, 1), (2, 0, 1)] one)
    g.reg 4 0 = 0xFFFFFFFE ∧ (g.pred 0).getLsbD 0 = false ∧
    (after (.subc ⟨false, gp, .n32, .v 5, .v 0, .v 2, 0⟩) (vregs [(2, 0, 1)] one)).pred 0 = 1 := by decide +kernel

/-- R175: division by zero gives all ones, a remainder its dividend; quotients go toward zero. -/
theorem test_div_corners : (after (.div ⟨gp, 0, .s32, .v 6, .v 2, .reg (.v 3)⟩) (vregs [(2, 0, 7)] one)).reg 6 0 = 0xFFFFFFFF ∧
    (after (.rem ⟨gp, 0, .s32, .v 6, .v 2, .reg (.v 3)⟩) (vregs [(2, 0, 7)] one)).reg 6 0 = 7 ∧
    (after (.div ⟨gp, 0, .s32, .v 6, .v 2, .reg (.v 3)⟩) (vregs [(2, 0, 0xFFFFFFF9), (3, 0, 2)] one)).reg 6 0 = 0xFFFFFFFD := by decide +kernel

/-- Chapter 08: `rcp` of 3.0 in f32 and bf16. -/
theorem test_rcp_three : (after (.rcp ⟨gp, 0, .f32, .v 6, .v 2⟩) (vregs [(2, 0, 0x40400000)] one)).reg 6 0 = 0x3EAAAAAB ∧
    (after (.rcp ⟨gp, 0, .bf16, .v 6, .v 2⟩) (vregs [(2, 0, 0x4040)] one)).reg 6 0 = 0x3EAB := by decide +kernel

/-- Chapter 08: `cvt.b8p4s.f32.sat` of 13.5 and −250.0, and −250.0 without .sat. -/
theorem test_cvt_rounds :
    (after (.cvt ⟨gp, .flt (.b8 false false 3), .flt .f32, true, false, .v 3, .v 2⟩) (vregs [(2, 0, 0x41580000)] one)).reg 3 0 = 0x5E ∧
    (after (.cvt ⟨gp, .flt (.b8 false false 3), .flt .f32, true, false, .v 3, .v 2⟩) (vregs [(2, 0, 0xC37A0000)] one)).reg 3 0 = 0xFF ∧
    (after (.cvt ⟨gp, .flt (.b8 false false 3), .flt .f32, false, false, .v 3, .v 2⟩) (vregs [(2, 0, 0xC37A0000)] one)).reg 3 0 = 0x80 := by
  decide +kernel

/-- Chapter 08: the unpacking of eight s4 elements. -/
theorem test_prmb_nibbles :
    (after (.prmb ⟨gp, .v 5, .v 4, none, .imm 0xBA98⟩) (vregs [(4, 0, 0x7A31F80C)] one)).reg 5 0 = 0xFFF800FC ∧
    (after (.prmb ⟨gp, .v 6, .v 4, none, .imm 0xFEDC⟩) (vregs [(4, 0, 0x7A31F80C)] one)).reg 6 0 = 0x07FA0301 := by decide +kernel

/-- Chapter 08: lanes 0 to 7 hold 3.0, −1.0, 7.5, 3.0, NaN, 0.5, 7.5 and 2.0. -/
def keys8 : State := onP (fun p => { p with mask := 0xFF }) (vregs [(4, 0, 0x40400000), (4, 1, 0xBF800000), (4, 2, 0x40F00000), (4, 3, 0x40400000),
  (4, 4, 0x7FC00000), (4, 5, 0x3F000000), (4, 6, 0x40F00000), (4, 7, 0x40000000)] (full one))

theorem test_topk_three : (List.range 8).map ((after (.topk ⟨gp, 0, .f32, false, false, 3, .v 6, .v 4⟩) keys8).reg 6) =
      [2, 6, 0, 0xFFFFFFFF, 0xFFFFFFFF, 0xFFFFFFFF, 0xFFFFFFFF, 0xFFFFFFFF] ∧
    (List.range 8).map ((after (.topk ⟨gp, 0, .f32, false, true, 3, .v 7, .v 4⟩) keys8).reg 7) =
      [2, 0xFFFFFFFF, 0, 0xFFFFFFFF, 0xFFFFFFFF, 0xFFFFFFFF, 1, 0xFFFFFFFF] := by decide +kernel

theorem test_lred_max : (List.range 8).map ((after (.lred ⟨gp, 0, .f32, .max, false, .v 8, .v 4⟩) keys8).reg 8) = List.replicate 8 0x40F00000 := by
  decide +kernel

/-- R179: shifts by the width give 0, or every bit the sign. -/
theorem test_shift_width : (after (.shl { aluV with ty := .b32, b := .imm 32 }) (vregs [(2, 0, 1)] one)).reg 6 0 = 0 ∧
    (after (.sar { aluV with b := .imm 255 }) (vregs [(2, 0, 0x80000000)] one)).reg 6 0 = 0xFFFFFFFF := by decide +kernel

/-- R103: q7 reads true whatever is written. -/
theorem test_q7_reads_true : (after (.setq gq 7 0) one).qpred 7 = true ∧ (after (.setq gq 1 0) (regs [(0, 5)] one)).qpred 1 = true := by
  decide +kernel

/-- R150: the chapter 07 branch splits a path between both slots, and the token expects its lanes. -/
theorem test_brd_splits : let g := after (.brd ⟨false, false, 1⟩ 0 0x80) (onG (fun g => { g with p := [(1, 0xFF)] }) (full one))
    g.paths.map (fun p => (p.pc, p.mask, p.place)) = [(0x100C, 0xFFFFFF00, .slot 0), (0x1080, 0xFF, .slot 1)] ∧
      SMap.get 0 g.tokE 0 = 0xFFFFFFFF := by decide +kernel

/-- R149: `call` pushes the address after itself. -/
theorem test_call_pushes : (pth (next (exec (.call gq 0x100) one))).pc = 0x1100 ∧
    (pth (next (exec (.call gq 0x100) one))).stack = [0x100C] := by decide +kernel

/-- R198, R70: a load leaves its destination alone until it is delivered, and counts on path 0. -/
theorem test_ld_counts : let g := after (.ld ⟨false, gp, 0, false, .b32, .g, .v 4, ⟨some (.s 0), none, none⟩⟩) (regs [(0, 0x1000)] one)
    g.count 0 = 1 ∧ g.reg 4 0 = 0 := by decide +kernel

/-- R196, R260, R263: a misaligned word ends the context at the end of the clock, with LASTCODE 0x22. -/
theorem test_ld_misaligned : ((next (exec (.ld ⟨false, gp, 0, false, .b32, .g, .v 4, ⟨some (.s 0), none, none⟩⟩)
    (regs [(0, 0x1002)] one))).takeFatal.ctx? 0).map (fun x => (x.st, x.lastcode)) = some (.killing, 0x22) := by decide +kernel

/-- R352, R359: `talloc` takes tile 0 with the reads given. -/
theorem test_talloc_takes : ((next (exec (.tallocImm gq 0 8 2) one)).crews.map (fun c => c.parts.map (fun x => (x.heldn, (x.tile 0).count)))) =
    [[(1, 2)]] := by decide +kernel

/-- A step runs the placed word of chapter 06. -/
theorem test_step_adds : (pth (next (step (State.reset.withFetchWord 64 0x0060003020670200)))).pc = 0x1008 := by decide +kernel

/-! ### For each statement, a state and operands that meet the hypotheses of its clauses

`ready s i` is `Ready s i (grp s) (pth s)` (ready_iff); the other conjuncts are the clause's own. -/

def carryF : CarryForm := ⟨false, gp, .n32, .v 5, .v 1, .v 3, 0⟩
def unV (t : IType) : UnForm := ⟨false, gp, t, false, .v 190, .v 188⟩
def unG (t : IType) : UnForm := ⟨true, gn, t, false, .s 62, .s 62⟩
def fV (f : FFmt) : FAluForm := ⟨gp, f, .v 191, .v 0, .reg (.s 63)⟩
def fUn (f : FFmt) : FUnForm := ⟨gp, f, .v 191, .v 0⟩
def longF : FLongForm := ⟨gp, 15, .bf16x2, .v 191, .v 0⟩

theorem witness_IntegerResults : ([Instr.add, .sub, .mul, .mulhi, .min, .max].all (fun c =>
      ready one (c aluV) && ready one (c aluG) && ready one (c { aluV with ty := .n64, d := .v 190, a := .v 0, b := .reg (.v 2) })) &&
    [Instr.and, .or, .xor, .andn].all (fun c => ready one (c { aluV with ty := .b32 }) && ready one (c { aluG with gd := gn, ty := .b8 }))) = true := by
  decide +kernel

theorem witness_ShiftUnaryAndTernaryResults : ([Instr.shl, .shr, .rot].all (fun c => ready one (c { aluV with ty := .b32, b := .imm 255 })) &&
    ready one (.sar { aluG with ty := .s64, a := .s 6, b := .imm 64 }) && ready one (.bfe aluV) && [Instr.abs, .neg].all (fun c => ready one (c (unV .s64)) && ready one (c (unG .s8))) &&
    [Instr.not, .bcnt, .clz, .brev].all (fun c => ready one (c (unV .b64)) && ready one (c (unG .b32))) &&
    ready one (.mad ⟨true, gq, .s32, true, .s 0, .s 1, .s 2, .imm 0xFFFFFFFF⟩) && ready one (.bfi ⟨false, gp, .b64, false, .v 0, .v 2, .s 4, .imm 0xFFFF⟩)) = true := by
  decide +kernel

theorem witness_CarryResults : ([Instr.addc, .subc].all (fun c => ready one (c carryF) && ready one (c { carryF with c := 7 }) &&
    ready one (c { carryF with g := true, gd := gq, d := .s 4, a := .s 5, b := .s 6 }) &&
    ready one (c { carryF with g := true, gd := gn, d := .s 4, a := .s 5, b := .s 6 }))) = true := by decide +kernel

theorem witness_ComparisonResults : ([ICond.eq, .ne, .lt, .le, .gt, .ge].all (fun c => ready one (.cmp ⟨false, gp, .s64, c, 7, .v 0, .imm 5⟩) &&
      ready one (.cmp ⟨true, gq, .n32, c, 0, .s 0, .reg (.s 1)⟩)) &&
    [FCond.eq, .ne, .lt, .le, .gt, .ge, .un, .ord].all (fun c => ready one (.fcmp ⟨gp, .f16, c, 0, .v 0, .imm 0x7E00⟩))) = true := by decide +kernel

theorem witness_LongLatencyResults : ([Instr.div, .rem].all (fun c => ready one (c ⟨gp, 0, .s32, .v 1, .v 2, .imm 0⟩) && ready one (c ⟨gp, 15, .n64, .v 0, .v 2, .reg (.s 4)⟩)) &&
    ready keys8 (.lred ⟨gp, 0, .f32, .max, false, .v 8, .v 4⟩) && ready keys8 (.lscan ⟨gp, 0, .s64, .add, true, .v 8, .v 4⟩) &&
    ready keys8 (.topk ⟨gp, 0, .f32, true, true, 32, .v 8, .v 4⟩)) = true := by decide +kernel

theorem witness_FloatingResults : ([Instr.fadd, .fsub, .fmul, .fmin, .fmax].all (fun c => ready one (c (fV .f32)) && ready one (c { fV .bf16x2 with b := .imm 0xFFFFFFFF })) &&
    ready one (.fma ⟨gp, .f16, .v 0, .v 1, .s 2, .imm 0xFFFF⟩) && [Instr.fabs, .fneg, .fclass].all (fun c => ready one (c (fUn .f16x2))) &&
    ready one (.dot2 ⟨gp, .bf16x2, .v 0, .v 1, .v 2, .v 3⟩)) = true := by decide +kernel

theorem witness_FunctionResults : ([Instr.rcp, .rsqrt, .sqrt, .exp2, .log2, .sinpi, .tanh].all (fun c => ready one (c longF))) = true := by
  decide +kernel

theorem witness_ConversionAndExchangeResults : (ready one (.cvt ⟨gp, .int .s64, .flt .f32, true, true, .v 190, .v 1⟩) &&
    ready one (.cvt ⟨gp, .flt (.b8 true true 6), .int .n8, false, false, .v 0, .v 1⟩) && ready one (.prmb ⟨gp, .v 5, .v 4, some (.v 3), .reg (.v 2)⟩) &&
    ready one (.prmb ⟨gp, .v 5, .v 4, none, .imm 0xBA98⟩) &&
    [ShflMode.idx, .up, .down, .xor].all (fun m => ready (full one) (.shfl ⟨gp, true, m, .v 4, .v 2, .imm 31⟩))) = true := by decide +kernel

theorem witness_MoveResults : ([(false, gp, Reg.v 0, Reg.v 2), (true, gn, .s 62, .s 0)].all (fun x =>
    ready one (.mov ⟨x.1, x.2.1, true, x.2.2.1, x.2.2.2⟩) && ready one (.movi32 ⟨x.1, x.2.1, x.2.2.1, 0xFFFFFFFF⟩) &&
    ready one (.movi64 ⟨x.1, x.2.1, x.2.2.1, 0⟩) && ready one (.sel ⟨x.1, x.2.1, false, x.2.2.1, x.2.2.2, x.2.2.2, 7⟩) &&
    ready one (.getsr ⟨x.1, x.2.1, .pathcnt, x.2.2.1⟩) && ready one (.getsr ⟨x.1, x.2.1, .stall 15, x.2.2.1⟩) &&
    ready one (.rinfo ⟨x.1, x.2.1, .key, x.2.2.1⟩))) = true := by decide +kernel

theorem witness_GroupWideResults : ([gq, gn].all (fun gd => ready one (.setq gd 7 0) && ready one (.qand gd 0 1 2) && ready one (.qor gd 0 1 7) &&
    ready one (.qnot gd 0 0) && ready one (.vote gd (.ballot 0 7)) && ready one (.vote gd (.any 0 1)) && ready one (.vote gd (.all 0 1)) &&
    ready one (.vote gd (.eq 0 191)) && ready one (.bcast gd true 0 2 (some 63)) && ready one (.bcast gd false 1 3 none) &&
    ready one (.bcastImm gd true 62 190 31) && ready one (.actm gd 63) && ready one (.popc gd 0 1) && ready one (.ffs gd 0 1))) = true := by decide +kernel

/-- A path whose return stack holds `n` entries. -/
def deep (n : Nat) : State := onP (fun p => { p with stack := List.replicate n 0x1010 }) one

theorem witness_Transfers : ([gq, gn].all (fun gd => ready one (.br gd 0xFFFFFFFC) && ready (regs [(0, 0x2000)] one) (.jmpi gd 0) &&
      ready (deep 255) (.call gd 4) && ready (regs [(62, 0x2000)] (deep 255)) (.callReg gd 62) && ready (deep 1) (.ret gd) &&
      ready (regs [(0, 0x2002)] one) (.jmpi gd 0)) && ready (regs [(62, 0x2002)] one) (.callReg gn 62) &&
    ready one (.ret gq) && decide ((pth one).stack = [] ∧ (grp one).phase = .live ∧ (grp one).tokE = [] ∧ (grp one).frame = none ∧ one.marks (grp one) = []) &&
    ready one (.br gn 2) && ready (deep 256) (.call gq 8) && ready one (.call gn 2) && ready (regs [(62, 0x2002)] (deep 256)) (.callReg gq 62) &&
    ready (regs [(62, 0x2000)] (deep 256)) (.callReg gq 62)) = true := by decide +kernel

/-- p1 is `m`. -/
def p1 (m : Mask) (s : State) : State := onG (fun g => { g with p := if m = 0 then [] else [(1, m)] }) s

def toks (e w : Mask) (s : State) : State := onG (fun g => { g with tokE := [(2, e)], tokW := if w = 0 then [] else [(2, w)] }) s

/-- Path 1 parked at token 2. -/
def parked2 (s : State) : State :=
  onG (fun g => { g with paths := g.paths.map (fun p => if p.id = 1 then { p with place := .queued 0 false, park := some (.rcv 2) } else p) }) s

theorem witness_DivergenceAndReconvergence : (let i := Instr.brd ⟨false, false, 1⟩ 2 0x80
    ready (full one) (.brd gp 2 2) && ready (full one) i && ready (p1 allLanes (full one)) i && ready (p1 1 (full one)) i && decide ((grp (full one)).slotPath? 1 = none) &&
      ready (p1 1 (two one)) i && ((grp (two one)).slotPath? 1).isSome &&
    ready (full one) (.rcv 2) && ready (toks allLanes 0 (two one)) (.rcv 2) && ready (toks allLanes 0xFFFF0000 (parked2 (two one))) (.rcv 2) &&
      decide (∀ q ∈ (grp (parked2 (two one))).paths, q.park = some (.rcv 2) → q.stack = (pth (parked2 (two one))).stack) &&
    ready (toks 0xFF 0 (two one)) (.rcv 2) && decide ((pth (two one)).mask &&& ~~~0xFF ≠ 0) &&
    (let s := onP (fun p => if p.id = 1 then { p with stack := [0x1010] } else p) (parked2 (two one))
     ready (toks allLanes 0xFFFF0000 s) (.rcv 2) && (grp s).paths.any (fun q => q.park == some (.rcv 2) && q.stack != (pth s).stack))) = true := by
  decide +kernel

theorem witness_ExitEndsLanes : ([one, full one].all (fun s => ready s (.exit ⟨false, false, 7⟩) && ready s (.exit ⟨false, false, 1⟩) && decide ((grp s).phase = .live) &&
    decide ((grp s).tokE = []) && decide ((grp s).frame = none) && decide (s.marks (grp s) = []))) = true := by decide +kernel

def handled : State := onG (fun g => { g with handler := 0x1020 }) (full one)

/-- A window of path 1 awaits a result. -/
def looking : State := onP (fun p => if p.id = 1 then { p with windows := [{ op := some 9, left := 2, regs := [6], old := [] }] } else p) (two one)

theorem witness_SoftwareTrapsAndHalts : (ready handled (.trap gp 0xFFFF) && ready handled (.trapBreak gp 0) && (grp handled).active (pth handled) gp != 0 &&
    decide ((grp handled).frame = none ∧ (grp handled).trapping = none) && handled.quiet (grp handled) && decide (handled.stuck (grp handled) = []) &&
    ready one (.halt gn) && ready (onC (fun c => { c with debug := true }) one) (.halt gq) && !(grp one).windowPending &&
    ready (onC (fun c => { c with debug := true }) looking) (.halt gq) && (grp looking).paths.any (fun q => q.id != 0 && q.windows.any (·.op.isSome))) = true := by
  decide +kernel

def inHandler : State :=
  onG (fun g => { g with frame := some { paths := [{ id := 0, pc := 0x1008, mask := 1, stack := [], place := .slot 0, dtime := 0, park := none, windows := [], failed := [], timedOut := false }], tokE := [(3, 1)], tokW := [] } }) one

theorem witness_HandlerReturn : (ready inHandler .tret && decide ((grp inHandler).paths.length = 1) &&
    (List.range 16).all (fun k => SMap.get 0 [(3, (1 : Mask))] k == 0 || SMap.get 0 ([] : SMap Mask) k != SMap.get 0 [(3, (1 : Mask))] k) && ready one .tret) = true := by
  decide +kernel

def preempted : State := onC (fun c => { c with st := .saving, preempt := some (0, false) }) one

theorem witness_SafePointsYieldsAndPads : ([Instr.safept, .safeptMask 0].all (fun i => ready one i && ready preempted i) && (one.preempting 0 == false) &&
    preempted.preempting 0 && ready one (.yield gn) && ready one (.yield gq) && decide (one.issuer = some ((grp one).id, (pth one).id)) &&
    decide (one.group? (grp one).id = some (grp one)) && decide ((grp one).path? (pth one).id = some (pth one))) = true := by decide +kernel

theorem witness_HandlerRegisterWrites : (ready (regs [(4, 0x1020)] one) (.setsr gq 4) && ready one (.setsr gn 4) &&
    ready (regs [(4, 0x1022)] one) (.setsr gq 4)) = true := by decide +kernel

def at3 : Addr := ⟨some (.s 0), none, none⟩
def s3 : State := regs [(0, 0x3000)] one
def ldF : LdForm := ⟨false, gp, 0, false, .b32, .g, .v 4, at3⟩
def ldvF : LdvForm := ⟨gp, 0, false, .w64, .g, .v 4, at3⟩
def stF : StForm := ⟨false, gp, .b32, .g, .v 4, at3⟩
def stvF : StvForm := ⟨gp, .w16, .g, .v 4, at3⟩

def locs (s : State) (wide : Bool) (gd : Guard) (sp : Space) (a : Addr) : List (Nat × Loc) :=
  ((grp s).acting (pth s) wide gd).map (fun l => (l, addrLoc a (grp s) (pth s) sp l))

theorem witness_LoadsStart : (ready one (.ld { ldF with gd := ⟨false, false, 1⟩ }) && (locs one false ⟨false, false, 1⟩ .g at3).isEmpty &&
    [(ldF, s3), ({ ldF with g := true, gd := gq, d := .s 4 }, s3), ({ ldF with space := .p }, one), ({ ldF with space := .c, ty := .s8 }, one)].all (fun x => ready x.2 (.ld x.1) &&
      !(pieces x.2 (ldstWant .load (x.1.ty.width / 8) (x.1.ty.width / 8) x.1.g) false (locs x.2 x.1.g x.1.gd x.1.space at3)).isEmpty) &&
    ready one (.ldv { ldvF with gd := ⟨false, false, 1⟩ }) && ready s3 (.ldv ldvF) && !(pieces s3 (ldstWant .load 64 16 false) false (locs s3 false gp .g at3)).isEmpty) = true := by
  decide +kernel

/-- s0 names the device registers, through a leaf of their space. -/
def s3reg : State :=
  let s := regs [(0, 0x40000000)] one
  { s with page := { s.page with tlb := s.page.tlb ++ [{ cluster := 0, ctx := 0, page := 0x40000000, bits := 16, leaf := 3 * 2 ^ 49 + 0x5F }] } }

def privRoom (s : State) (ps : List (Nat × Piece)) : Bool :=
  ps.all (fun x => x.2.inL1 .p && !s.ownPending (grp s) x.2.key x.2.size 0 && (match s.l1? 0 0 (lineOf x.2.key) with
    | none => true
    | some l => decide (l.kind = .priv (grp s).ctx ∨ l.dirty = 0))) && decide (s.l1.length + ps.length ≤ 1024)

theorem witness_StoresStart : ([(stF, s3), ({ stF with ty := .b64, space := .c }, one), ({ stF with g := true, gd := gq, data := .s 4 }, s3)].all (fun x => let f := x.1
      let s := x.2
      let ps := pieces s (ldstWant .store (f.ty.width / 8) (f.ty.width / 8) f.g) false (locs s f.g f.gd f.space at3)
      ready s (.st f) && !ps.isEmpty && decide (∀ x ∈ ps, x.2.via ≠ .reg ∧ x.2.inL1 f.space = false)) &&
    (let ps := pieces s3 (ldstWant .store 16 16 false) false (locs s3 false gp .g at3)
     ready s3 (.stv stvF) && !ps.isEmpty && decide (∀ x ∈ ps, x.2.via ≠ .reg ∧ x.2.inL1 .g = false)) &&
    (let f := { stF with space := .p }
     let ps := pieces one (ldstWant .store 4 4 false) false (locs one false gp .p at3)
     ready one (.st f) && ps.length == 1 && privRoom one ps) &&
    (let ps := pieces one (ldstWant .store 16 16 false) false (locs one false gp .p at3)
     ready one (.stv { stvF with space := .p }) && ps.length == 4 && privRoom one ps) &&
    (let ps := pieces s3reg (ldstWant .store 4 4 false) false (locs s3reg false gp .g at3)
     ready s3reg (.st stF) && ps.length == 1 && decide (∀ x ∈ ps, x.2.via = .reg))) = true := by
  decide +kernel

def traps (r : AccessRes) : Option Code :=
  match r with
  | .trap c _ _ => some c
  | _ => none

def waits (r : AccessRes) : Bool :=
  match r with
  | .wait _ => true
  | _ => false

def s3odd : State := regs [(0, 0x3002)] one
def s3far : State := regs [(0, 0x40000000)] one

def aloc (s : State) (x wide : Bool) : List (Nat × Loc) :=
  ((grp s).acting (pth s) wide (if wide then gq else gp)).map (fun l => (l, atomLoc (grp s) (pth s) x (.s 0) none l))

theorem witness_AtomicsStart : (let w := fun k n m => pieces s3 (atomWant k n false m) false (aloc s3 false false)
    ready s3 (.atom ⟨false, gp, 0, .cas, true, false, .v 4, .s 0, .v 6, some (.v 8), none⟩) && ready s3 (.atom ⟨false, gp, 0, .add, false, false, .v 4, .s 0, .v 6, none, none⟩) &&
    ready s3 (.red ⟨false, gp, .addF32, false, false, .s 0, .v 6, none⟩) && ready s3 (.ldr ⟨false, gp, 0, false, false, .v 4, .s 0, none⟩) &&
    ready s3 (.stc ⟨false, gp, 0, false, false, .v 4, .s 0, .v 6, none⟩) && ready s3 (.atom ⟨true, gq, 0, .inc, true, false, .s 4, .s 0, .s 6, none, none⟩) &&
    !(w .atomic 4 .misalignedAtomic).isEmpty && !(w .atomic 8 .misalignedAtomic).isEmpty && !(w .load 4 .misaligned).isEmpty && !(w .store 4 .misaligned).isEmpty &&
    !(pieces s3 (atomWant .atomic 8 true .misalignedAtomic) false (aloc s3 false true)).isEmpty &&
    (let s := onC (fun c => { c with desc := { c.desc with xshare := 1 } }) one
     ready s (.atom ⟨false, gp, 0, .add, false, true, .v 4, .s 0, .v 6, none, none⟩) && !(pieces s (atomWant .atomic 4 false .misalignedAtomic) false (aloc s true false)).isEmpty)) = true := by
  decide +kernel

/-- A store of v4 to 0x3000 is in flight. -/
def flying : State := at0 (next (exec (.st stF) s3))

theorem witness_WaitsAndFences : (ready one (.waitc gn 7 (.imm 0)) && ready one (.waitc gq 0 (.reg 0)) && ready flying (.waitc gq 1 (.imm 0)) &&
    (grp one).count 0 == 0 && (grp flying).count 1 == 1 &&
    [Instr.fenceRel, .fenceAcq, .fenceSc].all (fun c => [Scope.group, .team, .crew, .device, .system].all (fun k => ready flying (c gq k) && ready one (c gn k))) &&
    (let f := fun s n => Fence.mk n true false false Scope.system s.nextId
     one.fenceMet (grp one) (f one 0) && (flying.fenceMet (grp flying) (f flying 9) == false) &&
     (let s := onG (fun g => { g with fences := [f one 0] }) one
      decide ((grp s).fences.find? (fun x => x.id == 0) = some (f one 0)) && s.fenceMet (grp s) (f one 0)))) = true := by decide +kernel

/-- The same, with s0 at a page of window 0, whose index entries lie where the store goes. -/
def gathering : State :=
  let s := onC (fun c => { c with wins := [(0, { esize := 4, base := 0x4000, index := 0x3000, n := 16 })] }) (regs [(0, 0x40000000)] flying)
  { s with page := { s.page with tlb := s.page.tlb ++ [{ cluster := 0, ctx := 0, page := 0x40000000, bits := 16, leaf := 0x25F }] } }

/-- The host is to provide the page at 1 GiB. -/
def s3host : State := onC (fun c => { c with desc := { c.desc with modes := 1 } }) (onP (fun p => { p with failed := [(0x40000000, 1, false)] }) s3far)

def windowed : List (Instr × Want) := [(.ld ldF, ldstWant .load 4 4 false), (.st stF, ldstWant .store 4 4 false), (.ldv ldvF, ldstWant .load 64 16 false),
  (.stv stvF, ldstWant .store 16 16 false)]
def atoms : List (Instr × Want) := [(.atom ⟨false, gp, 0, .add, false, false, .v 4, .s 0, .v 6, none, none⟩, atomWant .atomic 4 false .misalignedAtomic),
  (.red ⟨false, gp, .add, false, false, .s 0, .v 6, none⟩, atomWant .atomic 4 false .misalignedAtomic),
  (.ldr ⟨false, gp, 0, false, false, .v 4, .s 0, none⟩, atomWant .load 4 false .misaligned),
  (.stc ⟨false, gp, 0, false, false, .v 4, .s 0, .v 6, none⟩, atomWant .store 4 false .misaligned)]

def accessOf (s : State) (w : Want) (sp : Space) : AccessRes := s.begun.access (grp s) (pth s) w false (locs s false gp sp at3)

theorem witness_AccessChecks : ((windowed ++ atoms).all (fun x => [s3odd, s3far, s3host].all (fun s => ready s x.1 &&
      !s.begun.windowHeld (grp s) (pth s) x.2 (locs s false gp .g at3) && !(locs s false gp .g at3).isEmpty) &&
      decide (traps (accessOf s3odd x.2 .g) = some x.2.misaligned) && waits (accessOf s3far x.2 .g) &&
      decide (traps (accessOf s3host x.2 .g) = some .pageFault) && s3host.faultWait (grp s3host) (pth s3host)) &&
    windowed.all (fun x => ready gathering x.1 && gathering.begun.windowHeld (grp gathering) (pth gathering) x.2 (locs gathering false gp .g at3))) = true := by
  decide +kernel

/-- A private word of the core's L1 is dirty. -/
def dirtyL1 : State := at0 (next (exec (.st { stF with space := .p, data := .v 2 }) (vregs [(2, 0, 7)] one)))

theorem witness_PrefetchAndPrivateLines : (ready s3 (.prefetch gp ⟨some (.s 0), none, none⟩) && decide (s3.cong.mode ≠ 1) &&
    [Instr.flush, .inval].all (fun c => [LineArg.all false, .all true, .at at3].all (fun a => ready one (c ⟨false, false, 1⟩ a)) &&
      [one, dirtyL1].all (fun s => ready s (c gp (.all true)) && ready s (c gp (.all false)))) && ((grp one).active (pth one) ⟨false, false, 1⟩ == 0) &&
    (let ls := dirtyL1.privLines (grp dirtyL1) (dirtyL1.groupLines (grp dirtyL1))
     let ps := ls.flatMap (fun l => l.dirtyParts (fun _ => (grp dirtyL1).owner false 0) l.dirty (dirtyL1.slice l.line))
     !ps.isEmpty && decide ((grp dirtyL1).flights = [] ∧ traps (joinLanes (dirtyL1.begun.groupPages (grp dirtyL1) (pth dirtyL1))) = none) &&
       !waits (joinLanes (dirtyL1.begun.groupPages (grp dirtyL1) (pth dirtyL1)))) &&
    (let far := { one with page := { one.page with tlb := [] } }
     let bad := onP (fun p => { p with failed := [(pageOf (one.privWord (grp one) 0 0), 1, false)] }) one
     let w := atomWant .store 4 false .misaligned
     [far, bad].all (fun s => [LineArg.all true, .at at3].all (fun a => ready s (.flush gp a) && ready s (.inval gp a))) &&
     waits (joinLanes (far.begun.groupPages (grp far) (pth far))) && waits (accessOf far w .p) &&
     decide (traps (joinLanes (bad.begun.groupPages (grp bad) (pth bad))) = some .pageFault ∧ traps (accessOf bad w .p) = some .pageFault) &&
     !bad.faultWait (grp bad) (pth bad) && ready dirtyL1 (.flush gp (.at at3)) && ready dirtyL1 (.inval gp (.at at3)) &&
     (pieces dirtyL1 w false (locs dirtyL1 false gp .p at3)).length == 1)) = true := by decide +kernel

/-! #### Accesses in flight -/

/-- Every request has gone to its slice. -/
def sent (s : State) : State := { s with reqs := s.reqs.map (fun r => { r with sent := true }) }

/-- After instruction `i` of `s`, about to issue again. -/
def then' (i : Instr) (s : State) : State := at0 (next (exec i s))

/-- The oldest operation in flight and its part `k`. -/
def op0 (s : State) (c : Op → Bool) : Bool :=
  match s.ops with
  | o :: _ => decide (s.op? o.id = some o) && c o
  | [] => false

/-- The oldest request meets `Served`. -/
def served (s : State) (c : OpKind → Bool) : Bool :=
  match s.reqs with
  | q :: _ => q.sent && decide (s.req? q.id = some q) && decide (q.slice < 96) && (match s.op? q.op with
    | some o => c o.kind && (match q.nextPart o with
      | some (j, y) => s.partFree o y && o.turn j y
      | none => false)
    | none => false)
  | [] => false

def atomF : AtomForm := ⟨false, gp, 0, .add, false, false, .v 4, .s 0, .v 6, none, none⟩
def stcF : StcForm := ⟨false, gp, 0, false, false, .v 4, .s 0, .v 6, none⟩
def ldrS : State := sent (then' (.ldr ⟨false, gp, 0, false, false, .v 4, .s 0, none⟩) s3)
/-- The reservation is taken; the conditional store is at the slice. -/
def stcS : State := { sent (then' (.stc stcF) { s3 with resv := ldrS.resv }) with resv := [] }

/-- A load of two lanes, of which lane 1 has its value, on path 3. -/
def twoPaths : State :=
  let s := then' (.ld { ldF with space := .c }) one
  { s with ops := s.ops.map (fun o => { o with
      paths := [2, 3]
      parts := o.parts.map (fun y => { y with path := 2 }) ++ o.parts.map (fun y => { y with path := 3, lane := 1, got := some 7 }) }) }

theorem witness_AccessService :
    (op0 (then' (.ld { ldF with space := .c }) one) (fun o => (match o.kind with
        | .load d [] => decide (0 < d.width ∧ d.g = false ∧ d.reg + d.regs ≤ 192)
        | _ => false) && ((then' (.ld { ldF with space := .c }) one).opGroup o).isSome &&
        o.parts.all (fun y => decide (y.via = .bank) && !y.done && (then' (.ld { ldF with space := .c }) one).partFree o y)) &&
     (then' (.ld { ldF with space := .c }) one).reqs.isEmpty &&
     (let s := twoPaths
      op0 s (fun o => (match o.kind with
        | .load d [] => decide (0 < d.width ∧ d.g = false ∧ d.reg + d.regs ≤ 192)
        | _ => false) && (s.opGroup o).isSome && o.paths.contains 3 && o.paths.length == 2 && s.reqs.isEmpty &&
        o.parts.any (fun y => y.path == 3) && o.parts.any (fun y => y.path != 3) &&
        o.parts.all (fun y => y.path != 3 || y.got.isSome))) &&
     op0 (then' (.st { stF with space := .c }) one) (fun o => decide (o.kind = .store) && o.parts.length == 1 && o.parts.all (fun y =>
        decide (y.via = .bank ∧ y.got = none) && !y.done && (then' (.st { stF with space := .c }) one).partFree o y &&
          (then' (.st { stF with space := .c }) one).ackTurn o 0 y)) &&
     (let s := sent (then' (.ld ldF) s3)
      served s (fun k => match k with
        | .load _ [] => true
        | _ => false) && op0 s (fun o => o.parts.all (fun y => decide (y.got = none) && !y.done && s.partFree o y)) &&
        s.reqs.all (fun q => q.lease != 8) && s.l1.isEmpty) &&
     served (sent flying) (fun k => decide (k = .store)) &&
     served (sent (then' (.flush gp (.all true)) dirtyL1)) (fun k => decide (k = .writeback)) &&
     served (sent (then' (.atom atomF) s3)) (fun k => match k with
        | .atom _ _ _ => true
        | _ => false) &&
     served ldrS (fun k => match k with
        | .ldr _ _ => true
        | _ => false) &&
     served stcS (fun k => match k with
        | .stc _ _ => true
        | _ => false) && op0 stcS (fun o => o.parts.all (fun y => !stcS.reserved y.who y.key (y.size == 8) &&
          { stcS with resv := [{ owner := y.who, key := y.key, w64 := y.size == 8, clock := 0 }] }.reserved y.who y.key (y.size == 8))) &&
     served (sent (then' (.tlsig ⟨gq, true, true, 0, 2⟩) s3)) (fun k => match k with
        | .tlsig _ _ => true
        | _ => false) &&
     (let s := onP (fun p => { p with park := some (.tlwait 0x3000 0x3000 0 false false (some 5)) }) (sent (then' (.tlsig ⟨gq, true, true, 0, 2⟩) s3))
      s.ops.all (fun o => o.parts.all (fun y => decide (y.key = 0x3000))) && decide (s.time ≤ 5))) = true := by decide +kernel

/-- The store was performed off the device; its completion reply is on its way. -/
def answered : State :=
  { flying with reqs := flying.reqs.map (fun r => { r with slice := 96 }), ops := flying.ops.map (fun o => { o with parts := o.parts.map (fun (y : Part) => { y with got := some 0 }) }) }

/-- A reply with a mark is on its way to core 0. -/
def echoing : State := { one with cong := { one.cong with echo := [(0, true)] } }

def oldResv : State := { one with resv := [{ owner := .thread 0 0, key := 0x3000, w64 := false, clock := 0 }], clock := 4096 }

theorem witness_NetworkSteps :
    ((flying.reqs.map (fun r => (r.cluster, r.sent, r.waiting)) == [(0, false, false)]) && (SMap.get 0 flying.token ((flying.reqs.map (·.slice)).headD 0) == 0) &&
     decide ((flying.reqs.map (·.slice)).headD 96 < 96) && one.reqs.isEmpty && decide (echoing.cong.echo.find? (fun e => e.1 == 0 * 24 + 0) = some (0, true)) &&
     (let s := answered
      s.reqs.all (fun q => decide (s.req? q.id = some q) && (match s.op? q.op with
        | some o => q.parts.all (fun i => (o.parts[i]?).all (fun y => y.got.isSome)) && o.parts.any (fun y => !y.done)
        | none => false)) && !s.reqs.isEmpty) && decide (one.clock % 256 = 0) &&
     (oldResv.resv.head?).any (fun r => decide (r.clock + 4096 ≤ oldResv.clock))) = true := by decide +kernel

/-! #### Cells, copies and block compress -/

/-- Cell 0 of .c is initialised for one producer. -/
def celled : State := then' (.cellInit ⟨gq, false, 0, 1, 2⟩) (regs [(1, 1)] one)

def cellOf (s : State) : Cell := (s.begun.pullOwn (grp s) (s.cellRef (grp s) false 0).key 32).cell (s.cellRef (grp s) false 0)

/-- A completion interrupt is pending in a group with a handler. -/
def pending : State := onG (fun g => { g with intPend := [(one.cellRef g false 0).info], handler := 0x1020 }) one

theorem witness_CellsAndInterrupts :
    ([1, 65535].all (fun t => ready (regs [(1, t)] one) (.cellInit ⟨gq, false, 0, 1, 2⟩)) && decide (one.cellCheck (grp one) false 0 = none) &&
     decide (celled.cellCheck (grp celled) false 0 = none) &&
     ready celled (.cellArrive ⟨gq, false, 8, 0, 3⟩) && ready (regs [(3, 5)] celled) (.cellArrive ⟨gq, false, 8, 0, 3⟩) &&
     (((cellOf celled).addCount 0).isSome && decide ((cellOf celled).arrived + 1 ≤ (cellOf celled).target)) &&
     [false, true].all (fun b => ready celled (.cellTest ⟨gq, false, b, 0, 0, none⟩) && ready celled (.cellWait ⟨gq, false, b, true, 0, none⟩) &&
       ready celled (.cellArm ⟨gq, false, b, 0⟩)) && decide ((cellOf celled).raised = none ∧ (cellOf celled).arm = false ∧ (cellOf celled).phase = false) &&
     (cellOf celled).met true none && !(cellOf celled).met false none &&
     (let g := grp pending
      decide (g.handler ≠ 0 ∧ g.frame = none ∧ g.phase = .live ∧ g.trapping = none ∧ pending.quiet g = true ∧ pending.stuck g = [] ∧
        g.slotPath? g.cs = some (pth pending)))) = true := by decide +kernel

def cpaF : CpaForm := ⟨gp, .e16, .c, .g, false, .v 8, .v 10, 0⟩
/-- 16 bytes are copied from .g 0x3000 to .c 0x400, and cell 0 of .c counts them. -/
def copying : State := sent <| then' (.cpa cpaF) (vregs [(8, 0, 0x400), (10, 0, 0x3000)] (regs [(1, 1)] celled))

def bcF : BcompForm := ⟨gp, .c, .c, false, 4, 5, 0, 0, false, false, 7⟩
def packs : State := regs [(4, 0x800), (5, 0xC00)] celled
def packsG : State := regs [(4, 0x3000), (6, 0x8000)] celled
/-- A run over zeros in .k. -/
def packsOk : State := then' (.bcomp { bcF with dspace := .k, sspace := .k, b := 6 }) packsG
/-- A run whose source leaves .c. -/
def packsOut : State := then' (.bcomp bcF) packs
/-- Its entry waits for the queue. -/
def packsPush : State :=
  { packsOk with ops := packsOk.ops.map (fun o => { o with kind := .bcomp (one.cellRef (grp one) false 0) ⟨.k, 0x3000, 0⟩ ⟨.k, 0x8000, 0⟩ 1 false false 7 true [1] 0 none }) }

def bcOf (s : State) (c : CellRef → Region → Region → Nat → Bool → Bool → Nat → Bool) : Bool :=
  match s.ops.getLast? with
  | some o => (match o.kind with
    | .bcomp cell src dst n big two q false _ _ _ => s.forkReady o && !s.mqinitOpen o q && c cell src dst n big two q
    | _ => false)
  | none => false

theorem witness_CopiesAndCompression :
    (let s0 := vregs [(8, 0, 0x400), (10, 0, 0x3000)] celled
     ready s0 (.cpa cpaF) && ready packs (.bcomp bcF) && decide ((grp packs).count 5 < 63) &&
     ready packsG (.bcomp { bcF with dspace := .k, sspace := .k, b := 6 })) = true := by decide +kernel

theorem witness_CopiesAndCompression_pack :
    (bcOf packsOk (fun _ a b n big two _ => let t := packsOk
       (t.ops.getLast?).any (fun o => let x := t.pack o a b n big two
         decide (x.code = none ∧ x.tw ≤ t.time))) &&
     bcOf packsOut (fun _ a b n big two _ => (packsOut.ops.getLast?).any (fun o => let x := packsOut.pack o a b n big two
         decide (x.code.isSome = true ∧ x.tw ≤ packsOut.time))) &&
     (packsPush.ops.getLast?).any (fun o => !packsPush.mqinitOpen o 7)) = true := by decide +kernel

theorem witness_CopiesAndCompression_copy :
    ((copying.ops.getLast?).any (fun o => match o.kind with
       | .cpa cell [c] [x] [] => copying.carried o.id (c.src :: c.dst) && decide (c.got = none ∧ c.xfer = x ∧ c.dst.length = 1 ∧ c.tileSrc = none ∧ c.tileDst = none) && copying.forkReady o &&
           c.dst.all (fun d => decide (copying.writeTime d ≤ copying.time) && !overlap cell.key 32 d c.size) && ((copying.cell cell).addCount (-(c.size : Int))).isSome
       | _ => false)) = true := by decide +kernel

/-! #### Matrix engines -/

/-- Tile 0 is bound to a full path; the format block at s12 names s8 without scales. -/
def bound : State := regs [(12, 4), (13, 4)] (then' (.mres gq 1) (full one))
/-- Other groups hold 32 tiles of the engine. -/
def crowded : State :=
  (full one).setEngine 0 { entries := [], tiles := (List.range 32).map (fun k => { owner := ⟨0, 1, k / 4⟩, z := k % 4, data := [], mark := none, releasing := false }), metas := [], last := 0 }

def tileReady (s : State) (z : Nat) : Bool :=
  (grp s).guard gq && decide ((pth s).mask = allLanes) && decide (s.tableHold (grp s) = none) && (match (s.engine 0).tile? (grp s).id z with
    | some y => decide (y.mark = none) && !y.releasing
    | none => false)

theorem witness_MatrixReservation :
    ([1, 15].all (fun m => ready (full one) (.mres gq m) && decide (∀ z ∈ maskTiles m, ((full one).engine 0).tile? (grp (full one)).id z = none) &&
       decide (((full one).engine 0).tiles.length + (maskTiles m).length ≤ 32)) && ready crowded (.mres gq 1) && decide (32 < (crowded.engine 0).tiles.length + 1) &&
     (let s := onP (fun p => { p with park := some (.mres 1) }) (full one)
      let s' := { s with issuer := some (⟨0, 0, 0⟩, 0) }
      ready s' (.mres gq 1) && decide (grp s' = grp s ∧ pth s' = pth s ∧ (pth s).park = some (.mres 1) ∧ (grp s).rebind = []) && s.isNext ⟨0, 0, 0⟩ 0 && s.canBind (grp s) 1) &&
     ready bound (.mrel gq 1) && tileReady bound 0 && (bound.engine 0).free (grp bound).id 0 &&
     (let s := bound.setEngine 0 { bound.engine 0 with tiles := (bound.engine 0).tiles.map (fun y => { y with releasing := true }) }
      (s.engine 0).free (grp s).id 0 && ((s.engine 0).tile? (grp s).id 0).any (fun y => y.releasing && decide (y.mark = none)))) = true := by decide +kernel

/-- Tile 0 of pool 0 is HELD with `n` reads; its handle is in s8. -/
def tiled (n : BitVec 8) : State := then' (.tallocImm gq 0 8 n) one

def mmaV : MmaForm := ⟨gq, 0, .c, .k, true, false, false, 8, 9, 12, .dense 4, 4, 0⟩
/-- A product of one K step has entered the table. -/
def multiplying : State := then' (.mma mmaV) bound

def changeMma (f : Mma → Mma) (s : State) : State :=
  s.setEngine 0 { s.engine 0 with entries := (s.engine 0).entries.map (fun x => match x.op with
    | .mma m => { x with op := .mma (f m) }
    | _ => x) }

/-- The engine's product is granted a pass. -/
def passing (c : State → MatEntry → Mma → Bool) (s : State) : Bool :=
  s.throttleClock 0 && decide ((s.engine 0).last ≤ s.clock) && (match s.granted (s.engine 0) with
    | some x => (match x.op with
      | .mma m => c s x m
      | _ => false)
    | none => false)

/-- What `Supplied` gives it, with a pass left in its step. -/
def supply (c : State → MatEntry → Mma → Bool) : State → Bool :=
  passing (fun s x m =>
    let (u, k, b) := match m.sparse with
      | none => (s, m, true)
      | some q => if m.step < m.popped.length then (s, m, true)
        else match ((s.engine 0).queue x.kid q).entries with
          | w :: rest => (s.setEngine 0 ((s.engine 0).setQueue { kid := x.kid, q := q, entries := rest, poisoned := false }), { m with popped := m.popped ++ [w] },
              decide (m.popped.length = m.step) && !((s.engine 0).queue x.kid q).poisoned && !w.testBit 31 && !entryBad w &&
                (s.group? x.gid).any (fun g => decide (m.stream + { m with popped := m.popped ++ [w] }.streamBytes ≤ s.srcLimit g m.a.region m.a.tile)))
          | [] => (s, m, false)
    b && !(k.passes.filter (fun c => decide (c ≥ k.block))).isEmpty && (u.group? x.gid).any (fun g => decide (g.phase = .live)) && c u x k)

/-- It comes to its step; all that the step reads is at hand. -/
def comesTo (c : State → Mma → Bool) : State → Bool :=
  supply (fun u x k => decide (k.bv.length ≤ 96 * k.step) && u.mmaLive k && u.reached x.id (u.stepKeys x k) && c u (u.latch x k))

/-- Tile 0 of pool 0, of generation `gen`. -/
def tile0 (gen : Nat) : Option TileRef := some { kid := 0, crew := 0, pool := 0, index := 0, gen := gen }
/-- The product reads A, and B too, from tile 0, which has `n` reads, and consumes them. -/
def consumer (n : BitVec 8) (gen : Nat) (two : Bool) : State :=
  changeMma (fun m => { m with ca := true, cb := two, a := { m.a with tile := tile0 gen }, b := if two then { m.b with tile := tile0 gen } else m.b })
    (then' (.mma mmaV) (regs [(12, 4), (13, 4)] (then' (.mres gq 1) (full (then' (.tallocImm gq 0 8 n) one)))))
/-- A product of A's blocks that metadata queue 4 names, which holds `es`. -/
def sparseS (es : List Nat) (poisoned : Bool) : State :=
  let s := changeMma (fun m => { m with sparse := some 4, stream := 0 }) multiplying
  s.setEngine 0 { s.engine 0 with metas := [{ kid := 0, q := 4, entries := es, poisoned := poisoned }] }

/-- The entry of the engine is first of its group and tile, which is bound and unmarked. -/
def completes (s : State) (c : MatOp → Nat → Bool) : Bool :=
  match (s.engine 0).entries with
  | x :: _ => decide ((s.engine 0).entries.find? (fun y => y.id == x.id) = some x) && !(s.engine 0).marked x.gid x.z &&
      s.first (s.engine 0) x false && ((s.engine 0).tile? x.gid x.z).isSome && c x.op x.ends
  | [] => false

theorem witness_MatrixProducts :
    (ready bound (.mzero gq 0) && tileReady bound 0 && ready bound (.mma mmaV) && (match mmaOf mmaV (grp bound) (pth bound) with
       | some m => !m.a.odd && !m.b.odd && !bound.srcBeyond (grp bound) m.a m.k (if m.sparse.isSome then 1 else m.k * nfmtSize m.a.fmt) &&
           !bound.srcBeyond (grp bound) m.b m.k (64 * nfmtSize m.b.fmt) && !bound.srcStale (grp bound) m.a && !bound.srcStale (grp bound) m.b
       | none => false) &&
     [multiplying, changeMma (fun m => { m with block := 3 }) multiplying, sparseS [1] false, changeMma (fun m => { m with popped := [1] }) (sparseS [] false)].all
       (comesTo (fun _ l => decide (l.due = []))) &&
     supply (fun _ _ k => decide (96 * k.step < k.bv.length)) (changeMma (fun m => { m with block := 1, bv := List.replicate 32 [] }) multiplying) &&
     supply (fun u x k => decide (k.bv.length ≤ 96 * k.step) && u.mmaLive k && !u.reached x.id (u.stepKeys x k))
       (changeMma (fun m => { m with a := { m.a with region := { m.a.region with space := .x }, rows := [0] } }) multiplying) &&
     comesTo (fun u l => decide (l.due ≠ []) && l.due.all u.tileLive && u.owed l.due) (consumer 1 0 false) &&
     comesTo (fun u l => l.due.all u.tileLive && !u.owed l.due) (consumer 1 0 true) &&
     comesTo (fun u l => !l.due.all u.tileLive) (changeMma (fun m => { m with gather := true, av := List.replicate 32 [] }) (consumer 1 5 false)) &&
     supply (fun u _ k => decide (k.bv.length ≤ 96 * k.step) && !u.mmaLive k) (consumer 1 5 false) &&
     [([], true), ([2 ^ 31], false), ([2 ^ 25], false), ([1], false)].all (fun x =>
       passing (fun s y m => decide (m.sparse = some 4 ∧ m.popped.length = m.step) && (s.group? y.gid).any (fun g => decide (g.phase = .live) &&
         (x.2 || x.1.any (fun w => w.testBit 31 || entryBad w || decide (s.srcLimit g m.a.region m.a.tile < m.stream + { m with popped := [w] }.streamBytes)))))
       (changeMma (fun m => { m with stream := 2 ^ 40 }) (sparseS x.1 x.2))) &&
     [1, 2].all (fun n => ((tiled n).crew? 0 0).any (fun c => (c.part? 0).any (fun y => decide ((y.tile 0).st = .held ∧ (y.tile 0).count = n.toNat)))) &&
     completes (then' (.mzero gq 0) bound) (fun o _ => decide (o = .zero)) &&
     completes (changeMma (fun m => { m with step := m.steps }) multiplying) (fun o e => match o with
       | .mma m => decide (m.steps ≤ m.step ∧ e ≤ 0)
       | _ => false) &&
     (let s := { multiplying with clock := 1024 }
      (s.engine 0).entries.any (fun x => decide (x.since + 1024 ≤ s.clock)))) = true := by decide +kernel

def drF : MdrainForm := ⟨gq, .b8 false false 3, false, .c, 0, 1, 0⟩
def loF : MloadForm := ⟨gq, .f16, .k, 0, 0, 1⟩
def draining : State := sent <| then' (.mdrain drF) (regs [(1, 64)] bound)
/-- Its windows of .c have 16 KiB, a full tile of f32. -/
def wideC : State := onG (fun g => { g with hdr := { g.hdr with cscr := 64 } }) (regs [(1, 256)] bound)
/-- The same transfer as an addition: one update of the whole image. -/
def adding : State := { draining with ops := draining.ops.map (fun o => match o.kind with
  | .mdrain z f _ d im l t => { o with kind := .mdrain z f true d im (l.take 1) t }
  | _ => o) }
/-- The drain's destination is tile 0, which its handle names or not. -/
def drainTo (live : Bool) : State :=
  let s := sent (then' (.mdrain drF) (regs [(1, 64), (12, 4), (13, 4)] (then' (.mres gq 1) (full (then' (.tallocImm gq 0 8 2) one)))))
  { s with ops := s.ops.map (fun o => match o.kind with
    | .mdrain z f a d im l _ => { o with kind := .mdrain z f a d im l (tile0 (if live then 0 else 5)) }
    | _ => o) }
/-- A part of the drain may be applied. -/
def applies (c : State → Op → Option TileRef → List Nat → Bool) (s : State) : Bool :=
  (s.ops.getLast?).any (fun o => s.forkReady o && (match o.kind with
    | .mdrain 0 _ add none images (k :: _) tile => let keys := if add then images.getD k [] else images.map (fun l => l.getD k 0)
      (!add || !s.addBefore o images.flatten) && s.carried o.id keys && keys.all (fun a => a % 16 == 0) &&
        (keys.zip (keys.drop 1)).all (fun x => decide (x.1 < x.2)) && c s o tile keys
    | _ => false))
def loading : State := sent <| then' (.mload loF) (regs [(1, 128)] bound)
def mqF (n : Word) : State := regs [(0, 0), (1, n)] (full one)

/-- The engine's entry of the last operation is first. -/
def entryFirst (s : State) (drain : Bool) : Bool :=
  (s.ops.getLast?).any (fun o => s.forkReady o && (match (s.engine 0).entryOf? o.id with
    | some x => !(s.engine 0).marked x.gid x.z && s.first (s.engine 0) x drain && ((s.engine 0).tile? x.gid x.z).isSome
    | none => false))

def rows (s : State) (k : Acc) (sp : Space) (r : Fin 64) (w n : Nat) (len : Nat) : Bool :=
  let b := matrixBase (grp s) (pth s) sp r
  match s.begun.rowsAccess (grp s) (pth s) k sp b.1 b.2 w n with
  | .ok ps => decide (b.1 % 16 = 0) && ps.length == len
  | _ => false

theorem witness_MatrixTransfers :
    ([0, 1, 64].all (fun n => ready (mqF n) (.mqinit ⟨gq, false, 7, 0, 1⟩) && decide (0 + 4 * n.toNat ≤ (mqF n).regionSize (grp (mqF n)) .c)) &&
     ((then' (.mqinit ⟨gq, false, 7, 0, 1⟩) (mqF 2)).ops.getLast?).any (fun o => let s := then' (.mqinit ⟨gq, false, 7, 0, 1⟩) (mqF 2)
       s.forkReady o && !s.mqinitBefore o 7 && (match o.kind with
         | .mqinit 7 keys 0 => keys.length == 2
         | _ => false)) &&
     ready (regs [(1, 64)] bound) (.mdrain drF) && tileReady (regs [(1, 64)] bound) 0 && ready (regs [(1, 128)] bound) (.mload loF) &&
     ready wideC (.mdrain { drF with fmt := .f32, add := true })) = true := by decide +kernel

theorem witness_MatrixTransfers_rows :
    (rows (regs [(1, 64)] bound) .store .c 0 64 1 256 && rows (regs [(1, 128)] bound) .load .k 0 128 2 512) = true := by decide +kernel

theorem witness_MatrixTransfers_load :
    (entryFirst loading false && loading.reqs.all (·.sent) && (loading.ops.getLast?).any (fun o => match o.kind with
       | .mload 0 _ _ none => true
       | _ => false)) = true := by decide +kernel

theorem witness_MatrixTransfers_drain :
    (entryFirst draining false && applies (fun _ _ t ks => decide (t = none ∧ ks.length = 1)) draining && draining.reqs.all (·.sent)) = true := by
  decide +kernel

/-- Every part has been written. -/
theorem witness_MatrixTransfers_done :
    (let s := { draining with ops := draining.ops.map (fun o => match o.kind with
       | .mdrain z f a _ im _ t => { o with kind := .mdrain z f a (some [0]) im [] t }
       | _ => o) }
     entryFirst s false && (s.ops.getLast?).any (fun o => decide (o.tw ≤ s.time) && (match o.kind with
       | .mdrain 0 _ false (some _) [_] [] none => true
       | _ => false))) = true := by decide +kernel

theorem witness_MatrixTransfers_add :
    (entryFirst adding false && applies (fun _ _ t ks => decide (t = none ∧ ks.length = 256)) adding) = true := by decide +kernel

theorem witness_MatrixTransfers_latched :
    (match adding.ops with
     | [o] => (match o.kind with
       | .mdrain z f a _ im l t => entryFirst { adding with ops := [{ o with kind := .mdrain z f a (some (List.replicate 4096 0)) im l t }] } false
       | _ => false)
     | _ => false) = true := by decide +kernel

theorem witness_MatrixTransfers_tile :
    (applies (fun s _ t _ => t.isSome && t.all s.tileLive) (drainTo true) && entryFirst (drainTo true) false && entryFirst (drainTo false) false &&
     applies (fun s o t _ => !t.all s.tileLive && ((s.endMatrix o).opGroup o).isSome) (drainTo false)) = true := by decide +kernel

/-! #### Tiles, handle queues, reorder and barriers -/

/-- The handle stands in queue 0. -/
def pushed : State := then' (.qpush gq 0 8) (tiled 2)
def onCrew (f : Crew → Crew) (s : State) : State := s.modCrew 0 0 f
/-- The pool's limit is reached. -/
def noTiles : State := onCrew (fun c => { c with parts := c.parts.map (fun x => { x with lim := 0 }) }) one
/-- The path waits for `n` reads of a tile, with one granted or none. -/
def awaiting (n : Nat) (t : Option Nat) (s : State) : State := onP (fun p => { p with park := some (.talloc 0 n t) }) s
def consumeF : LdForm := ⟨false, gp, 0, true, .b32, .h, .v 4, ⟨some (.s 8), none, none⟩⟩
/-- A consuming load of tile 0 has its bytes. -/
def consuming (n : BitVec 8) : State :=
  let s := then' (.ld consumeF) (tiled n)
  { s with ops := s.ops.map (fun o => { o with parts := o.parts.map (fun (y : Part) => { y with got := some 0 }) }) }

theorem witness_TilesAndQueues :
    ([0x01, 0xFF].all (fun n => ready one (.tallocImm gq 0 8 n) && ready noTiles (.tallocImm gq 0 8 n)) && ready (regs [(4, 255)] one) (.talloc gq 0 8 4) &&
     decide (one.tallocTile (grp one) 0 (one.begun.tallocAhead (grp one) (pth one) 0) = some 0 ∧
       noTiles.tallocTile (grp noTiles) 0 (noTiles.begun.tallocAhead (grp noTiles) (pth noTiles) 0) = none ∧ (pth one).tallocWait 0 = none) &&
     [some 0, none].all (fun t => ready (awaiting 7 t one) (.tallocImm gq 0 8 1) && decide ((pth (awaiting 7 t one)).tallocWait 0 = some (7, t))) && [1, 2].all (fun n => (consuming n).reqs.all (fun q => q.slice < 96)) &&
     ((one.groupCrew (grp one)).bind (fun c => c.part? 0)).isSome && [gq, gn].all (fun gd => ready (tiled 2) (.tinfo gd 9 8)) &&
     [0, 2].all (fun n => ready (regs [(4, n)] one) (.tpart gq 0 8 4) && decide (n.toNat ≤ (grp one).hdr.tiles 0)) &&
     [1, 2].all (fun n => ((consuming n).ops.getLast?).any (fun o => match o.kind with
       | .load _ [r] => decide (o.admitted = [r]) && ((consuming n).opGroup o).isSome && !(consuming n).tileBusy o [r] && !o.parts.isEmpty &&
           (((consuming n).crew? r.kid r.crew).bind (fun c => c.part? r.pool)).any (fun x => decide ((x.tile r.index).st = .held ∧ (x.tile r.index).count = n.toNat))
       | _ => false)) &&
     [tiled 2, then' (.st { stF with space := .c }) (tiled 2)].all (fun s => ready s (.qpush gq 0 8) && ready (regs [(9, 1)] s) (.qmc gq 8 9) && decide (s.pushCheck (grp s) ((grp s).rdS (pth s) 8).toNat 0 = none) &&
       (s.groupCrew (grp s)).any (fun c => c.hqs.all (fun x => x.slots.all (fun y => decide (y.1 < x.pushed))))) &&
     (tiled 2).released (grp (tiled 2)) .crew (tiled 2).nextId &&
     (let s := then' (.st { stF with space := .c }) (tiled 2)
      !s.released (grp s) .crew s.nextId) &&
     (let s := onP (fun p => { p with park := some (.push 0 0 [(0, 0)]) }) pushed
      s.released (grp s) .crew 0 && (s.groupCrew (grp s)).any (fun c => (c.hqs[0]?).isSome)) &&
     ready pushed (.qpop gq 0 9) && ready one (.qpop gq 0 9) && ready pushed (.qtry gq 0 9 1) && ready one (.qtry gq 0 9 1) &&
     [one, pushed].all (fun s => decide (s.waiters (grp s) (pth s) (Park.isQpop 0) = [])) && (pushed.qpopHead (grp pushed) (pth pushed) 0).isSome &&
     decide (one.qpopHead (grp one) (pth one) 0 = none)) = true := by decide +kernel

def reF : ReorderForm := ⟨.v 2, false, false, 1, 1⟩
def parkedRe : State := onP (fun p => { p with park := some (.reorder reF) }) one
/-- One record of the reorder instance, with key 3. -/
def setRec : Record := { thread := { wid := 0, home := 0, team := 0, homeCore := 0, tkey := 0, src := 0, rank := 0, arrivals := 1 }, key := 3, seq := 0, time := 0, v := [(0, 7)], p := 1, intReq := [], intPend := [], spilled := false }
def emitting : State :=
  { onCrew (fun c => { c with insts := [{ ref := some { pc := 0x1000, vmask := 1, smask := 1, merge := false, stream := false, field := 0, s := [(1, 9)], handler := 0, stack := [] }, recs := [], ready := [[setRec]], nextSeq := 1, emitted := 0, spilled := 0, counts := [], flushed := true, rspill := 0 }] }) one with groups := [] }

theorem witness_Reordering :
    ([0, 4095].all (fun k => ready (vregs [(2, 0, k)] one) (.reorder reF) && decide (k.toNat < (grp one).hdr.keys)) && ready (vregs [(2, 0, 4096)] one) (.reorder reF) &&
     decide ((grp one).frame = none ∧ ∀ y ∈ (one.engine (grp one).engineNum).tiles, y.owner ≠ (grp one).id) &&
     (pth one).inReorder == false && ready flying (.reorder reF) && !flying.drained (grp flying) && one.drained (grp one) && decide ((grp one).tokE = []) &&
     ready parkedRe (.reorder reF) && (pth parkedRe).inReorder && parkedRe.isNext ⟨0, 0, 0⟩ 0 &&
     (let g := grp parkedRe
      parkedRe.drained g && decide (g.trapping = none ∧ g.phase = .live ∧ g.frame = none ∧ g.tokE = []) && decide (∀ q ∈ g.paths, q.id = 0 → q = pth parkedRe) &&
      (parkedRe.groupCrew g).any (fun c => decide (c.insts = []) && (lanesOf (pth parkedRe).mask).all (fun l => (g.thread? l).any (fun t => t.arrivals == c.instDone)))) &&
     decide ((onG (fun g => { g with phase := .dissolving }) one).group? ⟨0, 0, 0⟩ ≠ none) &&
     (emitting.crew? 0 0).any (fun c => (match emitting.launch? 0 with
       | some l => (match emitting.emitCore c l.hdr with
         | some core => !emitting.preempting l.ctx && !emitting.settling c && decide (c.image = none) && (emitting.freeSlot c.cluster core).isSome
         | none => false)
       | none => false)) && SMap.wf 0 setRec.v && decide (∀ e ∈ setRec.v, e.1 < 192)) = true := by decide +kernel

def barF : BarForm := ⟨gp, 0, false, none⟩
/-- Another thread is still to arrive at barrier 0, where the group's thread has arrived. -/
def arrived : State :=
  then' (.barArrive barF) (onCrew (fun c => { c with teamBars := c.teamBars.map (fun bs => bs.map (fun (b : BarEntry) => { b with live := 2, target := 2 })) }) one)
def storing : State := then' (.st { stF with space := .c }) one
def arriveOk (s : State) (cnt : Option Nat) : Bool :=
  (s.groupCrew (grp s)).any (fun c => match s.arriveLanes (grp s) c 0 false cnt [0] { entries := [], words := [] } with
    | .ok w => w.entries.length == 1
    | .error _ => false)

theorem witness_BarrierInstructions :
    ([Instr.barArrive, .barSync].all (fun c => ready one (c { barF with gd := ⟨false, false, 1⟩ }) && ready one (c barF) && ready one (c { barF with b := 15, crew := true, cnt := some 3 }) &&
       ready storing (c barF)) && one.released (grp one) (barScope false) one.nextId && arriveOk one none && !storing.released (grp storing) (barScope false) storing.nextId &&
     ready arrived (.barWait ⟨gp, 0, false⟩) && arrived.anyPending (grp arrived) 1 false 0 && ready one (.barWait ⟨⟨false, false, 1⟩, 0, false⟩) &&
     !one.anyPending (grp one) ((grp one).active (pth one) ⟨false, false, 1⟩) false 0 &&
     (let s := onP (fun p => { p with park := some (.barArrive 0 0 false 1 none false) }) one
      s.released (grp s) (barScope false) 0 && arriveOk s none) &&
     ready one (.barArriveRem ⟨gp, 0, 4, 5, none⟩) && ready one (.barArriveRem ⟨gp, 0, 4, 5, some 6⟩) && (one.crew? 0 0).any (fun c => decide (0 < c.teams.length)) &&
     (let s := then' (.barArriveRem ⟨gp, 0, 4, 5, none⟩) (regs [(5, 1)] one)
      (s.ops.getLast?).any (fun o => (s.opGroup o).all (fun g => s.released g .device o.id) && (match o.kind with
        | .barRemote k t b n m => (s.crew? o.kid k).any (fun (c : Crew) => (c.bar? t b).any (fun x => (x.arriveMany n m).isSome))
        | _ => false)))) = true := by decide +kernel

/-! #### Queues from programs and timelines -/

/-- Context 0 has an idle queue 0 with room for 16 packets. -/
def q0 : Queue := { st := .idle, before := .idle, logn := 4, base := 0x5000, drop := false, k := 0, qrd := 1, code := 0, misses := 0, reread := none }
def queued : State := onC (fun c => { c with desc := { c.desc with nq := 1 }, queues := [(0, q0)] }) one
def launchF : LaunchForm := ⟨gq, false, 4, 6, none⟩
def kicking : State := then' (.launch launchF) (regs [(6, 1)] queued)
/-- The store's T_w is not yet known when the launch issues. -/
def kickHeld : State := onP (fun p => { p with park := none }) (onC (fun c => { c with desc := { c.desc with nq := 1 }, queues := [(0, q0)] }) flying)

theorem witness_LaunchesAndKicks :
    (ready queued (.launch launchF) && ready (regs [(4, 0)] kickHeld) (.launch launchF) && ready (onC (fun c => { c with desc := { c.desc with priv := true } }) queued) (.launch { launchF with c := some 8 }) &&
     decide ((0 : Nat) < (queued.desc 0).nq ∧ (queued.ctxOf 0).st ≠ .free ∧ (grp queued).count 1 < 63) && decide (∀ o ∈ queued.ops, o.id < queued.nextId) &&
     queued.released (grp queued) .device queued.nextId && !kickHeld.released (grp kickHeld) .device kickHeld.nextId &&
     (let s := then' (.launch launchF) (regs [(4, 0)] kickHeld)
      let t := { s with ops := s.ops.filter (fun (o : Op) => decide (o.kind ≠ OpKind.store)) }
      (t.ops.getLast?).any (fun o => t.released (grp t) .device o.id && decide (o.kind = .kick 0 0 0 ∧ o.parts ≠ []))) &&
     (queued.ctx? 0).any (fun x => decide (x.st ≠ .free ∧ x.st ≠ .killing ∧ x.st ≠ .killed ∧ 0 < x.desc.nq ∧ (x.queue 0).st ≠ .disabled ∧ (x.queue 0).k < 1 ∧
       1 < (x.queue 0).qrd + 2 ^ (x.queue 0).logn ∧ (x.queue 0).st = .idle)) && decide (kicking.ops.find? (fun o => o.sentKick 0 0 1) ≠ none) &&
     decide (queued.ops.find? (fun o => o.sentKick 0 0 0) = none) && decide (queued.links.bells = []) &&
     decide (((onC (fun c => { c with queues := [(0, { q0 with st := .held })] }) queued).queue 0 0).st = .held) &&
     queued.linkReady 0 && !{ flying with reqs := flying.reqs, links := { flying.links with linkTw := [(0, 5)] } }.linkReady 0) = true := by decide +kernel

def tlF : TlsigForm := ⟨gq, false, false, 0, 2⟩
def tlLocs (s : State) : List (Nat × Loc) := [(lowLane (pth s).mask, (grp s).timelineLoc (pth s) 0)]
def flying2 : State := then' (.st { stF with addr := ⟨some (.s 0), none, some 64⟩ }) s3

theorem witness_TimelineInstructions :
    ([s3, flying2].all (fun s => ready s (.tlsig tlF) && decide (∀ o ∈ s.ops, o.id < s.nextId) && (match s.begun.access (grp s) (pth s) (atomWant .atomic 8 true .misaligned) false (tlLocs s) with
       | .ok [_] => true
       | _ => false)) && s3.released (grp s3) .device s3.nextId && !flying2.released (grp flying2) .device flying2.nextId &&
     (let s := then' (.tlsig tlF) flying2
      let t := { s with ops := s.ops.filter (fun (o : Op) => decide (o.kind ≠ OpKind.store)) }
      (t.ops.getLast?).any (fun o => t.released (grp t) .device o.id && !t.signalHeld (grp t) o.id && decide ((grp t).phase = .live ∧ o.kind = .tlsig false 0) && decide (o.parts.map (·.got) = [none]))) &&
     [Instr.tlwait ⟨gq, false, false, 1, 0, 2⟩, .tlwaitExt ⟨gq, false, 1, 0, 2, 500⟩].all (fun i => ready s3 i && ready (regs [(2, 1)] s3) i && decide ((pth s3).park = none) &&
       [(false, 0), (false, 1), (true, 1)].all (fun x => [0x3000, noKey].all (fun k => [s3, s3.write 0x3000 8 5].all (fun s =>
         ready (onP (fun p => { p with timedOut := x.1, park := some (.tlwait k 0x3000 x.2 false false (some 5)) }) s) i)))) && decide ((s3.write 0x3000 8 5).read 0x3000 8 = 5) && (match s3.begun.access (grp s3) (pth s3) (atomWant .load 8 true .misaligned) false (tlLocs s3) with
       | .ok [x] => decide (x.2.lease ≠ 6 ∧ s3.read x.2.key 8 = 0)
       | _ => false) &&
     (let s := onP (fun p => { p with park := some (.tlwait 0x3000 0x3000 1 false false (some 0)) }) s3
      decide (0 ≤ s.time ∧ s.read 0x3000 8 < 1) && decide (0 < { s.write 0x3000 8 5 with time := 1 }.time))) = true := by decide +kernel

/-! #### Messages, links and the outside -/

/-- A ring of two devices in x, its + port UP with all its slots free, and context 0 in job 0. -/
def stitched (s : State) : State :=
  onC (fun c => { c with fabjob := 0x10000 }) { s with links := { s.links with cfgLive := 0x200, portCfg := [(0, 0x200), (1, 0x200)], roleLive := [(0, 1), (1, 2)], pstate := [(0, 2), (1, 2)], free := [(0, 1024)] } }

def sendF : MsendForm := ⟨gq, false, .minimal, 4, 5, 6, 7⟩
def recvF : MrecvForm := ⟨gq, false, 10, 4, 5, 6, 7⟩
/-- A message of 4 bytes to device `d` is held here. -/
def sending (d : Word) : State := then' (.msend sendF) (stitched (regs [(4, d), (6, 4)] one))
/-- Receive 0 is posted. -/
def receiving : State := then' (.mrecv recvF) (regs [(6, 4)] one)
/-- With `v` as its status. -/
def received (v : Option Nat) : State :=
  { receiving with links := { receiving.links with posted := receiving.links.posted.map (fun x => { x with status := v }) } }

theorem witness_MessagesAndReceives :
    ([0, 1].all (fun d => let s := stitched (regs [(4, d), (6, 4)] one)
      ready s (.msend sendF) && decide ((grp s).count 7 < 63 ∧ s.bufferTrap (grp s) .c d.toNat false 0 4 7 = none) && s.routeUp 0 d.toNat .minimal) &&
     (let s := regs [(6, 4)] one
      ready s (.mrecv recvF) && decide (s.bufferTrap (grp s) .c 0 true 0 4 7 = none ∧ s.entriesUsed 0 = [] ∧ s.links.overflow = [])) &&
     [gq, gn].all (fun gd => ready one (.mprobe ⟨gd, 3, 4, 0x7FFF⟩)) && one.links.wordOk 0 true &&
     [none, some 5].all (fun v => [false, true].all (fun b => let s := onP (fun p => { p with timedOut := b }) (received v)
       [Instr.mwaitr gq false 11 10, .mwaitr gq true 11 10, .mwaitrExt gq 11 10 3].all (fun i => ready s i) &&
         decide (((grp s).rdS (pth s) 10).toNat < 65536) && !((grp s).rdS (pth s) 10).toNat.testBit 7 &&
         (s.posted? 0 ((grp s).rdS (pth s) 10).toNat).any (fun x => decide (x.kid = 0 ∧ x.crew = 0 ∧ x.status = v)))) &&
     (let s := onP (fun p => { p with park := some (.mwaitr ((grp receiving).rdS p 10).toNat false (some 0)) }) receiving
      (s.posted? 0 ((grp s).rdS (pth s) 10).toNat).any (fun x => decide (x.status = none))) &&
     (let s := { onP (fun p => { p with park := some (.yield 16) }) one with clock := 16 }
      decide (16 ≤ s.clock ∧ (pth s).park = some (.yield 16)))) = true := by decide +kernel

/-- Packet header of a message of four bytes for cluster 0 here. -/
def pkt0 : PktHeader := { seq := 0, cls := 0, len := 4, job := 0, tag := 7, typ := 0, srcClu := 0, srcDev := 1, dstClu := 0, dstDev := 0, payload := [1, 2, 3, 4], route := .minimal, flow := 0, op := 0, body := .none }
/-- It has come in by port 0. -/
def incoming (s : State) : State := { stitched s with links := { (stitched s).links with held := [{ port := 0, pkt := pkt0, ctx := none, unread := false }] } }

theorem witness_MessageTransport :
    ((stitched one).links.port 0 == 2 && (stitched one).links.roleOf 0 == 1 && ((stitched one).links.seen 0).inExtents 1 && decide (pkt0.typ < 6) &&
     decide (((stitched one).links.seen 0).extent 0 ≠ 1 ∧ pktFlits pkt0 ≤ (stitched one).links.inputFree 0 0) &&
     ((sending 1).links.held[0]?).any (fun h => decide (h.pkt.dstDev ≠ ((sending 1).links.seen h.port).devnum) && ((sending 1).payload h).isSome &&
       ((sending 1).links.seen h.port).atHead ((sending 1).links.seen h.port).devnum 0 h && (sending 1).mayLeave h &&
       ((sending 1).wayOf h).isSome && (((sending 1).links.seen h.port).moves h.port h.pkt.srcDev h.pkt.dstDev h.pkt.cls.val (pktFlits h.pkt) h.pkt.route
         ((sending 1).tablePort ((sending 1).tableCtx h) h.pkt.dstDev)).isSome) &&
     [incoming one, incoming receiving].all (fun s => (s.links.held[0]?).any (fun h => (s.payload h).isSome && s.links.atEnd h) &&
       decide (pkt0.seq = pairGet 0 s.links.seqIn (flowKey (pkt0.flow * 512 + pkt0.srcDev) pkt0.dstDev pkt0.dstClu)) &&
       (s.jobCtx 0).any (fun c => decide (c.st ≠ .saved ∧ c.replayMode = 0) && c.desc.place.testBit 0)) &&
     ((onC (fun c => { c with st := .saved }) (incoming one)).jobCtx 0).any (fun c => decide (c.st = .saved ∧ c.msgImage = [] ∧ c.replayMode = 0) && c.desc.place.testBit 0) &&
     decide (one.links.posted = []) && (match (incoming receiving).links.posted with
       | [x] => decide (x.cluster = 0 ∧ x.ctx = 0 ∧ x.status = none) && selMatches x.sel x.tag { pkt0 with srcDev := 0 }
       | _ => false) &&
     (let s := { sending 0 with ops := (sending 0).ops.map (fun (o : Op) => match o.kind with
        | .msend b n _ => { o with kind := .msend b n (some 11) }
        | _ => o) }
      s.ops.any (fun o => match o.kind with
        | .msend _ _ (some 11) => true
        | _ => false))) = true := by decide +kernel

theorem witness_RemoteAtomicsStart : (let s := stitched (onC (fun c => { c with desc := { c.desc with xshare := 1 } }) one)
    let t := regs [(4, 1)] s
    [s, t].all (fun u => ready u (.ratom ⟨false, gp, 0, .add, false, some (.v 1), 4, .v 2, 6⟩) && ready u (.ratom ⟨true, gq, 0, .addF32, false, none, 4, .s 2, 6⟩) &&
      ready u (.ratomCas ⟨false, gp, 0, true, some (.v 4), 4, .v 2, 6, 8⟩) && decide ((grp u).flights = [] ∧ u.cong.mode ≠ 1)) &&
    s.links.inExtents 0 && t.links.inExtents 1 && t.routeUp 0 1 .minimal &&
    !(pieces s (atomWant .atomic 8 false .misalignedAtomic) false [(0, Loc.mk .x 0 0)]).isEmpty) = true := by decide +kernel

/-- The access of the oldest request is at another device (96) or at the host (97). -/
def away (n : Nat) (s : State) : State := { sent s with reqs := (sent s).reqs.map (fun r => { r with slice := n }) }

def servedOut (s : State) : Bool :=
  match s.reqs with
  | q :: _ => q.sent && decide (s.req? q.id = some q) && (match s.op? q.op with
    | some o => (match q.nextPart o with
      | some (j, y) => s.partFree o y && o.turn j y
      | none => false)
    | none => false)
  | [] => false

/-- A peer's packet of a type has come in by port 0. -/
def fromPeer (typ : Nat) (b : PktBody) : State :=
  { stitched one with links := { (stitched one).links with held := [{ port := 0, pkt := { pkt0 with typ := typ, body := b }, ctx := none, unread := false }] } }

theorem witness_OutsideAccesses :
    ([0x3000, localEnd].all (fun a => let s := fromPeer 3 (.atomic false a true .add 1 0)
        (s.peerPacket 0 3).any (fun k => match s.peerWord k false a 8 with
          | .ok _ => decide (a = 0x3000)
          | .error _ => decide (a = localEnd))) &&
     ((fromPeer 2 (.addr 0x3000 4)).peerPacket 0 2).isSome && ((fromPeer 1 (.addr 0x3000 4)).peerPacket 0 1).isSome &&
     [96, 97].all (fun n => servedOut (away n (then' (.atom atomF) s3)) && servedOut (away n flying)) &&
     (let t := regs [(4, 1)] (stitched one)
      let s := sent (then' (.ratom ⟨false, gp, 0, .add, false, some (.v 1), 4, .v 2, 6⟩) { t with links := { t.links with peerX := [(2 ^ 16, 1)] } })
      servedOut s && s.reqs.all (fun q => q.slice == 96) && s.ops.all (fun o => o.parts.all (fun y => decide (s.remoteRefusal y = none)))) &&
     [0, localEnd - 8].all (fun pa => decide (pa % 8 = 0 ∧ pa + 8 ≤ localEnd ∧ (pa = 0 ∨ one.textHit pa 8 = none))) && decide (one.textHit 0x3000 8 = none) &&
     decide (one.textHit 0x1000 4 ≠ none ∧ bits (3 * 2 ^ 49 + 0x10000) 51 49 = 3 ∧ (3 * 2 ^ 49 + 0x10000) % 8 = 0)) = true := by decide +kernel

theorem witness_LinkStates :
    ([0, 9].all (fun n => decide (one.links.link n = 0)) && (let s := { one with links := { one.links with pstate := [(0, 1), (1, 3)] } }
      decide (s.links.link 0 = 1 ∧ s.links.link 1 = 3 ∧ s.time < pairGet 0 s.links.trainStart 0 + 1000000) &&
      decide (pairGet 0 s.links.trainStart 0 + 1000000 ≤ { s with time := 1000000 }.time)) &&
     decide ((stitched one).links.link 0 = 2 ∧ (stitched one).links.held = [] ∧ (stitched one).reqs = [] ∧ (stitched one).ops = [])) = true := by decide +kernel

/-! #### Trace, windows and translation -/

/-- Context 0 has a trace ring of 1,024 entries at 4 MiB. -/
def traced (s : State) : State := onC (fun c => { c with trace := { c.trace with trcbase := 0x40000A } }) s
def fullFifo (s : State) : State := s.setFifo 0 0 (List.replicate 256 (0, [1, 2, 3, 4]))

theorem witness_TraceRecords :
    ([Instr.trace gn 4, .traceImm gn 5].all (fun i => ready (traced one) i) &&
     [Instr.trace gq 4, .traceImm gq 5].all (fun i => ready one i && ready (traced one) i && ready (fullFifo (traced one)) i) &&
     decide (one.traceRing 0 = none) && decide ((traced one).traceRing 0 = some (0x400000, 10)) && decide ((fullFifo one).fifo 0 0 ≠ [] ∧ 256 ≤ ((fullFifo one).fifo 0 0).length) &&
     ready one (.mark gn 0) && ready one (.mark gq 0xFFFFF) && ready (fullFifo one) (.mark gq 37) && ready one (.evt gn 0 4) && ready one (.evt gq 0xFFFF 4) &&
     (let s := { one with clock := 1 }
      ready s (.evt gq 0xFFFF 4) && !(s.ring 0 0).frozen && decide ((s.ring 0 0).head < 4096 ∧ (s.ring 0 0).clock ≠ s.clock ∧ (pth s).park = none)) &&
     (let s := fullFifo (traced one)
      (s.ctx? 0).any (fun x => decide (x.st ≠ .free ∧ x.st ≠ .killing ∧ x.st ≠ .killed) && decide (0x400000 + 32 * (x.trace.trchead % 2 ^ 10) + 32 ≤ 768 * 2 ^ 30)))) = true := by
  decide +kernel

def bindF : BindwForm := ⟨gq, 3, .e4, 10, 12, 14⟩
def bindS (base index n : Word) (s : State) : State := regs [(10, base), (12, index), (14, n)] s

theorem witness_ShadowWindows :
    ([1, 0x10000000].all (fun n => ready (bindS 0x200000 0x300000 n one) (.bindw bindF) && ready (bindS 0x200000 0x300000 n flying) (.bindw bindF)) &&
     [one, flying].all (fun s => ready s (.unbindw gq 63)) && ready one (.bindw { bindF with gd := gn }) && ready one (.unbindw gn 3) &&
     one.released (grp one) .device one.nextId && !flying.released (grp flying) .device flying.nextId &&
     (let s := onP (fun p => { p with park := some (.bindw 0 3 none) }) one
      s.released (grp s) .device 0 && (s.ctx? 0).isSome) &&
     [(0, 0, 0), (0, 0, 0x10000001), (2, 0, 1), (0, 2, 1), (0, 0, 1)].all (fun x => ready (bindS x.1 x.2.1 x.2.2 flying) (.bindw bindF)) &&
     ready (regs [(11, 0x01000000)] (bindS 0 0 1 flying)) (.bindw bindF) && decide ((grp flying).trapping = none)) = true := by decide +kernel

/-- The path waits for the page at 1 GiB. -/
def missing : State := then' (.ld { ldF with addr := ⟨some (.s 0), none, none⟩ }) (regs [(0, 0x40000000)] one)
/-- It waits for a page that the tables hold. -/
def missingLow : State := onP (fun p => { p with park := some (.walk [0x10000]) }) one
def walking (page : Nat) (s : State) : State := { s with page := { s.page with walks := [{ ctx := 0, page := page, clusters := [0], since := 0 }] } }
def hostWait : State := onP (fun p => { p with park := some (.hostFault [(0x50000, 1, 0)] [0x50000] 7) }) one
def answerable : State :=
  { onP (fun p => { p with park := some (.hostFault [] [0x50000] 7), failed := [(0x50000, 1, false)] }) one with page := { one.page with pfhead := 1, recs := [{ seq := 0, ctx := 0, page := 0x50000 }] } }

theorem witness_TranslationAndFaults :
    (missing.wantsPage 0 0 0x40000000 && decide (missing.page.walks = []) && decide (pageOf 0x40000000 = 0x40000000) &&
     (walking 0x40000000 missing).wantsPage 0 0 0x40000000 &&
     (match (walking 0x10000 missingLow).walk 0 0x10000 with
       | .ok _ => true
       | .error _ => false) && decide (one.page.wcache = []) &&
     (match (walking 0x40000000 missing).walk 0 0x40000000 with
       | .ok _ => false
       | .error _ => true) &&
     decide ((pth hostWait).park = some (.hostFault [(0x50000, 1, 0)] [0x50000] 7) ∧ hostWait.page.recs = [] ∧ hostWait.page.pfhead - hostWait.page.pftail < 4096) &&
     decide (answerable.page.recs.find? (fun r => r.seq == 0) ≠ none ∧ one.page.recs.find? (fun r => r.seq == 0) = none) &&
     decide (one.page.inv.length < 16 ∧ 16 ≤ { one with page := { one.page with inv := List.replicate 16 (0, none) } }.page.inv.length) &&
     decide (∀ l ∈ answerable.launches, l.argWait = none) &&
     (let s := onL (fun l => { l with argWait := some (0x50000, 1, 3) }) one
      (s.launches.filter (fun l => l.argWait.isSome)).length == 1 && decide (s.page.recs = [] ∧ s.page.pfhead - 0 < 4096)) &&
     (let s := onP (fun p => { p with park := some (.tlwait 0x10000 0x10000 1 false false none) }) { one with page := { one.page with inv := [(0x10000, none)] } }
      decide (s.page.inv = [(0x10000, none)] ∧ (grp s).ctx = bits (0x10000 : DWord).toNat 15 8 ∧ (pth s).park.isSome) && overlap 0x10000 8 (tlbRange 0x10000).1 (tlbRange 0x10000).2) && decide (one.page.walks = []) &&
     decide (∃ w ∈ (walking 0x10000 flying).page.walks, w.ctx = 0 ∧ overlap w.page 65536 (tlbRange 0x10000).1 (tlbRange 0x10000).2 = true ∧ w.since < flying.nextId) &&
     decide (∀ o ∈ one.ops, o.ctx = 0 → one.nextId ≤ o.id) && decide (∃ o ∈ flying.ops, o.ctx = 0 ∧ o.id < flying.nextId)) = true := by decide +kernel

/-! #### Slots, packets and kernels -/

/-- Path 1 is a fragment, spilled or not. -/
def fragment (spilled : Bool) : State :=
  onG (fun g => { g with paths := g.paths.map (fun p => if p.id = 1 then { p with place := .queued 0 spilled } else p) }) (two one)
/-- Both slots are taken, and the fragment holds lane 0. -/
def three : State :=
  onG (fun g => { g with paths := [(0, 0xFFF0, Place.slot 0), (1, 0xFFFF0000, .slot 1), (2, 0xF, .queued 0 false)].map (fun x =>
    { id := x.1, pc := 4096, mask := x.2.1, stack := [], place := x.2.2, dtime := 0, park := none, windows := [], failed := [], timedOut := false }), nextPath := 3, run := 64 }) (full one)
def ending : State := onG (fun g => { g with phase := .draining, paths := [] }) one
def marked : State := onG (fun g => { g with mark := some (0, 0), markWait := 256 }) one

theorem witness_SlotsAndFragments :
    (((fragment false).group? ⟨0, 0, 0⟩).any (fun g => g.moving && decide (g.slotPath? 1 = none ∧ 1 ∈ g.vacant ∧ (0 : Fin 2) ∉ g.vacant) && decide (((fragment false).readyFragments g).map (·.id) = [1])) &&
     (let s := fragment true
      decide ((s.spilledOn 0 0).map (fun x => (x.1.id, x.2.id)) = [(⟨0, 0, 0⟩, 1)] ∧ (grp s).frame = none ∧ s.splitUsed 0 0 < 64) && ((grp s).path? 1).any (fun p => decide ((s.spilledOn 0 0).map (·.2) = [p]))) &&
     (three.group? ⟨0, 0, 0⟩).any (fun g => g.moving && (g.slotPath? 0).isSome && (g.slotPath? 1).any (fun p => decide (p.windows = [])) &&
       ((three.readyFragments g).find? (fun p => g.lowWid p.mask == g.lowWid g.live)).isSome && three.runOver g && !g.swapDue) &&
     (let s := onP (fun p => if p.id = 1 then { p with windows := [{ op := some 9, left := 2, regs := [6], old := [] }] } else p) three
      decide ((pth s).windows = []) && s.runOver (grp s)) && !(onG (fun g => { g with run := 0 }) three).runOver (grp (onG (fun g => { g with run := 0 }) three)) &&
     (ending.group? ⟨0, 0, 0⟩).any (fun g => ending.ended g) && decide ((grp one).phase ≠ .saved ∧ (grp one).lastIssue ≠ some one.clock ∧ (grp one).stalledAt ≠ some one.clock) &&
     (marked.group? ⟨0, 0, 0⟩).any (fun g => decide (g.mark = some (0, 0) ∧ g.markFirst = none ∧ 256 ≤ g.markWait))) = true := by decide +kernel

/-- Queue 0 reads packet 1 at 0x5080: a marker with one region at 0x6000, sealed with `n`. -/
def reading (n : Nat) (re : Option (Nat × Nat)) (typ : Nat) : State :=
  let s := onC (fun c => { c with queues := [(0, { q0 with st := .reading, k := 1, reread := re })] }) queued
  (((s.write 0x5080 8 (0x100 + typ)).write 0x50C0 8 0x6000).write 0x50F8 8 n).write 0x6008 8 64

def packet (s : State) (c : Nat → Bool) : Bool :=
  decide ((s.queue 0 0).st = .reading) && s.running 0 && (match s.packetBytes 0 (s.queue 0 0) with
    | .ok b => c b
    | .error _ => false)

/-- The matcher is full. -/
def matcherFull : State :=
  let s := reading 1 none 2
  { s with launches := s.launches.map (fun l => { l with regions := List.replicate 1024 { base := 0, len := 1, write := false } }) }
def waitingL (v : Nat) : State := onL (fun l => { l with st := .read, ready := false, waittl := 0x3000, waitval := v }) one
def markerL : State := onL (fun l => { l with marker := true, st := .read, ready := true, sigen := true, sigtl := 0x3000, sigval := 7 }) queued
def lateL : State :=
  let s := onC (fun c => { c with queues := [(0, { q0 with drop := true })] }) queued
  onL (fun l => { l with st := .read, deadline := 0, sten := true, status := 0x3008 }) { s with time := 1 }

theorem witness_Packets :
    (packet (reading 1 none 2) (fun b => bits (b / 2 ^ 960) 63 0 == 1 && ((reading 1 none 2).parsePacket b 0 0 1).2) && decide (((reading 1 none 2).queue 0 0).reread = none) &&
     packet (reading 1 (some (8, 0)) 2) (fun b => bits (b / 2 ^ 960) 63 0 == 1) && packet matcherFull (fun b => (matcherFull.parsePacket b 0 0 1).2) && decide (1024 < matcherFull.matcherUsed + 1) &&
     packet (reading 1 none 0) (fun b => !((reading 1 none 0).parsePacket b 0 0 1).2 && !((reading 1 none 0).parsePacket b 0 0 1).1.sten && !((reading 1 none 0).parsePacket b 0 0 1).1.sigen) &&
     packet (reading 0 (some (7, 0)) 2) (fun b => bits (b / 2 ^ 960) 63 0 == 0) && packet (reading 0 (some (8, 0)) 2) (fun b => bits (b / 2 ^ 960) 63 0 == 0) &&
     [0, 1].all (fun v => ((waitingL v).launch? 0).any (fun l => decide (l.st = .read) && !l.ready && (waitingL v).running l.ctx && (match (waitingL v).devRead l.ctx l.waittl 8 with
       | .ok w => w == 0
       | .error _ => false))) &&
     (markerL.launch? 0).any (fun l => l.marker && decide (l.st = .read) && l.ready && markerL.running l.ctx && markerL.earlierDone l && !markerL.lateDrop l && markerL.hostNamed l && !l.sten && (match markerL.timelineKey l.ctx l.sigtl with
       | .ok _ => true
       | .error _ => false)) &&
     (lateL.launch? 0).any (fun l => decide (l.st = .read ∧ l.deadline ≠ noDeadline ∧ l.deadline < lateL.time) && (lateL.queue 0 0).drop && !l.sigen && lateL.statusOk l.ctx l.status)) = true := by
  decide +kernel

/-- One kernel of one crew has been read, and nothing runs; `n` argument words stand at `a`. -/
def unplaced (n a : Nat) : State :=
  onL (fun l => { l with st := .read, nextCrew := 0, hdr := { l.hdr with nargs := n }, args := a }) { queued with groups := [], crews := [] }
/-- Its one crew has ended. -/
def done : State := { queued with groups := [] }
def atBoundary (n : Nat) : State := onL (fun l => { l with st := .boundary, abandoned := n }) { done with crews := [] }
def hostChooses (s : State) : State := onC (fun c => { c with desc := { c.desc with modes := 64 } }) s

theorem witness_Kernels :
    ((unplaced 0 0).chosen.any (fun l => decide (l.kid = 0) && ((unplaced 0 0).launch? 0).isSome && ((unplaced 0 0).placement l).isSome && (match (unplaced 0 0).argWords l.ctx l.args l.hdr.nargs with
       | .ok _ => true
       | .error _ => false)) &&
     (unplaced 1 0x40000000).chosen.any (fun l => decide (l.st = .read) && ((unplaced 1 0x40000000).placement l).isSome && (match (unplaced 1 0x40000000).argWords l.ctx l.args l.hdr.nargs with
       | .ok _ => false
       | .error _ => true)) &&
     [0, 5].all (fun w => let s := onL (fun l => { l with tw := w }) done
      (s.launch? 0).any (fun l => s.kernelDone l && s.running l.ctx) && (s.ctx? 0).any (fun x => decide (x.st = .resident))) &&
     (let s := { done with l1 := dirtyL1.l1 }
      (s.launch? 0).any (fun l => s.kernelDone l && s.running l.ctx) && !(s.emptyL1.ops.filter (fun o => o.kid == 0)).isEmpty) &&
     (done.crew? 0 0).any (fun c => done.crewDone c) &&
     (atBoundary 0).alive 0 && (atBoundary 1).alive 0 && !(onC (fun c => { c with st := .killing }) (atBoundary 0)).alive 0 &&
     ((atBoundary 0).launch? 0).any (fun l => decide (l.st = .boundary ∧ l.abandoned = 0)) && decide (∀ c ∈ (atBoundary 1).crews, c.kid ≠ 0) &&
     ((atBoundary 1).launch? 0).any (fun l => decide (l.abandonFault = false ∧ l.hostChoice = none) && !((atBoundary 1).desc 0).mode 70) &&
     ((hostChooses (atBoundary 1)).launch? 0).any (fun l => decide (l.abandoned ≠ 0) && ((hostChooses (atBoundary 1)).desc 0).mode 70) &&
     ((onL (fun l => { l with hostChoice := some true }) (atBoundary 1)).launch? 0).any (fun l => decide (l.hostChoice = some true))) = true := by decide +kernel

/-! #### Queue and context commands -/

def stQueue (st : QState) : State := onC (fun c => { c with queues := [(0, { q0 with st := st })] }) queued
/-- Queue 0's descriptor in the save area. -/
def described : State := let s := stQueue .disabled
  (s.write ((s.desc 0).save + 0x1000) 8 0x5000).write ((s.desc 0).save + 0x1008) 8 4

theorem witness_QueueCommands :
    (((described.ctx? 0).any (fun x => decide (x.st ≠ .free ∧ 0 < x.desc.nq ∧ (x.queue 0).st = .disabled) && (queueDesc (described.read (x.desc.save + 0x1000) 64)).isSome)) &&
     ((queued.ctx? 0).any (fun x => decide ((x.queue 0).st ≠ .disabled))) && (((stQueue .stopped).ctx? 0).any (fun x => decide ((x.queue 0).st = .stopped))) &&
     ((waitingL 0).launches.find? (fun l => l.ctx == 0 && l.q == 0 && l.seq % 65536 == 1 && l.st == .read)).any (fun l => decide (l.st = .read ∧ l.dispatched = none)) &&
     decide (queued.launches.find? (fun l => l.ctx == 0 && l.q == 0 && l.seq % 65536 == 2 && l.st == .read) = none) && (queued.ctx? 0).any (fun x => (x.queue 0).names 2 && !({ x.queue 0 with qrd := 65536 } : Queue).names 0x8000) &&
     ((onL (fun l => { l with dispatched := some 4 }) (waitingL 0)).launches.find? (fun l => l.ctx == 0 && l.q == 0 && l.seq % 65536 == 1 && l.st == .read)).any (fun l => decide (l.st = .read ∧ l.dispatched = some 4)) &&
     (one.launches.find? (fun l => l.ctx == 0 && l.q == 0 && l.seq % 65536 == 1 && l.st == .read)).isNone &&
     decide ((State.reset.ctxOf 0).st = .free ∧ (one.ctxOf 0).desc.nq ≤ 64 ∧ (queued.queue 0 0).st ≠ .disabled ∧ (described.queue 0 0).st = .disabled ∧ (queued.queue 0 0).st ≠ .stopped)) = true := by
  decide +kernel

/-- A legal descriptor of context 1 stands in CTXTAB. -/
def tabled : State := one.write 32 32 (2672 * 2 ^ 128 + 2 ^ 128 + 2 ^ 88 + 0x300000 + 0x400 * 2 ^ 144)
def stCtx (st : CtxState) : State := onC (fun c => { c with st := st }) { queued with groups := [], crews := [] }

theorem witness_ContextCommands :
    (decide ((tabled.ctxOf 1).st = .free) && (descOf (tabled.read (tabled.ctxtab + 32) 32)).any (fun d => d.legal && (gap tabled.chipTaken 0 (2 ^ 20) (1024 * d.xshare)).isSome) &&
     (one.ctx? 0).any (fun x => decide (x.st = .resident)) && ((stCtx .saved).ctx? 0).any (fun x => decide (x.st = .saved ∧ x.msgImage = []) && !(stCtx .saved).outranked x && ((stCtx .saved).resume x).isSome) &&
     (let s := onC (fun c => { c with st := .saved }) { queued with groups := [], crews := queued.crews.map (fun c => { c with image := some 0, stored := [grp one, { grp one with id := ⟨0, 0, 1⟩ }] }), images := [] }
      (s.ctx? 0).any (fun x => decide (x.st = .saved))) &&
     [CtxState.idle, .killed, .saving, .free, .killing].all (fun st => ((stCtx st).ctx? 0).any (fun x => decide (x.st = st)))) = true := by decide +kernel

/-- Another context was saved for time and waits for the same clusters. -/
def sliced : State :=
  let s := onC (fun c => { c with desc := { c.desc with slice := 1 } }) one
  { s with ctxs := s.ctxs ++ [{ fetchCtx with num := 1, st := .saved, timeSaved := true }], time := 10000 }
def ckptDue : State :=
  let s := onC (fun c => { c with trace := { c.trace with rplctl := 5 } }) one
  { s with time := 1000000 }
def stuckWait : State :=
  let s := onP (fun p => { p with park := some (.bar 0 false 1) }) arrived
  onC (fun c => { c with watchStart := some 0 }) { s with time := 1000000, launches := s.launches }

theorem witness_SavesAndContainment :
    ((sliced.ctx? 0).any (fun x => decide (x.st = .resident ∧ x.desc.slice ≠ 0 ∧ x.sliceStart + 10000 * x.desc.slice ≤ sliced.time) && sliced.wanted x) &&
     (ckptDue.ctx? 0).any (fun x => decide (x.replayMode = 1 ∧ x.trace.lastCkpt + x.trace.rplctl / 4 * 1000000 ≤ ckptDue.time)) &&
     (let s := onP (fun p => { p with park := some (.safept 0xFFFFFFFF) }) preempted
      s.preempting 0 && decide ((grp s).trapping = none ∧ (grp s).phase = .live ∧ ∀ p ∈ (grp s).paths, s.parked (grp s) p = true)) &&
     ((onG (fun g => { g with phase := .halted }) preempted).group? ⟨0, 0, 0⟩).any (fun g => decide (g.phase = .halted)) &&
     (let s := { preempted with time := 200000 }
      (s.ctx? 0).any (fun x => decide (x.preempt.map (fun w => decide (w.1 + 200000 ≤ s.time)) = some true)) && (grp s).savable) &&
     (let s := onG (fun g => { g with phase := .saved }) preempted
      s.saveReady 0 && (s.ctx? 0).any (fun x => decide (x.st = .saving ∧ x.trace.ckpt = false)) && s.l1.isEmpty &&
        s.allSaved 0 && (let u := { s with l1 := dirtyL1.l1 }
          u.allSaved 0 && u.l1.any (fun l => decide (l.kind = .priv 0)))) &&
     (let s := onP (fun p => { p with windows := [{ op := some 9, left := 2, regs := [6], old := [] }] }) preempted
      (grp s).windowPending && decide ((grp s).phase = .live)) &&
     (let s := onC (fun c => { c with timeSaved := true }) (stCtx .saved)
      (s.ctx? 0).any (fun x => decide (x.timeSaved = true ∧ x.msgImage = []) && (s.resume x).isSome)) &&
     (stuckWait.ctx? 0).any (fun x => stuckWait.stalled x) &&
     (let s := onC (fun c => { c with st := .killing }) one
      !s.inFlight 0 && (s.ctx? 0).any (fun x => decide (x.killTw ≤ s.time)))) = true := by decide +kernel

/-! #### Recorder, traps, service and power -/

def capsule : Capsule := { slot := 0, serial := 1, ftime := 0, dropped := 0, faults := [(0, [])], history := [(0, 5 * 256)], tenants := [(0, 5)], fwdig := [], rings := [], absent := [], spare := [] }
def freezing : State := { one with recorder := { one.recorder with freezing := [(0, 0x10)] } }
/-- Only islands that are off keep their rings from freezing. -/
def allOff : State := { freezing with svc := { freezing.svc with islandOff := (List.range 24).map (fun k => 144 + k) } }
def viewing (v : Nat) : State := { one with recorder := { one.recorder with capsules := [capsule], capreq := some v } }
def debugged (p : GPhase) : State := onG (fun g => { g with phase := p }) (onC (fun c => { c with debug := true }) one)

theorem witness_RecorderAndDebug : freezing.castFor = some (0, 0x10) ∧
    (freezing.coreOn 23 23 && !(freezing.ring 23 23).frozen && decide ((freezing.ring 23 23).head < 4096) && decide (one.recorder.freezing = []) && !allOff.coreOn 0 0 &&
     decide (allOff.recorder.freezing.map (·.1) = [0] ∧ allOff.recorder.freeSlot = some 0) && allCores.all (fun x => !allOff.coreOn x.1 x.2) &&
     decide ((viewing 0).recorder.capsules.find? (fun x => x.slot == bits 0 17 17) = some capsule) && capsule.touched.contains 5 && !capsule.touched.contains 6 && (65536 + 5).testBit 16 &&
     ((debugged .live).ctxOf 0).debug && !(one.ctxOf 0).debug && decide (((debugged .live).groups.map (·.id)).Nodup) && DbgSel.names .all 0 (grp one) && DbgSel.names (.one ⟨0, 0, 0⟩) 0 (grp one) &&
     !DbgSel.names (.one ⟨0, 0, 1⟩) 0 (grp one) && !(grp (debugged .live)).windowPending && (grp looking).windowPending && decide ((grp looking).phase = .live) &&
     [one, looking].all (fun s => decide ((grp (onG (fun g => { g with stopping := some .host }) s)).stopping = some .host)) && decide ((grp (debugged .halted)).phase = .halted) && decide ((State.reset.ctxOf 0).st ≠ .idle ∧ ((stCtx .idle).ctxOf 0).st = .idle ∧ ((stCtx .saved).ctxOf 0).st = .saved)) = true :=
  ⟨by simp [State.castFor, freezing, Nat.mod_one], by decide +kernel⟩

theorem witness_FatalTraps :
    (let s := onG (fun g => { g with hdr := { g.hdr with nv := 8, tbar := 0 } }) one
     let w := onP (fun p => { p with windows := [{ op := none, left := 2, regs := [6], old := [] }] }) one
     isEvent (.add aluV) == false && decide (one.issuer = some ((grp one).id, (pth one).id)) && (one.ctx? 0).any (fun x => decide (x.st ≠ .free ∧ x.st ≠ .killing ∧ x.st ≠ .killed)) && one.quiet (grp one) &&
     decide ((grp one).phase = .live ∧ ∀ h ∈ one.groups, h.trapping = none) && !(grp s).hdr.accepts (.add { aluV with d := .v 8 }) && !(grp s).hdr.accepts (.barArrive ⟨gp, 0, false, none⟩) && (grp one).hdr.accepts (.tlsig ⟨gq, false, true, 0, 2⟩) &&
     (Instr.tlsig ⟨gq, false, true, 0, 2⟩).info.priv && (one.ctx? 0).any (fun x => x.desc.priv) && !((onC (fun c => { c with desc := { c.desc with priv := false } }) one).desc 0).priv &&
     !(Instr.add aluV).info.priv && (grp w).hdr.accepts (.add aluV) && (pth w).windows.any (fun x => x.regs.any (fun r => (Instr.add aluV).info.dst.contains r)) && w.quiet (grp w)) = true := by
  decide +kernel

def booting (st : Nat) : State := { State.reset with boot := { State.reset.boot with state := st, len := 2 } }
/-- The image's length field is beyond the image. -/
def badImage : State := { booting 2 with boot := { (booting 2).boot with image := List.replicate 0x18 0 ++ List.replicate 4 255 ++ List.replicate 8164 0 } }
def clusterAt (st : Nat) : State := { one with svc := { one.svc with clstate := [(3, st)] } }
def busyAt (cmd island : Nat) (st : Nat) : State := { clusterAt st with svc := { (clusterAt st).svc with busy := some (cmd, island, 0) } }

/-- The image that the opaque signature check accepts cannot be computed; every other clause has its state here. -/
theorem witness_BootAndService :
    (one.boot.powered && !(next (exec .powerLoss one)).boot.powered &&
     decide ((booting 0).boot.state = 0 ∧ bits (5 : Nat) 24 1 = 2 ∧ bits (8193 : Nat) 24 1 = 4096 ∧ (booting 3).boot.state ≠ 0 ∧ (booting 4).boot.state = 4) &&
     decide ((booting 1).boot.state = 1 ∧ badImage.boot.state = 2 ∧ imageWhy badImage.boot.image badImage.boot.len ≠ 0) && [0, 1, 2].all (fun k => decide ((clusterAt k).svc.busy = none ∧ (clusterAt k).clusterState 3 = k)) &&
     decide ({ clusterAt 2 with svc := { (clusterAt 2).svc with repaired := [(3, 5)] } }.repairOf 3 = some 5) && decide ((23 : Nat) / 6 = 3 ∧ (clusterAt 2).clusterState (23 / 6) = 2) &&
     (let s := busyAt 1 147 1
      decide (s.svc.busy = some (1, 147, 0) ∧ s.clusterState 3 = 1) && decide (∀ x ∈ s.crews, x.cluster ≠ 3) && decide (∀ g ∈ s.groups, g.id.cluster ≠ 3) && decide (∀ o ∈ s.ops, o.gid.cluster ≠ 3)) &&
     [1, 2, 3, 4, 5].all (fun k => decide ((busyAt k 147 2).svc.busy = some (k, 147, 0) ∧ (busyAt k 147 2).boot.state = 3 ∧ (busyAt k 147 2).clusterState (147 - 144) = 2)) &&
     decide ((busyAt 1 147 1).clusterState (147 - 144) ≠ 2)) = true := by decide +kernel

def ramping (k e : Nat) : State := { one with power := { one.power with ramp := [(0, k, e)] } }
def spent : State := { one with power := { one.power with slots := [(0, 3)] } }

theorem witness_PowerAndErrors :
    ([0, 15, 31].all (fun k => [0, 9].all (fun e => decide ((ramping k e).power.ramp.find? (fun r => r.1 == 0) = some (0, k, e)))) && decide ((ramping 0 0).power.rampcfg ≠ 0) &&
     decide (2000 + Nat.min 8 one.power.cap * 250 < Nat.min 0xFFFF 4001 ∧ Nat.min 0xFFFF 3900 + 100 ≤ 2000 + Nat.min 8 one.power.cap * 250) &&
     spent.launches.any (fun l => decide (spent.power.slotsOf l.kid [0] ≠ 0 ∧ (spent.ctxOf l.ctx).st ≠ .saved)) && (one.ctx? 0).any (fun x => decide (x.st ≠ .free ∧ x.st ≠ .killing ∧ x.st ≠ .killed)) &&
     decide (∃ g ∈ one.groups, g.ctx = 0 ∧ quadOf g.id.cluster g.id.core = 0) && { emitting with groups := [] }.reordering 0 0 && !one.reordering (143 / 6) 0) = true := by decide +kernel

theorem witness_RegisterWrites :
    ((one.ctx? 0).any (fun x => decide (x.st ≠ .free)) && (let s := { sliced with ctxs := sliced.ctxs.map (fun (x : Ctx) => if x.num = 1 then { x with fabjob := 0x10005 } else x) }
      s.ctxs.any (fun x => decide (x.num ≠ 0) && x.fabjob.testBit 16)) && decide (one.boot.state = 3) && (dregOf 0x10000).isSome && (dregOf 0x15000).isSome && (dregOf 0x14800).isSome && (dregOf 0x16FF0).isSome) = true := by
  decide +kernel

/-! #### Steps -/

def placed : State := State.reset.withFetchWord 64 0x0060003020670200

theorem witness_StepRunsDecoded :
    ((placed.tlb? 0 0 4096).any (fun x => match placed.through 0 .fetch false x.leaf.toNat x.bits 4096 4 with
       | .ok y => y.key?.any (fun k => decide (4096 % 32 + 4 * lenWords (placed.read k 4) ≤ 32) && (match decodeWords (placed.words k (lenWords (placed.read k 4))) with
         | .ok i => decide (i = .add aluV)
         | .error _ => false))
       | .error _ => false) &&
     decide (placed.agenda = [{ ns := 0, clocks := 0, act := some (.issue 0 0 []) }]) &&
     (let u := { placed with agenda := [] }.pass 0 0
      let v := u.holdUnfetched 0 0 []
      u.boot.powered && (u.selected 0 0 []).any (fun x => decide (v.fetch x.1 x.2.pc.toNat = .instr (.add aluV)) && v.turnOf x.1 x.2 (.add aluV))) &&
     (let s := { placed with agenda := [] }
      (s.groups.findSome? (fun g => s.selected g.id.cluster g.id.core [])).any (fun x => decide (s.fetch x.1 x.2.pc.toNat = .instr (.add aluV)) && s.turnOf x.1 x.2 (.add aluV))) &&
     (let s := { placed with agenda := [], groups := [] }
      decide (s.groups.findSome? (fun g => s.selected g.id.cluster g.id.core []) = none)) &&
     (let s := onP (fun p => { p with park := some (.fetch 0) }) { placed with agenda := [] }
      decide ((pth s).fetched ≠ pth s) && (s.groups.findSome? (fun g => s.selected g.id.cluster g.id.core [])).isSome)) = true := by
  decide +kernel

/-- Storage of the placed state is canonical and its next step answers; an encoding has an instruction. -/
theorem witness_StorageStaysCanonical : Memory.wf placed.mem = true ∧ (match step placed with
    | .next t => Memory.wf t.mem
    | _ => false) = true := by decide +kernel

theorem witness_DecodingInvertsEncoding : isEvent (.add aluV) = false ∧ (Instr.add aluV).wf = true := by decide +kernel

end Sys2Proof.Tests
end

namespace Sys2Proof.Machine

/-! ## What reset leaves

The reset state's tables are empty, so a look-up in them gives the value of an entry never made. -/

/-- No context exists after reset: each number reads as the blank context. -/
@[simp] theorem State.ctxOf_reset (c : Nat) : State.reset.ctxOf c = .blank c := rfl

/-- No queue exists after reset: each reads as the blank one, whose QSTAT is zero. -/
theorem State.readReg_reset_qstat (c q : Nat) : State.reset.readReg (.qstat c q) = 0 := by
  simp [State.readReg, State.queue, Ctx.queue, Ctx.blank, Queue.off, QState.num]

/-- No port is in use and no WA entry is live after reset (R390). -/
theorem Links.link_reset (n : Nat) : State.reset.links.link n = 0 := by
  show (if n < 8 then 0 else 0) = 0
  exact ite_self 0

/-- The registers of a blank context that the reset values name (R249, R309, R390). -/
theorem State.readReg_reset_ctx (c : Nat) :
    State.reset.readReg (.ctxstat c) = 0 ∧ State.reset.readReg (.fabjob c) = 0 ∧
    State.reset.readReg (.rspill c) = 0 ∧ State.reset.readReg (.trcbase c) = 0 ∧
    State.reset.readReg (.rplctl c) = 0 := by
  simp [State.readReg, Ctx.blank, bit01, CtxState.num]

/-- No cause throttles a quad after reset: neither the cap, nor a floor, nor a ramp (R436, R437). -/
theorem State.throttle_reset (q : Nat) : State.reset.throttle q = 0 := rfl

/-- Settles O59: the empty tables answer for every number, the scalar registers by evaluation. -/
theorem resetLeaves : Obligations.ResetLeaves := by
  refine ⟨rfl, rfl, rfl, State.wf_reset, fun c => ⟨by rw [State.ctxOf_reset]; rfl, State.readReg_reset_ctx c⟩,
    State.readReg_reset_qstat, fun p => ⟨rfl, Links.link_reset p⟩, ?_⟩
  exact ⟨by decide, fun _ => rfl, by decide, by decide, by decide, by decide, by decide, by decide, by decide,
    State.throttle_reset⟩

end Sys2Proof.Machine

/-! ## What leaves storage as it is

Most functions of the model change something other than storage. Each lemma here says so of one of them, once, and
`simp` then sees through it wherever storage is asked for. -/

namespace Sys2Proof.Machine

theorem foldl_same {α β : Type} {f : State → α → State} (π : State → β) (hf : ∀ s a, π (f s a) = π s) (l : List α)
    (s : State) : π (l.foldl f s) = π s := by
  induction l generalizing s with
  | nil => rfl
  | cons a l ih => exact (ih _).trans (hf s a)

@[simp] theorem State.foldl_mem {α : Type} {f : State → α → State} (hf : ∀ s a, (f s a).mem = s.mem) (l : List α)
    (s : State) : (l.foldl f s).mem = s.mem := foldl_same State.mem hf l s

/-! ### Crews, recorded events and power -/

@[simp] theorem State.scrap_mem (s : State) (key size ctx : Nat) : (s.scrap key size ctx).mem = s.mem := by
  unfold State.scrap; split <;> rfl

@[simp] theorem State.grantPool_mem (fuel : Nat) : ∀ (s : State) (kid crew pool : Nat),
    (s.grantPool kid crew pool fuel).mem = s.mem := by
  induction fuel with
  | zero => intros; rfl
  | succ n ih =>
    intro s kid crew pool
    unfold State.grantPool
    split
    · rfl
    · split
      · rfl
      · split
        · exact ih _ kid crew pool
        · rfl

@[simp] theorem State.grantTiles_mem (s : State) : s.grantTiles.mem = s.mem := by
  refine foldl_same State.mem (fun _ _ => ?_) _ _
  refine foldl_same State.mem (fun _ _ => ?_) _ _
  split <;> simp

@[simp] theorem State.record_mem (s : State) (cluster core kind ctx slot body : Nat) :
    (s.record cluster core kind ctx slot body).mem = s.mem := rfl

@[simp] theorem State.recordG_mem (s : State) (g : Group) (kind body : Nat) :
    (s.recordG g kind body).mem = s.mem := rfl

@[simp] theorem State.sched_mem (s : State) (g : Group) (event : Nat) (mask : Mask) (pc : DWord) (arg : Nat) :
    (s.sched g event mask pc arg).mem = s.mem := rfl

@[simp] theorem State.unit_mem (s : State) (cluster core ctx code arg : Nat) :
    (s.unit cluster core ctx code arg).mem = s.mem := rfl

@[simp] theorem State.dropOwner_mem (s : State) (o : Owner) : (s.dropOwner o).mem = s.mem := rfl

@[simp] theorem State.dropResv_mem (s : State) (g : Group) : (s.dropResv g).mem = s.mem := rfl

@[simp] theorem State.setRamp_mem (s : State) (quad stage : Nat) : (s.setRamp quad stage).mem = s.mem := rfl

@[simp] theorem State.rampUp_mem (s : State) (quad : Nat) : (s.rampUp quad).mem = s.mem := by
  unfold State.rampUp
  split
  · rfl
  · split
    · split <;> rfl
    · rfl

@[simp] theorem State.rampDown_mem (s : State) (quad : Nat) : (s.rampDown quad).mem = s.mem := by
  unfold State.rampDown; split <;> rfl

@[simp] theorem State.addGroup_mem (s : State) (g : Group) : (s.addGroup g).mem = s.mem := by simp [State.addGroup]

@[simp] theorem State.removeGroup_mem (s : State) (g : Group) : (s.removeGroup g).mem = s.mem := by
  simp [State.removeGroup]

@[simp] theorem State.scrapCrew_mem (s : State) (ctx : Nat) (x : Crew) : (s.scrapCrew ctx x).mem = s.mem := by
  unfold State.scrapCrew
  split
  · rfl
  · exact foldl_same State.mem (fun _ _ => by simp) _ _

@[simp] theorem State.scrapChip_mem (s : State) (ctx : Nat) (pools : List PoolDecl) (x : Crew) :
    (s.scrapChip ctx pools x).mem = s.mem :=
  foldl_same State.mem (fun s y => by
    split
    · exact foldl_same State.mem (fun _ _ => by simp) _ s
    · rfl) _ _

@[simp] theorem State.scrapAll_mem (s : State) (ctx : Nat) (x : Crew) : (s.scrapAll ctx x).mem = s.mem := by
  unfold State.scrapAll; dsimp only; split <;> simp

@[simp] theorem State.freezeFor_mem (s : State) (f : FaultSite) (code : Code) (rec : List Byte) :
    (s.freezeFor f code rec).mem = s.mem := by
  unfold State.freezeFor; dsimp only; (repeat' split) <;> simp

@[simp] theorem State.dropStuck_mem (s : State) (g : Group) : (s.dropStuck g).mem = s.mem := by
  unfold State.dropStuck; dsimp only; split <;> simp

@[simp] theorem State.stopNow_mem (s : State) (g : Group) (r : StopReason) : (s.stopNow g r).mem = s.mem := rfl

@[simp] theorem State.debugStop_mem (s : State) (g : Group) (r : StopReason) : (s.debugStop g r).mem = s.mem := by
  unfold State.debugStop; split <;> rfl

@[simp] theorem State.recordIssue_mem (s : State) (g : Group) (p : Path) (i : Instr) :
    (s.recordIssue g p i).mem = s.mem := rfl

@[simp] theorem State.finish_mem (s : State) (i : Instr) (g0 : Group) (p0 : Path) (fin : Path → Path) :
    (s.finish i g0 p0 fin).mem = s.mem := by simp [State.finish]

@[simp] theorem State.wakeUps_mem (s : State) : s.wakeUps.mem = s.mem := by
  refine foldl_same State.mem (fun _ _ => ?_) _ _
  refine foldl_same State.mem (fun _ _ => ?_) _ _
  split
  · rfl
  · dsimp only; split <;> simp

/-! ### Operations, their parts and their tiles -/

@[simp] theorem State.modTile_mem (s : State) (t : TileRef) (f : Tile → Tile) : (s.modTile t f).mem = s.mem := rfl

@[simp] theorem State.setL1_mem (s : State) (l : L1Line) : (s.setL1 l).mem = s.mem := rfl

@[simp] theorem State.dropL1_mem (s : State) (cluster core line : Nat) :
    (s.dropL1 cluster core line).mem = s.mem := rfl

@[simp] theorem State.askFor_mem (s : State) (op cluster core : Nat) (keys : List Nat) :
    (s.askFor op cluster core keys).mem = s.mem := rfl

@[simp] theorem State.servedAbroad_mem (s : State) (op : Nat) (keys left : List Nat) :
    (s.servedAbroad op keys left).mem = s.mem := rfl

@[simp] theorem State.addOp_mem (s : State) (o : Op) (leases : List Nat) : (s.addOp o leases).mem = s.mem := rfl

@[simp] theorem State.startOp_mem (s : State) (g : Group) (o : Op) (leases : List Nat) (consume : List TileRef) :
    (s.startOp g o leases consume).mem = s.mem := by
  unfold State.startOp; dsimp only
  rw [foldl_same State.mem (fun _ _ => by simp), foldl_same State.mem (fun _ _ => by simp)]
  simp

@[simp] theorem State.recordMem_mem (s : State) (g : Group) (l : Loc) (path : Nat) (write : Bool) :
    (s.recordMem g l path write).mem = s.mem := rfl

@[simp] theorem State.releaseIngress_mem (s : State) (line : Nat) : (s.releaseIngress line).mem = s.mem := by
  unfold State.releaseIngress; split <;> rfl

@[simp] theorem State.breakResv_mem (s : State) (who : Owner) (key size : Nat) :
    (s.breakResv who key size).mem = s.mem := rfl

@[simp] theorem State.wakeTimelines_mem (s : State) (key size : Nat) : (s.wakeTimelines key size).mem = s.mem := rfl

@[simp] theorem State.markDirty_mem (s : State) (c key : Nat) : (s.markDirty c key).mem = s.mem := by
  unfold State.markDirty
  split
  · split <;> rfl
  · rfl

@[simp] theorem State.reserve_mem (s : State) (who : Owner) (key : Nat) (w64 : Bool) :
    (s.reserve who key w64).mem = s.mem := by
  unfold State.reserve; dsimp only; (repeat' split) <;> simp

@[simp] theorem State.putOp_mem (s : State) (o : Op) : (s.putOp o).mem = s.mem := rfl

@[simp] theorem State.releaseTiles_mem (s : State) (ts : List TileRef) : (s.releaseTiles ts).mem = s.mem :=
  foldl_same State.mem (fun _ _ => by simp) _ _

@[simp] theorem State.consumeTiles_mem (s : State) (ts : List TileRef) : (s.consumeTiles ts).mem = s.mem :=
  foldl_same State.mem (fun _ _ => by simp) _ _

@[simp] theorem State.settleTiles_mem (s : State) (ts : List TileRef) : (s.settleTiles ts).mem = s.mem :=
  foldl_same State.mem (fun _ _ => by simp) _ _

@[simp] theorem State.noteTw_mem (s : State) (o : Op) (tw : Nat) : (s.noteTw o tw).mem = s.mem := by
  unfold State.noteTw; split <;> simp

@[simp] theorem State.completeOp_mem (s : State) (o : Op) : (s.completeOp o).mem = s.mem := by
  unfold State.completeOp; split <;> rfl

@[simp] theorem State.updateCopy_mem (s : State) (o : Op) (p : Part) : (s.updateCopy o p).mem = s.mem := by
  unfold State.updateCopy
  split
  · rfl
  · split <;> rfl

@[simp] theorem State.replyTo_mem (s : State) (f : Req → Bool) : (s.replyTo f).mem = s.mem := rfl

@[simp] theorem State.dropReqs_mem (s : State) (o : Op) : (s.dropReqs o).mem = s.mem := rfl

@[simp] theorem State.updateCopies_mem (s : State) (o : Op) (ps : List Part) : (s.updateCopies o ps).mem = s.mem :=
  foldl_same State.mem (fun _ p => by
    split
    · split <;> simp
    · split <;> simp) ps s

@[simp] theorem State.ackPart_mem (s : State) (o : Op) (i : Nat) (p : Part) : (s.ackPart o i p).mem = s.mem := by
  unfold State.ackPart; dsimp only; (repeat' split) <;> simp

@[simp] theorem State.reorderCheck_mem (fuel : Nat) : ∀ (s : State) (kid crew : Nat),
    (s.reorderCheck kid crew fuel).mem = s.mem := by
  induction fuel with
  | zero => intros; rfl
  | succ n ih =>
    intro s kid crew
    unfold State.reorderCheck
    split
    · rfl
    · split
      · rfl
      · simp only [apply_ite State.mem, ih, State.modCrew_mem, ite_self]

/-! ### Cells, replies, waits and marks -/

@[simp] theorem State.dropDests_mem (s : State) (g : Group) (m : Mask) : (s.dropDests g m).mem = s.mem := rfl

@[simp] theorem State.pendInterrupt_mem (s : State) (r : CellRef) (c : Cell) : (s.pendInterrupt r c).mem = s.mem := by
  unfold State.pendInterrupt; dsimp only; split <;> simp

@[simp] theorem State.clearChunks_mem (s : State) (key : Nat) : (s.clearChunks key).mem = s.mem := rfl

@[simp] theorem State.chunkAdd_mem (s : State) (r : CellRef) (c : Cell) (i n : Nat) :
    (s.chunkAdd r c i n).1.mem = s.mem := by
  unfold State.chunkAdd
  split
  · rfl
  · split <;> rfl

@[simp] theorem State.cancelArm_mem (s : State) (r : CellRef) : (s.cancelArm r).mem = s.mem := rfl

@[simp] theorem State.endOp_mem (s : State) (o : Op) : (s.endOp o).mem = s.mem := by simp [State.endOp]

@[simp] theorem State.dropRecord_mem (s : State) (drop : Option Nat) : (s.dropRecord drop).mem = s.mem := by
  unfold State.dropRecord; dsimp only; (repeat' split) <;> simp

@[simp] theorem State.endPrefetch_mem (s : State) (o : Op) : (s.endPrefetch o).mem = s.mem := by
  unfold State.endPrefetch; split <;> rfl

@[simp] theorem State.sample_mem (s : State) (cluster : Nat) : (s.sample cluster).mem = s.mem := rfl

@[simp] theorem State.coalesce_mem (s : State) : s.coalesce.mem = s.mem :=
  foldl_same State.mem (fun _ _ => by split <;> rfl) s.reqs s

@[simp] theorem State.takeReplies_mem (s : State) : s.takeReplies.mem = s.mem := by
  unfold State.takeReplies; split <;> rfl

@[simp] theorem State.modOwn_mem (s : State) (g : Group) (f : Crew → Crew) : (s.modOwn g f).mem = s.mem := rfl

@[simp] theorem State.showSlots_mem (s : State) (g : Group) (h : Word) (places : List (Nat × Nat)) :
    (s.showSlots g h places).mem = s.mem := foldl_same State.mem (fun _ _ => by simp) _ _

@[simp] theorem State.parkOn_mem (s : State) (i : GroupId) (path : Nat) (k : Park) :
    (s.parkOn i path k).mem = s.mem := by simp [State.parkOn]

@[simp] theorem State.unpark_mem (s : State) (i : GroupId) (path : Nat) : (s.unpark i path).mem = s.mem := by
  simp [State.unpark]

@[simp] theorem State.moveMarks_mem (s : State) : s.moveMarks.mem = s.mem := rfl

@[simp] theorem State.stallOne_mem (s : State) (i : GroupId) : (s.stallOne i).mem = s.mem := by
  unfold State.stallOne; dsimp only; (repeat' split) <;> simp

@[simp] theorem State.countMark_mem (s : State) (g : Group) : (s.countMark g).mem = s.mem := by
  unfold State.countMark; split <;> rfl

/-! ### Queues, pages and launches -/

@[simp] theorem State.err_mem (s : State) (c : Nat) : (s.err c).mem = s.mem := by unfold State.err; split <;> rfl

@[simp] theorem State.addLog_mem (s : State) (c src : Nat) (item : List Nat) : (s.addLog c src item).mem = s.mem := by
  simp [State.addLog]

@[simp] theorem State.setQueueOf_mem (s : State) (c q : Nat) (x : Queue) : (s.setQueueOf c q x).mem = s.mem := by
  simp [State.setQueueOf]

@[simp] theorem State.stopQueue_mem (s : State) (c q : Nat) (x : Queue) (code : Code) :
    (s.stopQueue c q x code).mem = s.mem := by simp [State.stopQueue]

@[simp] theorem State.kick_mem (s : State) (c q v : Nat) : (s.kick c q v).mem = s.mem := by
  unfold State.kick; dsimp only; (repeat' split) <;> simp

@[simp] theorem State.ringBells_mem (s : State) : s.ringBells.mem = s.mem :=
  foldl_same State.mem (fun _ _ => by simp) _ _

@[simp] theorem State.countSent_mem (s : State) (op : Nat) : (s.countSent op).mem = s.mem := by
  unfold State.countSent
  split
  · rfl
  · split <;> simp

@[simp] theorem State.sendKick_mem (s : State) (op : Nat) : (s.sendKick op).mem = s.mem := by simp [State.sendKick]

@[simp] theorem State.sendSignal_mem (s : State) (op : Nat) : (s.sendSignal op).mem = s.mem := by
  unfold State.sendSignal; dsimp only; split <;> simp

@[simp] theorem State.cacheLeaf_mem (s : State) (t : TlbLeaf) : (s.cacheLeaf t).mem = s.mem := rfl

@[simp] theorem State.failPage_mem (s : State) (c page level : Nat) (clusters : List Nat) :
    (s.failPage c page level clusters).mem = s.mem := rfl

@[simp] theorem State.resumePrefetch_mem (s : State) (o : Op) (page : Nat) :
    (s.resumePrefetch o page).mem = s.mem := by unfold State.resumePrefetch; dsimp only; split <;> simp

@[simp] theorem State.resumePrefetches_mem (s : State) (c page : Nat) (clusters : List Nat) :
    (s.resumePrefetches c page clusters).mem = s.mem := foldl_same State.mem (fun _ _ => by split <;> simp) s.ops s

@[simp] theorem State.loseKeys_mem (s : State) (c lo n : Nat) : (s.loseKeys c lo n).mem = s.mem := rfl

@[simp] theorem State.bindSlot_mem (s : State) (c slot : Nat) (b : Option (Nat × Nat × Nat × Nat)) :
    (s.bindSlot c slot b).mem = s.mem := by simp [State.bindSlot]

@[simp] theorem State.takeSlot_mem (s : State) (i : GroupId) : (s.takeSlot i).1.mem = s.mem := rfl

@[simp] theorem State.newGroup_mem (s : State) (l : Launch) (args : List Word) (cluster core f1 n : Nat) :
    (s.newGroup l args cluster core f1 n).mem = s.mem := by
  unfold State.newGroup
  split
  · rfl
  · simp

@[simp] theorem State.startLaunch_mem (s : State) (l : Launch) : (s.startLaunch l).mem = s.mem := by
  simp [State.startLaunch]

@[simp] theorem State.dropClass6_mem (s : State) (ctx : Nat) : (s.dropClass6 ctx).mem = s.mem := rfl

@[simp] theorem State.reclaim_mem (s : State) (l : Launch) (c : Crew) : (s.reclaim l c).mem = s.mem :=
  foldl_same State.mem (fun _ _ => by dsimp only; split <;> simp) _ s

@[simp] theorem State.removeCrew_mem (s : State) (l : Launch) (c : Crew) : (s.removeCrew l c).mem = s.mem := by
  simp [State.removeCrew]

/-! ### Links, packets and the matrix engine -/

@[simp] theorem State.moveLink_mem (s : State) (n st : Nat) : (s.moveLink n st).mem = s.mem := rfl

@[simp] theorem State.loseReqs_mem (s : State) (f : Req → Bool) : (s.loseReqs f).mem = s.mem :=
  foldl_same State.mem (fun _ _ => by simp) _ _

@[simp] theorem State.setGone_mem (s : State) (op n : Nat) : (s.setGone op n).mem = s.mem := rfl

@[simp] theorem State.sendGone_mem (s : State) (h : Held) (n : Nat) : (s.sendGone h n).mem = s.mem := by
  unfold State.sendGone; split <;> rfl

@[simp] theorem State.dropHeld_mem (s : State) (n : Nat) : (s.dropHeld n).mem = s.mem := rfl

@[simp] theorem State.discardPacket_mem (s : State) (p : PktHeader) (reason : Nat) :
    (s.discardPacket p reason).mem = s.mem := rfl

@[simp] theorem State.departBy_mem (s : State) (r : Req) (link cls : Nat) : (s.departBy r link cls).mem = s.mem := rfl

@[simp] theorem State.sendOn_mem (s : State) (op : Nat) : (s.sendOn op).mem = s.mem := rfl

@[simp] theorem State.leaveBy_mem (s : State) (port cls : Nat) (h : Held) (data : List Byte) :
    (s.leaveBy port cls h data).mem = s.mem := rfl

@[simp] theorem State.answer_mem (s : State) (k : PktHeader) (typ : Nat) (data : List Byte) (code tw : Nat) :
    (s.answer k typ data code tw).mem = s.mem := rfl

@[simp] theorem State.endReceive_mem (s : State) (op : Nat) : (s.endReceive op).mem = s.mem := by
  unfold State.endReceive; split <;> simp

@[simp] theorem State.discardWrite_mem (s : State) (ctx src pa : Nat) : (s.discardWrite ctx src pa).mem = s.mem := rfl

@[simp] theorem State.modEngine_mem (s : State) (n : Nat) (f : Engine → Engine) : (s.modEngine n f).mem = s.mem := rfl

@[simp] theorem State.pushMeta_mem (o : Op) (q : Nat) (l : List Nat) :
    ∀ s : State, (s.pushMeta o q l).1.mem = s.mem := by
  induction l with
  | nil => exact fun _ => rfl
  | cons v rest ih =>
    intro s
    unfold State.pushMeta
    dsimp only
    split
    · rfl
    · exact ih _

@[simp] theorem State.popMeta_mem (s : State) (n : Nat) (x : MatEntry) (q : Nat) :
    (s.popMeta n x q).1.mem = s.mem := by
  unfold State.popMeta
  dsimp only
  split
  · rfl
  · split
    · rfl
    · split <;> rfl

@[simp] theorem State.bindTiles_mem (s : State) (g : Group) (mask : BitVec 4) :
    (s.bindTiles g mask).mem = s.mem := rfl

@[simp] theorem State.addEntry_mem (s : State) (g : Group) (p : Path) (z : Nat) (op : MatOp) :
    (s.addEntry g p z op).mem = s.mem := rfl

@[simp] theorem State.eat_mem (s : State) (ts : List TileRef) : (s.eat ts).mem = s.mem := by
  unfold State.eat; dsimp only
  rw [State.settleTiles_mem, State.consumeTiles_mem]
  exact foldl_same State.mem (fun _ _ => by simp) ts s

@[simp] theorem State.endMatrix_mem (s : State) (o : Op) : (s.endMatrix o).mem = s.mem := by simp [State.endMatrix]

/-! ### Contexts, debugging, service and the turn -/

@[simp] theorem State.scrapShare_mem (s : State) (c : Ctx) : (s.scrapShare c).mem = s.mem := by
  unfold State.scrapShare
  split
  · rfl
  · exact foldl_same State.mem (fun _ _ => by simp) _ s

@[simp] theorem State.releaseQueues_mem (s : State) (c : Nat) : (s.releaseQueues c).mem = s.mem :=
  foldl_same State.mem (fun _ _ => by dsimp only; split <;> simp) _ s

@[simp] theorem State.startSave_mem (s : State) (c : Nat) (time : Bool) : (s.startSave c time).mem = s.mem := by
  simp [State.startSave]

@[simp] theorem State.askAgain_mem (s : State) (g : Group) : (s.askAgain g).mem = s.mem :=
  foldl_same State.mem (fun _ _ => by
    dsimp only
    split
    · simp
    · split
      · simp
      · split <;> simp
    · rfl) _ s

@[simp] theorem State.watch_mem (s : State) : s.watch.mem = s.mem := rfl

@[simp] theorem State.setFifo_mem (s : State) (cluster core : Nat) (l : List (Nat × List Nat)) :
    (s.setFifo cluster core l).mem = s.mem := rfl

@[simp] theorem State.tracePut_mem (s : State) (g : Group) (payload word2 : Nat) :
    (s.tracePut g payload word2).mem = s.mem := by unfold State.tracePut; dsimp only; split <;> simp

@[simp] theorem State.resumeStop_mem (s : State) (g : Group) (step : Bool) : (s.resumeStop g step).mem = s.mem := by
  unfold State.resumeStop; split <;> rfl

@[simp] theorem State.stepStops_mem (s : State) : s.stepStops.mem = s.mem :=
  foldl_same State.mem (fun _ _ => by dsimp only; split <;> simp) _ s

@[simp] theorem State.setCluster_mem (s : State) (c v : Nat) : (s.setCluster c v).mem = s.mem := rfl

@[simp] theorem State.svcErr_mem (s : State) : s.svcErr.mem = s.mem := rfl

@[simp] theorem State.svcBusy_mem (s : State) (cmd island arg : Nat) : (s.svcBusy cmd island arg).mem = s.mem := rfl

@[simp] theorem State.checkModule_mem (s : State) (cluster addr : Nat) :
    (s.checkModule cluster addr).mem = s.mem := by
  simp only [State.checkModule, apply_ite State.mem, State.svcErr_mem, ite_self]

@[simp] theorem State.redirect_mem (s : State) (old new : Nat) (which : Nat → Bool) :
    (s.redirect old new which).mem = s.mem := rfl

@[simp] theorem State.handOver_mem (s : State) (old new : Nat) (which : Nat → Bool) :
    (s.handOver old new which).mem = s.mem := rfl

@[simp] theorem State.cycleEnd_mem (s : State) (island : Nat) : (s.cycleEnd island).mem = s.mem := by
  unfold State.cycleEnd; split <;> rfl

@[simp] theorem State.divideEnergy_mem (s : State) (island nj : Nat) : (s.divideEnergy island nj).mem = s.mem := by
  unfold State.divideEnergy; dsimp only; (repeat' split) <;> simp

@[simp] theorem State.writeStitch_mem (s : State) (v : Nat) : (s.writeStitch v).mem = s.mem := rfl

@[simp] theorem State.popLog_mem (s : State) (c src : Nat) : (s.popLog c src).mem = s.mem := by simp [State.popLog]

@[simp] theorem State.afterIssue_mem (s : State) (turn : Option LogKey) (g : Group) (p : Path) (i : Instr) :
    (s.afterIssue turn g p i).mem = s.mem := by
  unfold State.afterIssue; dsimp only; (repeat' split) <;> simp

@[simp] theorem State.breakStops_mem (s : State) : s.breakStops.mem = s.mem :=
  foldl_same State.mem (fun _ _ => by simp) _ _

@[simp] theorem State.holdExcluded_mem (s : State) : s.holdExcluded.mem = s.mem :=
  foldl_same State.mem (fun _ _ => by simp) _ _

@[simp] theorem State.holdUnfetched_mem (s : State) (cluster core : Nat) (unf : List (Nat × Fin 2)) :
    (s.holdUnfetched cluster core unf).mem = s.mem := foldl_same State.mem (fun _ _ => by simp) _ _

end Sys2Proof.Machine

/-! ## Storage stays canonical

Storage is written by single bytes, by the zeroing and the copying of ranges, and by reset; each keeps the canonical
form (`State.wf_setByte` and its neighbours). `Canonical.f` carries that up to the function `f` of the model: where
the storage that `f` starts from is canonical, so is the storage that it leaves. The lemmas follow the order in which
the model defines the functions. -/

namespace Sys2Proof.Machine

/-- Storage in its canonical form: one list for one memory (log 4). -/
def Canonical (m : SMap Byte) : Prop := Memory.wf m = true

/-- An outcome whose next state, if there is one, has canonical storage. -/
def CanonicalNext : Host.Outcome State Fault Refusal → Prop
  | .next t => Canonical t.mem
  | _ => True

/-- The same of what an instruction's own part answers: the state that it leaves, and what follows the issue. -/
def Res.Canonical : Res → Prop
  | .done s | .long s _ | .jump s _ | .placed s | .wait s _ => Machine.Canonical s.mem
  | .after s k => Machine.Canonical s.mem ∧ ∀ t g, Machine.Canonical t.mem → Machine.Canonical (k t g).mem
  | _ => True

@[simp] theorem canonicalNext_next {s : State} : CanonicalNext (.next s) ↔ Canonical s.mem := .rfl

section
variable {s : State}

@[simp] theorem Res.canonical_done : (Res.done s).Canonical ↔ Machine.Canonical s.mem := .rfl
@[simp] theorem Res.canonical_long {o : Option Nat} : (Res.long s o).Canonical ↔ Machine.Canonical s.mem := .rfl
@[simp] theorem Res.canonical_jump {pc : DWord} : (Res.jump s pc).Canonical ↔ Machine.Canonical s.mem := .rfl
@[simp] theorem Res.canonical_placed : (Res.placed s).Canonical ↔ Machine.Canonical s.mem := .rfl
@[simp] theorem Res.canonical_wait {k : Park} : (Res.wait s k).Canonical ↔ Machine.Canonical s.mem := .rfl
@[simp] theorem Res.canonical_after {k : State → Group → State} : (Res.after s k).Canonical ↔
    Machine.Canonical s.mem ∧ ∀ t g, Machine.Canonical t.mem → Machine.Canonical (k t g).mem := .rfl
@[simp] theorem Res.canonical_hold {r : Nat} {m : Bool} : (Res.hold r m).Canonical := trivial
@[simp] theorem Res.canonical_trap {c : Code} {lane detail va : Nat} :
    (Res.trap c lane detail va).Canonical := trivial
@[simp] theorem Res.canonical_raise {t : TrapReq} : (Res.raise t).Canonical := trivial

end

theorem Canonical.of_mem {s t : State} (h : Canonical s.mem) (e : t.mem = s.mem) : Canonical t.mem := by
  rw [e]; exact h

/-- What every step of a fold keeps, the fold keeps. -/
theorem Canonical.foldl {α : Type} {f : State → α → State} {l : List α} {s : State} (h : Canonical s.mem)
    (hf : ∀ s a, Canonical s.mem → Canonical (f s a).mem) : Canonical (l.foldl f s).mem := by
  induction l generalizing s with
  | nil => exact h
  | cons a l ih => exact ih (hf s a h)

theorem Canonical.ite {c : Prop} [Decidable c] {s t : State} (hs : Canonical s.mem) (ht : Canonical t.mem) :
    Canonical (if c then s else t).mem := by
  split
  · exact hs
  · exact ht

theorem Canonical.foldl_fst {α β : Type} {f : State × β → α → State × β} {l : List α} {x : State × β}
    (h : Canonical x.1.mem) (hf : ∀ x a, Canonical x.1.mem → Canonical (f x a).1.mem) :
    Canonical (l.foldl f x).1.mem := by
  induction l generalizing x with
  | nil => exact h
  | cons a l ih => exact ih (hf x a h)

/-! ### The writes of storage -/

@[simp] theorem Canonical.setByte {s : State} {key : Nat} {b : Byte} (h : Canonical s.mem) :
    Canonical (s.setByte key b).mem :=
  s.wf_setByte key b h

@[simp] theorem Canonical.write {s : State} {key n v : Nat} (h : Canonical s.mem) : Canonical (s.write key n v).mem :=
  State.wf_write n key v h

@[simp] theorem Canonical.writeMasked {s : State} {key mask n v : Nat} (h : Canonical s.mem) :
    Canonical (s.writeMasked key mask n v).mem :=
  State.wf_writeMasked n key mask v h

@[simp] theorem Canonical.zero {s : State} {key n : Nat} (h : Canonical s.mem) : Canonical (s.zero key n).mem :=
  s.wf_zero key n h

@[simp] theorem Canonical.writeBytes {s : State} {key : Nat} {l : List Byte} (h : Canonical s.mem) :
    Canonical (s.writeBytes key l).mem :=
  State.wf_writeBytes l key h

@[simp] theorem Canonical.setCell {s : State} {r : CellRef} {c : Cell} (h : Canonical s.mem) :
    Canonical (s.setCell r c).mem := by
  simp [State.setCell, h]

@[simp] theorem Canonical.writeWords {s : State} {key : Nat} {l : List Nat} (h : Canonical s.mem) :
    Canonical (s.writeWords key l).mem :=
  State.wf_writeWords l s key h

/-! ### Traps, containment and parking -/

@[simp] theorem Canonical.exitRecord {s : State} {g : Group} {reordered killed : Bool} (h : Canonical s.mem) :
    Canonical (s.exitRecord g reordered killed).mem := by
  simp [State.exitRecord, h]

@[simp] theorem Canonical.contain {s : State} {c : Nat} {fault : Option (Nat × Code)} (h : Canonical s.mem) :
    Canonical (s.contain c fault).mem := by
  simp only [State.contain, State.modCtx_mem, State.foldl_mem, State.rampDown_mem, State.scrapAll_mem, implies_true]
  exact h.foldl fun _ _ h => h.exitRecord

@[simp] theorem Canonical.fatal {s : State} {f : FaultSite} {code : Code} {info : Nat} (h : Canonical s.mem) :
    Canonical (s.fatal f code info).mem := by
  unfold State.fatal
  dsimp only
  (repeat' split) <;> simp [h]

@[simp] theorem Canonical.fatalCtx {s : State} {c : Nat} {code : Code} {kid : Nat} (h : Canonical s.mem) :
    Canonical (s.fatalCtx c code kid).mem := by
  unfold State.fatalCtx
  dsimp only
  split <;> simp [h]

@[simp] theorem Canonical.takeTrap {s : State} {g : Group} {t : TrapReq} (h : Canonical s.mem) :
    Canonical (s.takeTrap g t).mem := by
  unfold State.takeTrap
  dsimp only
  (repeat' split) <;> simp [h]

@[simp] theorem Canonical.trap {s : State} {g : Group} {t : TrapReq} (h : Canonical s.mem) :
    Canonical (s.trap g t).mem := by
  unfold State.trap
  (repeat' split) <;> simp [h]

@[simp] theorem Canonical.keepRecord {s : State} {g : Group} {p : Path} (h : Canonical s.mem) :
    Canonical (s.keepRecord g p).mem := by
  simp [State.keepRecord, h]

@[simp] theorem Canonical.keepDeep {s : State} {g : Group} {p : Path} (h : Canonical s.mem) :
    Canonical (s.keepDeep g p).mem := by
  simp [State.keepDeep, h]

@[simp] theorem Canonical.queueAt {s : State} {time : Nat} {g : Group} {p : Path} (h : Canonical s.mem) :
    Canonical (s.queueAt time g p).1.mem := by
  unfold State.queueAt
  dsimp only
  split
  · exact Canonical.keepRecord (Canonical.keepDeep h)
  · exact Canonical.keepDeep h

@[simp] theorem Canonical.queuePath {s : State} {g : Group} {p : Path} (h : Canonical s.mem) :
    Canonical (s.queuePath g p).1.mem := h.queueAt

@[simp] theorem Canonical.queueDetached {s : State} {i : GroupId} (h : Canonical s.mem) :
    Canonical (s.queueDetached i).mem := by
  unfold State.queueDetached
  split
  · exact h
  · refine h.foldl fun s p h => ?_
    split
    · exact h
    · simp only [State.modGroup_mem]
      exact h.queueAt

@[simp] theorem Canonical.parkPath {s : State} {gid : GroupId} {pid : Nat} {k : Park} {ends : Bool}
    (h : Canonical s.mem) : Canonical (s.parkPath gid pid k ends).mem := by
  unfold State.parkPath
  split
  · exact h
  · split
    · exact h
    · extract_lets t q
      have ht : Canonical t.mem := Canonical.ite (h.of_mem (State.sched_mem ..)) h
      exact Canonical.ite (Canonical.of_mem ht.queuePath (State.modGroup_mem ..)) (ht.of_mem (State.setGroup_mem ..))

@[simp] theorem Canonical.trapAt {s : State} {g : Group} {p : Path} {c : Code} {va : Nat} (h : Canonical s.mem) :
    Canonical (s.trapAt g p c va).mem := by
  simp [State.trapAt, h]

/-! ### The save area's images -/

@[simp] theorem Canonical.freeBytes {n : Nat} :
    ∀ {s : State} {key : Nat}, Canonical s.mem → Canonical (s.freeBytes key n).mem := by
  induction n with
  | zero => exact fun h => h
  | succ n ih => exact fun h => ih h.setByte

@[simp] theorem Canonical.keepGroup {s : State} {g : Group} (h : Canonical s.mem) :
    Canonical (s.keepGroup g).mem := by
  unfold State.keepGroup
  exact ((((h.foldl fun _ _ h => h.zero).foldl fun _ _ h => h.zero).foldl fun _ _ h => h.write).foldl
    fun _ _ h => h.write).freeBytes

@[simp] theorem Canonical.keepTile {s : State} {key : Nat} {t : AccTile} (h : Canonical s.mem) :
    Canonical (s.keepTile key t).mem := by
  unfold State.keepTile
  exact h.zero.foldl fun _ _ h => h.write

@[simp] theorem Canonical.keepEngine {s : State} {d : Desc} {cluster quad : Nat} {mine : GroupId → Bool}
    (h : Canonical s.mem) : Canonical (s.keepEngine d cluster quad mine).mem := by
  unfold State.keepEngine
  dsimp only
  split
  · exact h
  · exact (h.foldl fun _ _ h => h.keepTile).freeBytes

@[simp] theorem Canonical.keepCells {s : State} {d : Desc} {cluster core : Nat} {mine : Nat → Bool}
    (h : Canonical s.mem) : Canonical (s.keepCells d cluster core mine).mem := by
  refine h.foldl fun _ _ h => ?_
  simp [h]

@[simp] theorem Canonical.keepMessage {s : State} {d : Desc} {cluster n : Nat} {k : PktHeader} (h : Canonical s.mem) :
    Canonical (s.keepMessage d cluster n k).mem := by
  unfold State.keepMessage
  split
  · exact h
  · exact h.write.freeBytes.writeBytes

@[simp] theorem Canonical.keepBarriers {s : State} {c cluster : Nat} (h : Canonical s.mem) :
    Canonical (s.keepBarriers c cluster).mem := by
  refine h.foldl fun _ _ h => ?_
  simp [h]

@[simp] theorem Canonical.keepPosted {s : State} {c cluster : Nat} (h : Canonical s.mem) :
    Canonical (s.keepPosted c cluster).mem := by
  refine h.foldl fun _ _ h => ?_
  simp [h]

@[simp] theorem Canonical.keepLaunches {s : State} {c cluster : Nat} (h : Canonical s.mem) :
    Canonical (s.keepLaunches c cluster).mem := by
  simp [State.keepLaunches, h]

/-! ### Accesses and the cached lines -/

@[simp] theorem Canonical.applyStore {s : State} {who : Owner} {key size v : Nat} (h : Canonical s.mem) :
    Canonical (s.applyStore who key size v).mem := by
  simp [State.applyStore, h]

@[simp] theorem Canonical.perform {s : State} {kind : OpKind} {p : Part} (h : Canonical s.mem) :
    Canonical (s.perform kind p).1.mem := by
  unfold State.perform
  dsimp only
  (repeat' split) <;> simp [h]

@[simp] theorem Canonical.performParts {s : State} {o : Op} {f : Nat → Part → Bool} (h : Canonical s.mem) :
    Canonical (s.performParts o f).1.mem := by
  refine Canonical.foldl_fst (x := (s, [])) h fun x a hx => ?_
  split
  · exact hx.perform
  · exact hx

@[simp] theorem Canonical.pullBacks {s : State} {cluster core key n : Nat} (h : Canonical s.mem) :
    Canonical (s.pullBacks cluster core key n).mem :=
  h.foldl fun _ _ h => h.performParts (f := fun _ p => overlap key n p.key p.size)

@[simp] theorem Canonical.writeBack {s : State} {l : L1Line} {who : Nat → Owner} {mask : Nat} (h : Canonical s.mem) :
    Canonical (s.writeBack l who mask).mem := by
  unfold State.writeBack
  dsimp only
  (repeat' split) <;> simp [h]

@[simp] theorem Canonical.evictLine {s : State} {l : L1Line} (h : Canonical s.mem) :
    Canonical (s.evictLine l).mem := by
  unfold State.evictLine
  split <;> simp [h]

@[simp] theorem Canonical.installL1 {s : State} {l : L1Line} (h : Canonical s.mem) :
    Canonical (s.installL1 l).mem := by
  unfold State.installL1
  (repeat' split) <;> simp [h]

@[simp] theorem Canonical.privStore {s : State} {g : Group} {key size v : Nat} (h : Canonical s.mem) :
    Canonical (s.privStore g key size v).mem := by
  simp [State.privStore, h]

@[simp] theorem Canonical.keepAbroad {s : State} {o : Op} (h : Canonical s.mem) : Canonical (s.keepAbroad o).mem := by
  refine h.foldl fun _ _ h => ?_
  split <;> simp [h]

@[simp] theorem Canonical.deliverPath {s : State} {o : Op} {k : Nat} (h : Canonical s.mem) :
    Canonical (s.deliverPath o k).mem := by
  unfold State.deliverPath
  dsimp only
  (repeat' split) <;> simp [h]

@[simp] theorem Canonical.deliver {s : State} {o : Op} (h : Canonical s.mem) : Canonical (s.deliver o).mem := by
  unfold State.deliver
  split
  next t o' hp =>
  have ht : Canonical t.mem := (congrArg (fun p => Canonical p.1.mem) hp).mp h.performParts
  extract_lets u v w x consume y z a
  have hu : Canonical u.mem := by
    refine ht.of_mem ?_
    unfold u
    split
    · rfl
    · split
      · exact State.setGroup_mem ..
      · rfl
  have hv : Canonical v.mem := Canonical.ite (hu.of_mem (State.noteTw_mem ..)) hu
  have hw : Canonical w.mem := hv.keepAbroad.of_mem (State.updateCopies_mem ..)
  have ha : Canonical a.mem := hw.of_mem (by simp [a, z, y, x])
  exact Canonical.ite ha ha

@[simp] theorem Canonical.returnPrivate {s : State} {ctx : Nat} {c : Crew} {privw : Nat} {ts : List Thread}
    (h : Canonical s.mem) : Canonical (s.returnPrivate ctx c privw ts).mem := by
  refine h.foldl fun _ _ h => ?_
  dsimp only
  (repeat' split) <;> simp [h]

/-! ### Barriers, reconvergence and exit -/

@[simp] theorem Canonical.setAph {s : State} {key k : Nat} {b : Bool} (h : Canonical s.mem) :
    Canonical (s.setAph key k b).mem := by
  simp [State.setAph, h]

@[simp] theorem Canonical.rewriteAph {s : State} {c : Crew} {size : Nat} {team : Option Nat} {b : Nat} {ph : Bool}
    (h : Canonical s.mem) : Canonical (s.rewriteAph c size team b ph).mem := by
  unfold State.rewriteAph
  exact h.foldl fun _ _ h => h.foldl fun _ _ h => h.setAph

@[simp] theorem Canonical.imageStep {s : State} {kid : Nat} {c : Crew} (h : Canonical s.mem) :
    Canonical (s.imageStep kid c).mem := by
  unfold State.imageStep
  split <;> simp [h]

@[simp] theorem Canonical.barStep {s : State} {kid crew : Nat} {team : Option Nat} {b : Nat} {e : BarEntry}
    (h : Canonical s.mem) : Canonical (s.barStep kid crew team b e).mem := by
  unfold State.barStep
  split
  · exact h
  · exact Canonical.ite (Canonical.imageStep (Canonical.of_mem h.rewriteAph (State.modCrew_mem ..)))
      (Canonical.imageStep (h.of_mem (State.modCrew_mem ..)))

@[simp] theorem Canonical.barExit {s : State} {kid crew : Nat} {t : Thread} {team : Option Nat} {b : Nat}
    (h : Canonical s.mem) : Canonical (s.barExit kid crew t team b).mem := by
  unfold State.barExit
  (repeat' split) <;> simp [h]

@[simp] theorem Canonical.barExits {s : State} {kid crew : Nat} {hd : Header} {t : Thread} (h : Canonical s.mem) :
    Canonical (s.barExits kid crew hd t).mem := by
  unfold State.barExits
  exact (h.foldl fun _ _ h => h.barExit).foldl fun _ _ h => h.barExit

@[simp] theorem Canonical.fuse {s : State} {gid : GroupId} {k : Fin 16} {arrival : Option Nat} (h : Canonical s.mem) :
    Canonical (s.fuse gid k arrival).mem := by
  unfold State.fuse
  split
  · exact h
  · dsimp only
    split
    · exact h
    · refine Canonical.ite h.trap ?_
      split
      · exact h
      · rw [State.modGroup_mem]
        exact Canonical.queuePath h

@[simp] theorem Canonical.fuseAll {s : State} {gid : GroupId} (h : Canonical s.mem) :
    Canonical (s.fuseAll gid).mem := by
  refine h.foldl fun _ _ h => ?_
  dsimp only
  (repeat' split) <;> simp [h]

@[simp] theorem Canonical.raiseMark {s : State} {g : Group} {t : AccTile} {path : Option Nat} (h : Canonical s.mem) :
    Canonical (s.raiseMark g t path).mem := by
  unfold State.raiseMark
  split <;> simp [h]

@[simp] theorem Canonical.raiseDraining {s : State} {i : GroupId} (h : Canonical s.mem) :
    Canonical (s.raiseDraining i).mem := by
  unfold State.raiseDraining
  (repeat' split) <;> simp [h]

@[simp] theorem Canonical.disarm {s : State} {g : Group} {r : CellRef} (h : Canonical s.mem) :
    Canonical (s.disarm g r).mem := by
  unfold State.disarm
  dsimp only
  split <;> simp [h]

@[simp] theorem Canonical.lastExit {s : State} {gid : GroupId} (h : Canonical s.mem) :
    Canonical (s.lastExit gid).mem := by
  unfold State.lastExit
  split
  · exact h
  · split
    · exact h
    · refine Canonical.raiseDraining ?_
      simp only [State.dropResv_mem, State.setGroup_mem]
      exact h.foldl fun _ _ h => h.disarm

@[simp] theorem Canonical.exitLanes {s : State} {gid : GroupId} {m : Mask} (h : Canonical s.mem) :
    Canonical (s.exitLanes gid m).mem := by
  unfold State.exitLanes
  split
  · exact h
  · simp only [State.reorderCheck_mem]
    refine Canonical.lastExit (Canonical.fuseAll (Canonical.foldl ?_ fun _ _ h => h.barExits))
    simp only [State.setGroup_mem, State.dropDests_mem]
    exact h.of_mem (State.foldl_mem (fun _ _ => State.dropOwner_mem _ _) _ _)

/-! ### Completion cells and copies -/

@[simp] theorem Canonical.cellStep {s : State} {r : CellRef} {c : Cell} (h : Canonical s.mem) :
    Canonical (s.cellStep r c).mem := by
  unfold State.cellStep
  dsimp only
  (repeat' split) <;> simp [h]

@[simp] theorem Canonical.pullOwn {s : State} {g : Group} {key size : Nat} (h : Canonical s.mem) :
    Canonical (s.pullOwn g key size).mem := by
  refine h.foldl fun _ _ h => ?_
  split <;> simp [h]

@[simp] theorem Canonical.vector {s : State} {g : Group} (h : Canonical s.mem) : Canonical (s.vector g).mem := by
  unfold State.vector
  split
  · exact h
  · exact Canonical.ite h (Canonical.trap (h.of_mem (State.setGroup_mem ..)))

@[simp] theorem Canonical.copyWrite {s : State} {ctx : Nat} {cs : List Copy} {c : Copy} {key v : Nat}
    (h : Canonical s.mem) : Canonical (s.copyWrite ctx cs c key v).mem := by
  simp [State.copyWrite, h]

@[simp] theorem Canonical.copyAll {s : State} {ctx : Nat} {cs mine : List Copy} (h : Canonical s.mem) :
    Canonical (s.copyAll ctx cs mine).mem := by
  unfold State.copyAll
  exact h.foldl fun _ _ h => h.foldl fun _ _ h => h.copyWrite

@[simp] theorem Canonical.cellDeliver {s : State} {r : CellRef} {mine : List Copy} {stale : Bool}
    (h : Canonical s.mem) : Canonical (s.cellDeliver r mine stale).mem := by
  unfold State.cellDeliver
  refine Canonical.cellStep ?_
  cases stale with
  | true => exact h
  | false => exact Canonical.foldl_fst h fun _ _ h => h.of_mem (State.chunkAdd_mem ..)

@[simp] theorem Canonical.bcompArrive {s : State} {cell : CellRef} {packed : Nat} {code : Option Code}
    (h : Canonical s.mem) : Canonical (s.bcompArrive cell packed code).mem := by
  unfold State.bcompArrive
  dsimp only
  (repeat' split) <;> simp [h]

@[simp] theorem Canonical.bcompEnd {s : State} {o : Op} (h : Canonical s.mem) : Canonical (s.bcompEnd o).mem := by
  unfold State.bcompEnd
  (repeat' split) <;> simp [h]

@[simp] theorem Canonical.spoil {s : State} {o : Op} {dst : Region} {n : Nat} (h : Canonical s.mem) :
    Canonical (s.spoil o dst n).mem := by
  refine h.foldl fun _ _ h => ?_
  split <;> simp [h]

/-! ### Requests at their slices, reorder and fragments -/

@[simp] theorem Canonical.keepLine {s : State} {r : Req} {ctx kid stamp : Nat} (h : Canonical s.mem) :
    Canonical (s.keepLine r ctx kid stamp).mem := by
  unfold State.keepLine
  dsimp only
  (repeat' split) <;> simp [h]

@[simp] theorem Canonical.serve {s : State} {req : Nat} {kind : OpKind → Bool} {place : Req → Bool}
    {drop : Option Nat} (h : Canonical s.mem) : Canonical (s.serve req kind place drop).mem := by
  unfold State.serve
  dsimp only
  (repeat' split) <;> simp [h]

@[simp] theorem Canonical.barApply {s : State} {g : Group} {p : Path} {pc : DWord} {b : Nat} {crewBar : Bool}
    {lanes : Mask} {cnt : Option Nat} (h : Canonical s.mem) :
    Canonical (s.barApply g p pc b crewBar lanes cnt).1.mem := by
  unfold State.barApply
  split
  · exact h
  · split
    · dsimp only
      split <;> simp [h]
    · exact (h.foldl fun _ _ h => h.setAph).foldl fun _ _ h => h.barStep

@[simp] theorem Canonical.barGoOn {s : State} {i : GroupId} {p : Path} {b : Nat} {crewBar : Bool} {lanes : Mask}
    {sync : Bool} (h : Canonical s.mem) : Canonical (s.barGoOn i p b crewBar lanes sync).mem := by
  unfold State.barGoOn
  split
  · exact h
  · have hu := h.of_mem (State.unpark_mem s i p.id)
    exact Canonical.ite hu (Canonical.ite hu.parkPath (h.of_mem (State.parkOn_mem ..)))

@[simp] theorem Canonical.landSpills {s : State} {cluster : Nat} {keys : List Nat} (h : Canonical s.mem) :
    Canonical (s.landSpills cluster keys).mem := by
  refine h.foldl fun _ _ h => ?_
  simp [h]

@[simp] theorem Canonical.spillRecord {s t : State} {g : Group} {area rspill off : Nat} {ws : List Nat}
    (h : Canonical s.mem) (e : s.spillRecord g area rspill off ws = .ok t) : Canonical t.mem := by
  unfold State.spillRecord at e
  split at e
  · cases e
  · cases e; simp [h]

@[simp] theorem Canonical.landRecords {s : State} {cluster ctx area rspill vmask team : Nat} {xs : List Record}
    (h : Canonical s.mem) : Canonical (s.landRecords cluster ctx area rspill vmask team xs).mem := by
  unfold State.landRecords
  refine h.foldl fun _ _ h => ?_
  split
  · split
    · exact h.landSpills
    · exact h
  · exact h

@[simp] theorem Canonical.arriveEnd {s : State} {g : Group} {p : Path} {f : ReorderForm} {c : Crew} {k : Nat}
    {inst : RInst} (h : Canonical s.mem) : Canonical (s.arriveEnd g p f c k inst).mem := by
  unfold State.arriveEnd
  dsimp only
  rw [State.reorderCheck_mem]
  refine Canonical.fuseAll ?_
  simp only [apply_ite State.mem, State.dropResv_mem, ite_self, State.modGroup_mem, State.sched_mem]
  refine Canonical.returnPrivate (h.of_mem ?_)
  rw [State.foldl_mem fun _ _ => State.dropOwner_mem _ _, State.modOwn_mem]

@[simp] theorem Canonical.rearm {s : State} {g : Group} (h : Canonical s.mem) : Canonical (s.rearm g).mem := by
  refine h.foldl fun _ _ h => ?_
  dsimp only
  (repeat' split) <;> simp [h]

@[simp] theorem Canonical.fillSlot {s : State} {g : Group} {n : Fin 2} (h : Canonical s.mem) :
    Canonical (s.fillSlot g n).mem := by
  unfold State.fillSlot
  refine Canonical.ite h ?_
  split
  · exact Canonical.keepDeep (h.of_mem (State.setGroup_mem ..))
  · exact h

@[simp] theorem Canonical.unspillOne {s : State} {cluster core : Nat} (h : Canonical s.mem) :
    Canonical (s.unspillOne cluster core).mem := by
  unfold State.unspillOne
  refine Canonical.ite h ?_
  split
  · exact Canonical.keepDeep (h.of_mem (State.setGroup_mem ..))
  · exact h

@[simp] theorem Canonical.unspillAll {s : State} (h : Canonical s.mem) : Canonical s.unspillAll.mem := by
  unfold State.unspillAll
  exact h.foldl fun _ _ h => h.foldl fun _ _ h => h.unspillOne

@[simp] theorem Canonical.swapStep {s : State} {g : Group} (h : Canonical s.mem) : Canonical (s.swapStep g).mem := by
  unfold State.swapStep
  dsimp only
  (repeat' split) <;> simp [h]

/-! ### Queues, crews and kernels -/

@[simp] theorem Canonical.devWrite {s : State} {ctx va v : Nat} (h : Canonical s.mem) :
    Canonical (s.devWrite ctx va v).mem := by
  unfold State.devWrite
  split
  · exact h
  · split
    · exact h.applyStore
    · exact h

@[simp] theorem Canonical.completePacket {s : State} {l : Launch} {code : Nat} (h : Canonical s.mem) :
    Canonical (s.completePacket l code).mem := by
  unfold State.completePacket
  extract_lets x killed late t y u sig sigfault v
  have hu : Canonical u.mem := Canonical.ite (h.of_mem (State.setQueueOf_mem ..)) h
  have hv : Canonical v.mem := Canonical.ite hu.devWrite.devWrite hu
  clear_value sig v
  split
  · exact hv.applyStore
  · exact hv

@[simp] theorem Canonical.acceptPacket {s : State} {c q : Nat} {x : Queue} {b : Nat} (h : Canonical s.mem) :
    Canonical (s.acceptPacket c q x b).mem := by
  unfold State.acceptPacket
  dsimp only
  (repeat' split) <;> simp [h]

@[simp] theorem Canonical.readPacket {s : State} {c q : Nat} {x : Queue} {i : Nat} (h : Canonical s.mem) :
    Canonical (s.readPacket c q x i).mem := by
  unfold State.readPacket
  (repeat' split) <;> simp [h]

@[simp] theorem Canonical.faultRecord {s : State} {c page level kind time : Nat} (h : Canonical s.mem) :
    Canonical (s.faultRecord c page level kind time).1.mem := by
  unfold State.faultRecord
  dsimp only
  split
  · exact h
  · split
    · exact h
    · simp [h]

@[simp] theorem Canonical.argFatal {s : State} {l : Launch} {c : Code} {va : Nat} (h : Canonical s.mem) :
    Canonical (s.argFatal l c va).mem := by
  unfold State.argFatal
  split <;> simp [h]

@[simp] theorem Canonical.grant {s : State} {key size ctx : Nat} (h : Canonical s.mem) :
    Canonical (s.grant key size ctx).mem := by
  refine h.foldl fun _ _ h => ?_
  split <;> simp [h]

@[simp] theorem Canonical.zeroPool {s : State} {cluster home : Nat} {d : PoolDecl} {base : Nat} (h : Canonical s.mem)
    : Canonical (s.zeroPool cluster home d base).mem := by
  unfold State.zeroPool
  split
  · exact h.foldl fun _ _ h => h.zero
  · exact h.foldl fun _ _ h => h.zero
  · exact h.foldl fun _ _ h => h.zero

@[simp] theorem Canonical.placeCrew {s : State} {l : Launch} {p : Plan} {ch : PlaceChoice} {args : List Word}
    (h : Canonical s.mem) : Canonical (s.placeCrew l p ch args).mem := by
  unfold State.placeCrew
  simp only [State.modLaunch_mem, State.modCtx_mem]
  rw [State.foldl_mem fun _ _ => State.foldl_mem (fun _ _ => State.newGroup_mem ..) ..]
  split
  case' isFalse => refine Canonical.foldl ?_ fun _ _ h => h.write
  all_goals
    refine Canonical.foldl (Canonical.foldl ?_ fun _ _ h => h.grant) fun _ _ h => h.zeroPool
    rw [apply_ite State.mem, State.startLaunch_mem, ite_self]
    exact h

@[simp] theorem Canonical.argFailed {s : State} {l : Launch} {c : Code} {va : Nat} (h : Canonical s.mem) :
    Canonical (s.argFailed l c va).mem := by
  unfold State.argFailed
  dsimp only
  (repeat' split) <;> simp [h]

@[simp] theorem Canonical.emptyL1 {s : State} (h : Canonical s.mem) : Canonical s.emptyL1.mem := by
  refine h.foldl fun _ _ h => ?_
  simp [h]

@[simp] theorem Canonical.endKernel {s : State} {l : Launch} (h : Canonical s.mem) :
    Canonical (s.endKernel l).mem := by
  unfold State.endKernel
  split <;> simp [h]

/-! ### Links and messages -/

@[simp] theorem Canonical.ctxFault {s : State} {c : Nat} {code : Code} (h : Canonical s.mem) :
    Canonical (s.ctxFault c code).mem := by
  simp [State.ctxFault, h]

@[simp] theorem Canonical.loseLink {s : State} {n : Nat} (h : Canonical s.mem) : Canonical (s.loseLink n).mem := by
  unfold State.loseLink
  refine Canonical.foldl ?_ fun _ _ h => h.ctxFault
  split
  · exact h
  · exact h.of_mem (State.loseReqs_mem _ _)

@[simp] theorem Canonical.losePacket {s : State} {op : Nat} (h : Canonical s.mem) :
    Canonical (s.losePacket op).mem := by
  unfold State.losePacket
  dsimp only
  (repeat' split) <;> simp [h]

@[simp] theorem Canonical.failLink {s : State} {n : Nat} (h : Canonical s.mem) : Canonical (s.failLink n).mem := by
  unfold State.failLink
  exact Canonical.ite (Canonical.loseLink (h.of_mem (State.moveLink_mem ..))) h

@[simp] theorem Canonical.depart {s : State} {r : Req} {o : Op} (h : Canonical s.mem) :
    Canonical (s.depart r o).mem := by
  unfold State.depart
  dsimp only
  (repeat' split) <;> simp [h]

@[simp] theorem Canonical.fillBuffer {s : State} {keys : List Nat} {data : List Byte} (h : Canonical s.mem) :
    Canonical (s.fillBuffer keys data).mem := by
  refine h.foldl fun _ _ h => ?_
  simp [h]

@[simp] theorem Canonical.takeMessage {s : State} {p : Posted} {k : PktHeader} (h : Canonical s.mem) :
    Canonical (s.takeMessage p k).mem := by
  simp [State.takeMessage, h]

@[simp] theorem Canonical.matchMessage {s : State} {c cluster : Nat} {k : PktHeader} (h : Canonical s.mem) :
    Canonical (s.matchMessage c cluster k).mem := by
  unfold State.matchMessage
  dsimp only
  (repeat' split) <;> simp [h]

@[simp] theorem Canonical.deliverMessage {s : State} {k : PktHeader} (h : Canonical s.mem) :
    Canonical (s.deliverMessage k).mem := by
  have gone : Canonical (s.discardPacket k 1).mem := h.of_mem (State.discardPacket_mem ..)
  unfold State.deliverMessage
  split
  · exact gone
  · refine Canonical.ite gone (Canonical.ite (Canonical.ite h ?_) (Canonical.ite gone ?_))
    · exact Canonical.keepMessage (h.of_mem (State.setCtx_mem ..))
    · exact Canonical.matchMessage (Canonical.ite (h.of_mem (State.addLog_mem ..)) h)

@[simp] theorem Canonical.refuseRemote {s : State} {o : Op} {c : Code} (h : Canonical s.mem) :
    Canonical (s.refuseRemote o c).mem := by
  unfold State.refuseRemote
  extract_lets path reqs t
  have ht : Canonical t.mem := h.of_mem (State.completeOp_mem s o)
  split
  · exact ht
  · exact ht.trap

@[simp] theorem Canonical.outsideWrite {s : State} {src pa size data : Nat} (h : Canonical s.mem) :
    Canonical (s.outsideWrite src pa size data).1.mem := by
  unfold State.outsideWrite
  split
  · exact h
  · split
    · exact h
    · exact (h.foldl fun _ _ h => by simp [h]).applyStore

@[simp] theorem Canonical.peerAtomic {s : State} {k : PktHeader} {share : Bool} {a : Nat} {w64 : Bool} {op : AtomOp}
    {b c : Nat} (h : Canonical s.mem) : Canonical (s.peerAtomic k share a w64 op b c).mem := by
  unfold State.peerAtomic
  dsimp only
  (repeat' split) <;> simp [h]

/-! ### The matrix engine -/

@[simp] theorem Canonical.tryRebind {s : State} {i : GroupId} (h : Canonical s.mem) :
    Canonical (s.tryRebind i).mem := by
  unfold State.tryRebind
  split
  · exact h
  · refine Canonical.ite h (Canonical.raiseDraining (h.of_mem ?_))
    rw [State.setGroup_mem, State.setEngine_mem]

@[simp] theorem Canonical.abandon {s : State} {n : Nat} {x : MatEntry} {c : Code} (h : Canonical s.mem) :
    Canonical (s.abandon n x c).mem := by
  unfold State.abandon
  extract_lets t
  have ht : Canonical t.mem := h.of_mem ((State.replyTo_mem ..).trans (State.modEngine_mem ..))
  split
  · exact Canonical.ite (ht.of_mem (State.dropStuck_mem ..)) ht.raiseDraining
  · exact ht

@[simp] theorem Canonical.eatDue {s : State} {n : Nat} {x : MatEntry} {m : Mma} (h : Canonical s.mem) :
    Canonical (s.eatDue n x m).1.mem := by
  unfold State.eatDue
  split
  · exact h
  · split
    · exact h.abandon
    · split
      · exact h.of_mem (State.eat_mem ..)
      · exact h.abandon

@[simp] theorem Canonical.runPass {s : State} {n : Nat} {x : MatEntry} {m : Mma} {b : Nat} (h : Canonical s.mem) :
    Canonical (s.runPass n x m b).mem := by
  unfold State.runPass
  dsimp only
  split
  · exact h.abandon
  · split
    · exact h.of_mem (by simp)
    · have eaten : Canonical (if decide (m.bv.length ≤ 96 * m.step) then s.eatDue n x (s.latch x m)
          else (s, some m)).1.mem := by
        split
        · exact h.eatDue
        · exact h
      split
      · exact eaten
      · exact eaten.of_mem (by simp)

theorem Canonical.advance {n : Nat} {x : MatEntry} {fuel : Nat} :
    ∀ {s : State} {m : Mma}, Canonical s.mem → Canonical (s.advance n x fuel m).mem := by
  induction fuel with
  | zero => exact fun h => h.of_mem (State.modEngine_mem ..)
  | succ fuel ih =>
    intro s m h
    unfold State.advance
    split
    · exact h.of_mem (State.modEngine_mem ..)
    · split
      next t r hp =>
      have ht : Canonical t.mem := by
        refine h.of_mem ?_
        split at hp
        · cases hp
          rfl
        · next q _ =>
          have popped := s.popMeta_mem n x q
          split at hp
          · cases hp
            rfl
          · split at hp
            · cases hp
              rfl
            · split at hp
              next he =>
                cases hp
                rwa [he] at popped
              next he =>
                rw [he] at popped
                have hs := congrArg Prod.fst hp
                simp only [apply_ite Prod.fst, ite_self] at hs
                exact hs ▸ popped
      split
      · exact ht.of_mem (State.modEngine_mem ..)
      · exact ht.abandon
      · split
        · exact ht.runPass
        · split
          next he => exact (congrArg (fun p => Canonical p.1.mem) he).mp ht.eatDue
          next he => exact ih ((congrArg (fun p => Canonical p.1.mem) he).mp ht.eatDue)

@[simp] theorem Canonical.staleTransfer {s : State} {o : Op} {detail : Nat} (h : Canonical s.mem) :
    Canonical (s.staleTransfer o detail).mem := by
  unfold State.staleTransfer
  dsimp only
  split <;> simp [h]

@[simp] theorem Canonical.drainWrite {s : State} {ctx : Nat} {f : NFmt} {add : Bool} {data : List Nat}
    {image : List Nat} {k : Nat} (h : Canonical s.mem) : Canonical (s.drainWrite ctx f add data image k).mem := by
  simp [State.drainWrite, h]

/-! ### Contexts, their save and their restore -/

@[simp] theorem Canonical.install {s : State} {c : Nat} {d : Desc} {xbase : Nat} (h : Canonical s.mem) :
    Canonical (s.install c d xbase).mem := by
  unfold State.install
  refine Canonical.write ?_
  simp only [State.putCtx_mem]
  split
  · exact h
  · exact h.foldl fun _ _ h => h.grant

@[simp] theorem Canonical.completeKilled {s : State} {c : Nat} {fault : Option (Nat × Code)} (h : Canonical s.mem) :
    Canonical (s.completeKilled c fault).mem := by
  refine h.foldl fun _ _ h => ?_
  simp [h]

@[simp] theorem Canonical.stopGroup {s : State} {g : Group} {live : Word} (h : Canonical s.mem) :
    Canonical (s.stopGroup g live).mem := by
  simp [State.stopGroup, h]

@[simp] theorem Canonical.forceStop {s : State} {g : Group} (h : Canonical s.mem) :
    Canonical (s.forceStop g).mem := by
  unfold State.forceStop
  (repeat' split) <;> simp [h]

@[simp] theorem Canonical.copyRange {s : State} {src dst n : Nat} (h : Canonical s.mem) :
    Canonical (s.copyRange src dst n).mem :=
  s.wf_copyRange src dst n h

@[simp] theorem Canonical.saveCrew {s : State} {c : Ctx} {x : Crew} (h : Canonical s.mem) :
    Canonical (s.saveCrew c x).mem := by
  unfold State.saveCrew
  simp only [State.modCrew_mem]
  rw [State.foldl_mem fun _ _ => State.removeGroup_mem ..]
  refine Canonical.of_mem (h.foldl fun _ _ h => h.copyRange) (State.scrapCrew_mem ..)

@[simp] theorem Canonical.keepFrags {s : State} {g : Group} (h : Canonical s.mem) :
    Canonical (s.keepFrags g).mem := by
  refine h.foldl fun _ _ h => ?_
  simp [h]

@[simp] theorem Canonical.keepLast {s : State} {d : Desc} {x : Crew} (h : Canonical s.mem) :
    Canonical (s.keepLast d x).mem := by
  simp [State.keepLast, h]

@[simp] theorem Canonical.keepCluster {s : State} {c : Ctx} {cluster : Nat} (h : Canonical s.mem) :
    Canonical (s.keepCluster c cluster).mem := by
  unfold State.keepCluster
  refine Canonical.keepLaunches (Canonical.keepPosted (Canonical.keepBarriers ?_))
  refine Canonical.foldl ?_ fun _ _ h => h.keepMessage
  refine Canonical.foldl ?_ fun _ _ h => h.keepCells
  refine Canonical.foldl ?_ fun _ _ h => h.keepEngine
  refine Canonical.foldl ?_ fun _ _ h => h.keepLast
  exact h.foldl fun _ _ h => h.keepFrags.keepGroup

@[simp] theorem Canonical.cleanL1 {s : State} {c : Nat} (h : Canonical s.mem) : Canonical (s.cleanL1 c).mem := by
  refine h.foldl fun _ _ h => ?_
  simp [h]

@[simp] theorem Canonical.restoreGroup {s : State} {old new : Nat} {g : Group} (h : Canonical s.mem) :
    Canonical (s.restoreGroup old new g).mem := by
  unfold State.restoreGroup
  dsimp only
  refine Canonical.tryRebind ?_
  rw [State.askAgain_mem]
  refine Canonical.keepFrags ?_
  rw [State.sched_mem]
  refine Canonical.rearm ?_
  rw [State.addGroup_mem]
  exact h

@[simp] theorem Canonical.putBack {s : State} {c : Ctx} {x : Crew} {i : Image} {k : Nat} (h : Canonical s.mem) :
    Canonical (s.putBack c x i k).mem := by
  unfold State.putBack
  refine Canonical.foldl ?_ fun _ _ h => h.restoreGroup
  simp only [State.modCrew_mem]
  rw [State.foldl_mem fun _ _ => State.modEngine_mem ..]
  show Canonical (State.mem (List.foldl _ _ _))
  exact Canonical.foldl h fun _ _ h => h.grant.copyRange

theorem Canonical.restoreCrew {c : Ctx} {s t : State} {x : Crew} (h : Canonical s.mem)
    (e : State.restoreCrew c s x = some t) : Canonical t.mem := by
  unfold State.restoreCrew at e
  split at e
  · cases e
    exact h
  · obtain ⟨k, -, hk⟩ := List.exists_of_findSome?_eq_some e
    split at hk
    · cases hk
      exact h.putBack
    · cases hk

theorem Canonical.restoreAll {c : Ctx} {s t : State} (h : Canonical s.mem)
    (e : s.restoreAll c = some t) : Canonical t.mem := by
  unfold State.restoreAll at e
  generalize s.ctxCrews c.num = crews at e
  induction crews generalizing s with
  | nil =>
    cases e
    exact h
  | cons x crews ih =>
    rw [List.foldlM_cons, Option.bind_eq_bind, Option.bind_eq_some_iff] at e
    obtain ⟨u, hu, e⟩ := e
    exact ih (h.restoreCrew hu) e

@[simp] theorem Canonical.replayMessages {s : State} {c : Nat} {old : List Image} {ms : List (Nat × PktHeader)}
    (h : Canonical s.mem) : Canonical (s.replayMessages c old ms).mem := by
  unfold State.replayMessages
  dsimp only
  split
  · exact h.ctxFault
  · exact h.foldl fun _ _ h => h.matchMessage

theorem Canonical.resume {s t : State} {x : Ctx} (h : Canonical s.mem) (e : s.resume x = some t) :
    Canonical t.mem := by
  obtain ⟨u, hu, rfl⟩ := Option.map_eq_some_iff.1 e
  exact Canonical.replayMessages ((h.restoreAll hu).of_mem (by simp))

@[simp] theorem Canonical.takeCheckpoint {s : State} {x : Ctx} (h : Canonical s.mem) :
    Canonical (s.takeCheckpoint x).mem := by
  simp only [State.takeCheckpoint, apply_ite State.mem]
  split
  · exact Canonical.freeBytes (h.of_mem (State.modCtx_mem ..))
  · exact h.of_mem (State.modCtx_mem ..)

@[simp] theorem Canonical.restoreBytes {s : State} {xbase : Nat} {c : Checkpoint} (h : Canonical s.mem) :
    Canonical (s.restoreBytes xbase c).mem := by
  unfold State.restoreBytes
  exact (h.foldl fun _ _ h => h.zero).foldl fun _ _ h => h.setByte

@[simp] theorem Canonical.chooseCheckpoint {s : State} {ctx n : Nat} (h : Canonical s.mem) :
    Canonical (s.chooseCheckpoint ctx n).mem := by
  unfold State.chooseCheckpoint
  dsimp only
  split
  · exact h
  · split
    · exact h
    · split
      · exact h
      · rw [State.setCtx_mem]
        exact h.foldl fun _ _ h => h.restoreBytes

@[simp] theorem Canonical.pushView {s : State} {c : Capsule} (h : Canonical s.mem) :
    Canonical (s.pushView c).mem := by
  unfold State.pushView
  (repeat' split) <;> simp [h]

/-! ### Bring-up and service -/

@[simp] theorem Canonical.afterReset {s : State} {warm : Bool} (h : Canonical s.mem) :
    Canonical (s.afterReset warm).mem :=
  s.wf_afterReset warm h

@[simp] theorem Canonical.firmwareTables {s : State} (h : Canonical s.mem) : Canonical s.firmwareTables.mem := by
  unfold State.firmwareTables
  exact (h.zero.write.write.write.foldl fun _ _ h => h.write).write

@[simp] theorem Canonical.imageChecked {s : State} (h : Canonical s.mem) : Canonical s.imageChecked.mem := by
  unfold State.imageChecked
  refine Canonical.ite h ?_
  exact Canonical.install (Canonical.firmwareTables h)

@[simp] theorem Canonical.zeroIsland {s : State} {island : Nat} (h : Canonical s.mem) :
    Canonical (s.zeroIsland island).mem := by
  unfold State.zeroIsland
  split
  · exact h.foldl fun _ _ h => h.zero.of_mem (State.setRing_mem ..)
  · split
    · exact h.zero
    · exact h

/-! ### What follows every act -/

@[simp] theorem Canonical.replayArrivals {s : State} (h : Canonical s.mem) : Canonical s.replayArrivals.mem := by
  unfold State.replayArrivals
  refine h.foldl fun _ _ h => h.foldl fun _ _ h => ?_
  split
  · exact Canonical.matchMessage (h.of_mem (State.popLog_mem ..))
  · exact h

@[simp] theorem Canonical.fetchFault {s : State} {g : Group} {p : Path} {c : Code} {va : Nat} (h : Canonical s.mem) :
    Canonical (s.fetchFault g p c va).mem := by
  unfold State.fetchFault
  dsimp only
  split <;> simp [h]

@[simp] theorem Canonical.fetchMiss {s : State} {g : Group} {p : Path} {page : Nat} (h : Canonical s.mem) :
    Canonical (s.fetchMiss g p page).mem := by
  unfold State.fetchMiss
  split <;> simp [h]

@[simp] theorem Canonical.takeTraps {s : State} (h : Canonical s.mem) : Canonical s.takeTraps.mem := by
  refine h.foldl fun _ _ h => ?_
  split
  · exact h
  · split
    · exact h
    · exact Canonical.ite h.takeTrap h

@[simp] theorem Canonical.takeFatal {s : State} (h : Canonical s.mem) : Canonical s.takeFatal.mem := by
  refine h.foldl fun _ _ h => ?_
  simp [h]

@[simp] theorem Canonical.vectorPending {s : State} (h : Canonical s.mem) : Canonical s.vectorPending.mem := by
  refine h.foldl fun _ _ h => ?_
  split <;> simp [h]

@[simp] theorem Canonical.finishStops {s : State} (h : Canonical s.mem) : Canonical s.finishStops.mem := by
  refine h.foldl fun _ _ h => ?_
  dsimp only
  (repeat' split) <;> simp [h]

end Sys2Proof.Machine

/-! ## Instructions keep storage canonical

An instruction's own part answers a `Res`; the settling of that answer and the issue around it are followed once, so
that each instruction is left with its own part. -/

namespace Sys2Proof.Machine

/-! ### An instruction's own part, its settling and its issue -/

theorem Canonical.settle {s : State} {i : Instr} {g : Group} {p : Path} {r : Res} (h : Canonical s.mem)
    (hr : r.Canonical) : Canonical (s.settle i g p r).mem := by
  cases r with
  | done t => exact Canonical.of_mem hr (State.finish_mem ..)
  | long t _ => exact Canonical.of_mem hr (State.finish_mem ..)
  | jump t _ => exact Canonical.of_mem hr (State.finish_mem ..)
  | placed t => exact Canonical.of_mem hr (State.finish_mem ..)
  | after t k =>
    obtain ⟨ht, hk⟩ := hr
    have hf := ht.of_mem (State.finish_mem t i g p fun q => q.next i)
    unfold State.settle
    dsimp only
    split
    · exact hk _ _ hf
    · exact hf
  | wait t k => exact Canonical.parkPath hr
  | hold r m => exact h.of_mem (State.modGroup_mem ..)
  | trap c lane detail va => exact Canonical.trap (Canonical.ite (h.of_mem (State.recordIssue_mem ..)) h)
  | raise t => exact Canonical.trap (Canonical.ite (h.of_mem (State.recordIssue_mem ..)) h)

/-- An instruction that issues keeps storage canonical when its own part does. -/
theorem Canonical.issue {s : State} {i : Instr} {body : State → Group → Path → Res} (h : Canonical s.mem)
    (hb : ∀ t g p, Canonical t.mem → (body t g p).Canonical) : CanonicalNext (issue i s body) := by
  unfold Machine.issue
  split
  · trivial
  · split
    · trivial
    · split
      · trivial
      · dsimp only
        split
        · exact Canonical.settle h trivial
        · exact Canonical.trapAt h
        · refine Canonical.settle h ?_
          split
          · exact hb _ _ _ h
          · exact hb _ _ _ h

theorem Res.Canonical.ite {c : Prop} [Decidable c] {r q : Res} (hr : r.Canonical) (hq : q.Canonical) :
    (if c then r else q).Canonical := by
  split
  · exact hr
  · exact hq

/-! ### The parts that several instructions share -/

section
variable {s : State} {g : Group} {p : Path} (h : Canonical s.mem)
include h

@[simp] theorem Canonical.refuseAs {k : Nat → Acc} {detail : Nat} {r : AccessRes} :
    (s.refuseAs g p k detail r).Canonical := by
  unfold State.refuseAs
  split
  · exact h
  · dsimp only
    split <;> simp [h]
  · trivial

@[simp] theorem Canonical.refuse {k : Acc} {detail : Nat} {r : AccessRes} : (s.refuse g p k detail r).Canonical :=
  h.refuseAs

@[simp] theorem Canonical.refuseLane {k : Acc} {loc : Nat → Loc} {l0 : Nat} {r : AccessRes} :
    (s.refuseLane g p k loc l0 r).Canonical := h.refuse

@[simp] theorem Canonical.callTo {i : Instr} {t : DWord} : (callTo i t s g p).Canonical := by
  unfold Machine.callTo
  split
  · trivial
  · exact Canonical.keepDeep h

@[simp] theorem Canonical.detach {k : Fin 16} {frag : Mask} {fpc pc : DWord} :
    (s.detach g p k frag fpc pc).Canonical := h.of_mem (by simp)

@[simp] theorem Canonical.safeptBody {live : Word} : (safeptBody live s g p).Canonical := by
  unfold Machine.safeptBody
  split
  · exact ⟨h, fun t g ht => ht.of_mem (by simp)⟩
  · exact h

@[simp] theorem Canonical.once {gd : Guard} {f : Group → Path → Group} : (once gd f s g p).Canonical :=
  Canonical.ite (h.of_mem (State.setGroup_mem ..)) h

/-- A cell's instruction keeps storage canonical when what it does to the cell does. -/
theorem Canonical.cellBody {gd : Guard} {k : Bool} {a : Fin 64} {write : Bool}
    {f : State → Group → Path → CellRef → Cell → Res}
    (hf : ∀ t g p r c, Canonical t.mem → (f t g p r c).Canonical) :
    (cellBody gd k a write f s g p).Canonical := by
  unfold Machine.cellBody
  dsimp only
  split
  · exact h
  · split
    · trivial
    · have ht : Canonical ((s.pullOwn g (s.cellRef g k (g.rdS p a).toNat).key 32).recordMem g
          { space := if k then .k else .c, a := (g.rdS p a).toNat, handle := 0 } (cellPath k) write).mem :=
        Canonical.of_mem h.pullOwn (State.recordMem_mem ..)
      split
      · split
        · exact h
        · exact hf _ _ _ _ _ ht
      · exact ht

@[simp] theorem Canonical.fenceBody {rel acq sc : Bool} {scope : Scope} :
    (fenceBody rel acq sc scope s g p).Canonical := by
  unfold Machine.fenceBody
  dsimp only
  split <;> exact h

@[simp] theorem Canonical.homeAccess {a : HomeAcc} {lanes : List Nat} {loc : Nat → Loc} :
    (homeAccess a lanes loc s g p).Canonical := by
  have fin : ∀ (t : State) (o : Option Nat), Canonical t.mem →
      (if a.long then Res.long t o else Res.done t).Canonical := by
    intro t o ht
    split <;> exact ht
  unfold Machine.homeAccess
  dsimp only
  split
  · exact fin _ _ h
  · split
    · split
      · trivial
      · split
        · trivial
        · exact fin _ _ (h.of_mem (by simp))
    · exact h.refuse

@[simp] theorem Canonical.lineOp {act : Mask} {lines : List L1Line} {drop : Bool} :
    (s.lineOp g p act lines drop).Canonical := by
  unfold State.lineOp
  dsimp only
  split
  · trivial
  · split
    · trivial
    · refine Canonical.ite ?_ (Canonical.of_mem ?_ (State.startOp_mem ..))
      all_goals
        refine Canonical.of_mem (Canonical.foldl h fun _ _ h => h.pullBacks) (State.foldl_mem (fun _ _ => ?_) ..)
        split <;> simp

@[simp] theorem Canonical.lineBody {gd : Guard} {arg : LineArg} {drop : Bool} :
    (lineBody gd arg drop s g p).Canonical := by
  unfold Machine.lineBody
  dsimp only
  split
  · exact h
  · split
    · split
      · exact h.lineOp
      · exact h.refuse
    · split
      · next ps _ =>
        have op : (s.lineOp g p (g.active p gd) (s.privLines g (ps.map fun x => lineOf x.2.key)) drop).Canonical :=
          h.lineOp
        split
        · next he =>
          rw [he] at op
          split
          · exact Canonical.of_mem op (State.recordMem_mem ..)
          · exact op
        · exact op
      · exact h.refuse

@[simp] theorem Canonical.tallocTake {pool : Fin 16} {d : Fin 64} {n i : Nat} :
    (tallocTake pool d n i s g).Canonical :=
  h.of_mem (by simp)

@[simp] theorem Canonical.tallocBody {pool : Fin 16} {gd : Guard} {d : Fin 64} {n : Group → Path → Nat} :
    (tallocBody gd pool d n s g p).Canonical := by
  unfold Machine.tallocBody
  dsimp only
  split
  · exact h.tallocTake
  · exact h
  · split
    · exact h
    · split
      · trivial
      · split
        · exact h.tallocTake
        · exact h

@[simp] theorem Canonical.pushBody {w : Word} {qs : List Nat} : (pushBody w qs s g p).Canonical := by
  unfold Machine.pushBody
  split
  · trivial
  · refine ⟨h, fun t g ht => Canonical.ite (ht.of_mem (State.showSlots_mem ..)) (ht.of_mem (State.parkOn_mem ..))⟩

@[simp] theorem Canonical.barBody {f : BarForm} {sync : Bool} : (barBody f sync s g p).Canonical := by
  unfold Machine.barBody
  dsimp only
  split
  · exact h
  · refine ⟨h, fun t g ht => ?_⟩
    dsimp only
    split
    · split
      · exact ht.barApply.barGoOn
      · exact ht.barApply
    · exact ht.of_mem (State.parkOn_mem ..)

@[simp] theorem Canonical.spillFault {area : Nat} {c : Code} {off : Nat} :
    (s.spillFault g p area c off).Canonical := by
  unfold State.spillFault
  dsimp only
  split
  · trivial
  · split
    · exact h.of_mem (State.modGroup_mem ..)
    · trivial

end

theorem Canonical.add {x : Binning} {g : Group} {f : ReorderForm} {c : Crew} {others : Nat} {carry : Bool}
    {lane : Nat} {t : Thread} (h : Canonical x.s.mem) : Canonical (x.add g f c others carry lane t).s.mem := by
  unfold Binning.add
  dsimp only
  split
  · exact h
  · split
    · exact h
    · split
      · exact h
      · next e => exact h.spillRecord e

section
variable {s : State} {g : Group} {p : Path} (h : Canonical s.mem)
include h

@[simp] theorem Canonical.arrive {f : ReorderForm} : (s.arrive g p f).Canonical := by
  have add : ∀ (l : List ((Nat × Thread) × Nat)) (x : Binning) (c : Crew) (k : Nat) (b : Nat → Bool),
      Canonical x.s.mem → Canonical (l.foldl (fun (x : Binning) (y : (Nat × Thread) × Nat) =>
        x.add g f c k (b y.2) y.1.1 y.1.2) x).s.mem := by
    intro l
    induction l with
    | nil => exact fun _ _ _ _ h => h
    | cons y l ih => exact fun _ _ _ _ h => ih _ _ _ _ (Canonical.add h)
  unfold State.arrive
  dsimp only
  split
  · exact h
  · split
    · exact h
    · split
      · trivial
      · split
        · exact Canonical.spillFault (add _ _ _ _ (fun n => _ && n == 0) h)
        · exact Canonical.arriveEnd (add _ _ _ _ (fun n => _ && n == 0) h)

@[simp] theorem Canonical.reorderArrival {f : ReorderForm} : (reorderArrival f s g p).Canonical := by
  unfold Machine.reorderArrival
  split
  · exact h.arrive
  · exact h

@[simp] theorem Canonical.bindBody {slot : Nat} {b : Option (Nat × Nat × Nat × Nat)} :
    (bindBody slot b s p).Canonical :=
  ⟨h, fun _ _ ht => Canonical.ite (ht.of_mem (State.bindSlot_mem ..)) (ht.of_mem (State.parkOn_mem ..))⟩

@[simp] theorem Canonical.mwaitrBody {gd : Guard} {d a : Fin 64} {us : Option Nat} :
    (mwaitrBody gd d a us s g p).Canonical := by
  unfold Machine.mwaitrBody
  dsimp only
  split
  · exact h
  · split
    · trivial
    · split
      · exact h.of_mem (State.setGroup_mem ..)
      · split <;> exact h.of_mem (by simp)

@[simp] theorem Canonical.ratomBody {f : Remote} : (ratomBody f s g p).Canonical := by
  have fin : ∀ (t : State) (o : Option Nat), Canonical t.mem →
      (if f.d.isSome then Res.long t o else Res.done t).Canonical := by
    intro t o ht
    split <;> exact ht
  unfold Machine.ratomBody
  dsimp only
  split
  · exact fin _ _ h
  · split
    · trivial
    · split
      · exact h.homeAccess
      · split
        · trivial
        · split
          · trivial
          · refine Res.Canonical.ite trivial (fin _ _ (h.of_mem ?_))
            rw [State.recordMem_mem, State.startOp_mem]

@[simp] theorem Canonical.mresBind {mask : BitVec 4} : (mresBind mask s g).Canonical := by
  unfold Machine.mresBind
  split <;> exact h

/-- A matrix instruction keeps storage canonical when what it does past its checks does. -/
theorem Canonical.matrixBody {gd : Guard} {zs : List Nat} {f : State → Group → Path → Res} (hf : (f s g p).Canonical)
    : (matrixBody gd zs f s g p).Canonical := by
  unfold Machine.matrixBody
  dsimp only
  split
  · exact h
  · split
    · trivial
    · split
      · trivial
      · exact hf

theorem Canonical.tableBody {gd : Guard} {z : Nat} {f : State → Group → Path → Res} (hf : (f s g p).Canonical) :
    (tableBody gd z f s g p).Canonical := by
  refine h.matrixBody ?_
  split
  · trivial
  · exact hf

@[simp] theorem Canonical.traceBody {gd : Guard} {payload : Group → Path → Nat} :
    (traceBody gd payload s g p).Canonical := by
  unfold Machine.traceBody
  split
  · exact h
  · split
    · exact h
    · exact h.of_mem (State.tracePut_mem ..)

@[simp] theorem Canonical.tlwaitBody {gd : Guard} {d : Fin 8} {a b : Fin 64} {ext sys : Bool} {us : Option Nat} :
    (tlwaitBody gd d a b ext sys us s g p).Canonical := by
  unfold Machine.tlwaitBody
  dsimp only
  split
  · exact h
  · (repeat' split) <;> simp [h]

@[simp] theorem Canonical.loadBody {want : Want} {sp : Space} {cm : Bool} {dest : Mask → Dest} {lanes : List Nat}
    {loc : Nat → Loc} : (loadBody want sp cm dest lanes loc s g p).Canonical := by
  unfold Machine.loadBody
  dsimp only
  split
  · exact h
  · split
    · trivial
    · split
      · refine Res.Canonical.ite trivial (Res.Canonical.ite trivial (h.of_mem ?_))
        rw [State.recordMem_mem, State.startOp_mem]
      · exact h.refuseLane

@[simp] theorem Canonical.softTrap {c : Code} {lane code : Nat} : Canonical (softTrap c lane code p s g).mem := h.trap

end

end Sys2Proof.Machine

/-! ## Instructions and events, one by one -/

namespace Sys2Proof.Machine

theorem CanonicalNext.ite {c : Prop} [Decidable c] {r q : Host.Outcome State Fault Refusal} (hr : CanonicalNext r)
    (hq : CanonicalNext q) : CanonicalNext (if c then r else q) := by
  split
  · exact hr
  · exact hq

theorem Canonical.after {s : State} {r : Host.Outcome State Fault Refusal} (h : Canonical s.mem)
    (hr : CanonicalNext r) : Canonical (s.after r).mem := by
  cases r with
  | next t => exact hr
  | fault _ => exact h
  | refused _ => exact h

theorem Canonical.writeParts {o : Op} {r : Region} {l : List Nat} : ∀ {s t : State} {off tw : Nat}, Canonical s.mem →
    (∀ c, s.writeParts o r off tw l = .error (t, c) → Canonical t.mem) ∧
    ∀ n, s.writeParts o r off tw l = .ok (t, n) → Canonical t.mem := by
  induction l with
  | nil =>
    intro s t off tw h
    refine ⟨fun c e => (nomatch e), fun n e => ?_⟩
    cases e
    exact h
  | cons v l ih =>
    intro s t off tw h
    unfold State.writeParts
    split
    · refine ⟨fun c e => ?_, fun n e => (nomatch e)⟩
      cases e
      exact h
    · exact ih h.applyStore

theorem Canonical.block {x : Pack} {o : Op} {src dst : Region} {kb e bs t row c : Nat} (h : Canonical x.s.mem) :
    Canonical (x.block o src dst kb e bs t row c).s.mem := by
  unfold Pack.block
  dsimp only
  split
  · exact h
  · split
    · exact h
    · split
      · exact h
      · split
        · next he => exact (Canonical.writeParts h).1 _ he
        · next he => exact (Canonical.writeParts h).2 _ he

theorem Canonical.foldl_pack {α : Type} {f : Pack → α → Pack}
    (hf : ∀ x a, Canonical x.s.mem → Canonical (f x a).s.mem) (l : List α) :
    ∀ {x : Pack}, Canonical x.s.mem → Canonical (l.foldl f x).s.mem := by
  induction l with
  | nil => exact fun h => h
  | cons a l ih => exact fun h => ih (hf _ a h)

theorem Canonical.pack {s : State} {o : Op} {src dst : Region} {steps : Nat} {big two : Bool} (h : Canonical s.mem) :
    Canonical (s.pack o src dst steps big two).s.mem := by
  unfold State.pack
  exact foldl_pack (fun _ _ h => foldl_pack (fun _ _ h => foldl_pack (fun _ _ h => h.block) _ h) _ h) _ h

theorem Canonical.packAsk {s t : State} {o : Op} {src dst : Region} {steps e : Nat} {x : Pack} (h : Canonical s.mem)
    (he : s.packAsk o src dst steps e x = some t) : Canonical t.mem := by
  unfold State.packAsk at he
  dsimp only at he
  split at he
  · cases he
  · cases he
    exact h

@[simp] theorem State.eachNamed_mem {s : State} {c : Nat} {sel : DbgSel} {f : State → Group → State}
    (hf : ∀ t g, (f t g).mem = t.mem) : (s.eachNamed c sel f).mem = s.mem := State.foldl_mem hf _ _

theorem Canonical.svcOn {s : State} {island st : Nat} {ok : Nat → Bool} {k : Nat → State} (h : Canonical s.mem)
    (hk : ∀ c, Canonical (k c).mem) : Canonical (s.svcOn island st ok k).mem := by
  unfold State.svcOn
  split
  · exact Canonical.ite (hk _) (h.of_mem (State.svcErr_mem s))
  · exact h.of_mem (State.svcErr_mem s)

theorem Canonical.resume_getD {s : State} {x : Ctx} (h : Canonical s.mem) : Canonical ((s.resume x).getD s).mem := by
  cases he : s.resume x with
  | none => exact h
  | some w => exact h.resume he

section
variable {s : State} (h : Canonical s.mem)
include h

theorem Canonical.execRet {gd : Guard} : CanonicalNext (execRet gd s) := by
  refine h.issue fun t g p ht => ?_
  split
  · exact ht
  · split
    · exact ht.of_mem (State.setGroup_mem ..)
    · exact ⟨ht, fun _ _ hu => hu.exitLanes⟩

theorem Canonical.execExit {gd : Guard} : CanonicalNext (execExit gd s) :=
  h.issue fun _ _ _ ht => ⟨ht, fun _ _ hu => hu.exitLanes⟩

theorem Canonical.execTrap {gd : Guard} {code : BitVec 16} : CanonicalNext (execTrap gd code s) :=
  h.issue fun _ _ _ ht => Res.Canonical.ite ht ⟨ht, fun _ _ hu => hu.softTrap⟩

theorem Canonical.execTrapBreak {gd : Guard} {code : BitVec 16} : CanonicalNext (execTrapBreak gd code s) :=
  h.issue fun _ _ _ ht => Res.Canonical.ite ht ⟨ht, fun _ _ hu => hu.softTrap⟩

theorem Canonical.execTret : CanonicalNext (execTret s) := by
  refine h.issue fun t g p ht => ?_
  split
  · trivial
  · refine Res.Canonical.ite trivial ⟨ht, fun u g hu => ?_⟩
    exact Canonical.fuseAll (Canonical.foldl (hu.of_mem (by simp)) fun _ _ h => h.keepDeep)

theorem Canonical.execHalt {gd : Guard} : CanonicalNext (execHalt gd s) :=
  h.issue fun _ _ _ ht => Res.Canonical.ite ht
    (Res.Canonical.ite ⟨ht, fun _ _ hu => hu.of_mem (State.debugStop_mem ..)⟩ ⟨ht, fun _ _ hu => hu.softTrap⟩)

theorem Canonical.execYield {gd : Guard} : CanonicalNext (execYield gd s) := by
  refine h.issue fun t g p ht => Res.Canonical.ite ht ⟨ht, fun u g hu => ?_⟩
  dsimp only
  split
  · exact hu.of_mem (State.setGroup_mem ..)
  · exact hu

theorem Canonical.execPadWord {w : Word} : CanonicalNext (execPadWord w s) := by
  unfold Machine.execPadWord
  split
  · trivial
  · split
    · trivial
    · split
      · trivial
      · dsimp only
        split
        · exact h
        · exact Canonical.trapAt h

theorem Canonical.execBcompFinish {op : Nat} : CanonicalNext (execBcompFinish op s) := by
  unfold Machine.execBcompFinish
  split
  · exact h
  · split
    · dsimp only
      split
      · exact h
      · split
        · next he => exact h.packAsk he
        · refine Canonical.bcompEnd ?_
          rw [State.pushMeta_mem, State.noteTw_mem]
          exact h.pack
    · exact h.bcompEnd
    · exact h

theorem Canonical.execBcompFault {op : Nat} : CanonicalNext (execBcompFault op s) := by
  unfold Machine.execBcompFault
  split
  · exact h
  · split
    · dsimp only
      split
      · exact h
      · split
        · exact h
        · split
          · next he => exact h.packAsk he
          · refine Canonical.bcompEnd ?_
            rw [State.pushMeta_mem]
            have noted {o : Op} {x : Pack} (hx : Canonical x.s.mem) : Canonical (x.s.noteTw o x.tw).mem :=
              hx.of_mem (State.noteTw_mem ..)
            exact Canonical.ite (noted h.pack) (noted h.pack).spoil
    · exact h

theorem Canonical.execReorder {f : ReorderForm} : CanonicalNext (execReorder f s) := by
  refine h.issue fun t g p ht => Res.Canonical.ite ht.reorderArrival ?_
  dsimp only
  refine Res.Canonical.ite trivial (Res.Canonical.ite trivial ?_)
  split
  · trivial
  · exact ht.reorderArrival

theorem Canonical.execReorderArrive {i : GroupId} {path : Nat} : CanonicalNext (execReorderArrive i path s) := by
  unfold Machine.execReorderArrive
  split
  · split
    · exact Canonical.execReorder (s := { s with issuer := some (i, path) }) h
    · exact h
  · exact h

theorem Canonical.execReorderEmit {kid crew : Nat} : CanonicalNext (execReorderEmit kid crew s) := by
  unfold Machine.execReorderEmit
  split
  · split
    · split
      · dsimp only
        split
        · exact h
        · split
          · exact h
          · simp only [canonicalNext_next, State.reorderCheck_mem, State.modCrew_mem, State.sched_mem]
            refine Canonical.foldl (Canonical.rearm ?_) fun _ _ h => h.keepDeep
            rw [State.addGroup_mem]
            exact Canonical.landRecords (h.of_mem (State.takeSlot_mem ..))
      · exact h
    · exact h
  · exact h

theorem Canonical.execLaunch {f : LaunchForm} : CanonicalNext (execLaunch f s) := by
  refine h.issue fun t g p ht => Res.Canonical.ite ht ?_
  refine Res.Canonical.ite trivial (Res.Canonical.ite trivial (Res.Canonical.ite trivial ?_))
  exact ⟨ht.of_mem (State.startOp_mem ..), fun _ _ hu =>
    Canonical.ite (hu.of_mem (State.sendKick_mem ..)) (hu.of_mem (State.parkOn_mem ..))⟩

theorem Canonical.execTlsig {f : TlsigForm} : CanonicalNext (execTlsig f s) := by
  refine h.issue fun t g p ht => Res.Canonical.ite ht ?_
  dsimp only
  split
  · refine Res.Canonical.ite trivial (Res.Canonical.ite trivial ⟨ht.of_mem (by simp), fun _ _ hu => ?_⟩)
    exact Canonical.ite (hu.of_mem (State.sendSignal_mem ..)) (hu.of_mem (State.parkOn_mem ..))
  · exact ht.refuse

theorem Canonical.execPfresp {v : DWord} : CanonicalNext (execPfresp v s) := by
  unfold Machine.execPfresp
  dsimp only
  split
  · exact h
  · exact Canonical.foldl h fun _ _ h => h.argFatal

theorem Canonical.execPftailWrite {v : DWord} : CanonicalNext (execPftailWrite v s) := by
  refine Canonical.foldl h fun _ _ h => ?_
  split
  · exact h.faultRecord
  · exact h

theorem Canonical.execMres {gd : Guard} {mask : BitVec 4} : CanonicalNext (execMres gd mask s) :=
  h.issue fun _ _ _ ht => Res.Canonical.ite ht.mresBind (ht.matrixBody (Res.Canonical.ite trivial ht.mresBind))

theorem Canonical.execMresBind {i : GroupId} {path : Nat} : CanonicalNext (execMresBind i path s) := by
  unfold Machine.execMresBind
  split
  · exact h
  · split
    · exact h.tryRebind
    · split
      · split
        · exact Canonical.execMres (s := { s with issuer := some (i, path) }) h
        · exact h
      · exact h

theorem Canonical.execMrel {gd : Guard} {mask : BitVec 4} : CanonicalNext (execMrel gd mask s) :=
  h.issue fun _ _ _ ht => ht.matrixBody (Res.Canonical.ite trivial (ht.of_mem (State.modEngine_mem ..)))

theorem Canonical.execMqinit {f : MqinitForm} : CanonicalNext (execMqinit f s) := by
  refine h.issue fun t g p ht => ht.matrixBody ?_
  dsimp only
  refine Res.Canonical.ite trivial (Res.Canonical.ite trivial (Res.Canonical.ite trivial ?_))
  split <;> exact ht.of_mem (by simp)

theorem Canonical.execMdrainApply {op part : Nat} : CanonicalNext (execMdrainApply op part s) := by
  unfold Machine.execMdrainApply
  split
  · exact h
  · dsimp only
    split
    · refine CanonicalNext.ite h (CanonicalNext.ite h.staleTransfer (CanonicalNext.ite h ?_))
      rw [canonicalNext_next, State.putOp_mem, State.servedAbroad_mem, State.noteTw_mem]
      exact Canonical.ite (h.foldl fun _ _ h => h.drainWrite) (h.foldl fun _ _ h => h.drainWrite)
    · exact h

theorem Canonical.execPreemptWindowExpire {c : Nat} : CanonicalNext (execPreemptWindowExpire c s) := by
  unfold Machine.execPreemptWindowExpire
  split
  · exact h
  · split
    · exact h
    · refine Canonical.foldl h fun _ _ h => ?_
      split
      · exact h.forceStop
      · exact h

theorem Canonical.execSaveComplete {c : Nat} : CanonicalNext (execSaveComplete c s) := by
  unfold Machine.execSaveComplete
  split
  · exact h
  · refine CanonicalNext.ite h (CanonicalNext.ite h.cleanL1 (CanonicalNext.ite h ?_))
    extract_lets cleaned kept saved mine links cut t v
    have hs : Canonical saved.mem := (h.cleanL1.foldl fun _ _ h => h.keepCluster).foldl fun _ _ h => h.saveCrew
    have ht : Canonical t.mem := Canonical.of_mem (s := cut) hs (State.modCtx_mem ..)
    clear_value t
    exact CanonicalNext.ite (Canonical.resume_getD ht.takeCheckpoint) ht

theorem Canonical.execTimeResumePlace {c : Nat} : CanonicalNext (execTimeResumePlace c s) := by
  unfold Machine.execTimeResumePlace
  split
  · exact h
  · split
    · exact h
    · split
      · next he => exact h.resume he
      · exact h

theorem Canonical.execDbgStop {c : Nat} {sel : DbgSel} : CanonicalNext (execDbgStop c sel s) := by
  unfold Machine.execDbgStop
  split
  · refine h.of_mem (State.eachNamed_mem fun _ _ => ?_)
    split <;> simp
  · exact h

theorem Canonical.execDbgGo {c : Nat} {sel : DbgSel} : CanonicalNext (execDbgGo c sel s) :=
  h.of_mem (State.eachNamed_mem fun _ _ => State.resumeStop_mem ..)

theorem Canonical.execDbgStep {c : Nat} {sel : DbgSel} : CanonicalNext (execDbgStep c sel s) :=
  h.of_mem (State.eachNamed_mem fun _ _ => State.resumeStop_mem ..)

theorem Canonical.execSvcDrain {island : Nat} : CanonicalNext (execSvcDrain island s) := by
  refine h.svcOn fun c => ?_
  refine h.of_mem (State.foldl_mem (fun _ _ => ?_) _ _)
  split <;> simp

theorem Canonical.execSvcReturn {island : Nat} : CanonicalNext (execSvcReturn island s) := h.svcOn fun _ => h

theorem Canonical.execSvcRepair {island core : Nat} :
    CanonicalNext (execSvcRepair island core s) := h.svcOn fun _ => h

theorem Canonical.execSvcModule {island addr : Nat} :
    CanonicalNext (execSvcModule island addr s) := h.svcOn fun _ => h

theorem Canonical.execSvcComplete : CanonicalNext (execSvcComplete s) := by
  unfold Machine.execSvcComplete
  split
  · exact h
  · split
    · exact h
    · exact Canonical.ite (h.of_mem (State.checkModule_mem ..)) (Canonical.ite (h.of_mem (State.cycleEnd_mem ..)) h)

theorem Canonical.execSoftError {a : EccAct} : CanonicalNext (execSoftError a s) := by
  unfold Machine.execSoftError
  split
  · split <;> exact h
  · exact h.ctxFault
  · dsimp only
    split <;> exact h
  · exact Canonical.foldl h fun _ _ h => Canonical.ite h.ctxFault h

end

theorem Canonical.execBr {s : State} {gd : Guard} {disp : Word} (h : Canonical s.mem) :
    CanonicalNext (execBr gd disp s) := by
  refine h.issue fun _ _ _ ht => ?_
  dsimp only
  (repeat' split) <;> simp [ht]

theorem Canonical.execJmpi {s : State} {gd : Guard} {a : Fin 64} (h : Canonical s.mem) :
    CanonicalNext (execJmpi gd a s) := by
  refine h.issue fun _ _ _ ht => ?_
  dsimp only
  (repeat' split) <;> simp [ht]

theorem Canonical.execCall {s : State} {gd : Guard} {disp : Word} (h : Canonical s.mem) :
    CanonicalNext (execCall gd disp s) := by
  refine h.issue fun _ _ _ ht => ?_
  dsimp only
  (repeat' split) <;> simp [ht]

theorem Canonical.execCallReg {s : State} {gd : Guard} {a : Fin 64} (h : Canonical s.mem) :
    CanonicalNext (execCallReg gd a s) := by
  refine h.issue fun _ _ _ ht => ?_
  dsimp only
  (repeat' split) <;> simp [ht]

theorem Canonical.execBrd {s : State} {gd : Guard} {tok : Fin 16} {disp : Word} (h : Canonical s.mem) :
    CanonicalNext (execBrd gd tok disp s) := by
  refine h.issue fun t _ _ ht => ?_
  refine Res.Canonical.ite trivial (Res.Canonical.ite ht (Res.Canonical.ite ht ?_))
  split
  · refine Res.Canonical.ite (Canonical.keepDeep (ht.of_mem (State.setGroup_mem ..))) ?_
    exact Res.Canonical.ite ht.detach ht.detach
  · exact ht

theorem Canonical.execRcv {s : State} {tok : Fin 16} (h : Canonical s.mem) : CanonicalNext (execRcv tok s) := by
  refine h.issue fun t _ _ ht => ?_
  refine Res.Canonical.ite ht (Res.Canonical.ite trivial (Res.Canonical.ite (Res.Canonical.ite trivial ?_) ?_))
  · exact Canonical.fuse (ht.of_mem (State.setGroup_mem ..))
  · refine Canonical.of_mem (Canonical.queuePath (ht.of_mem ?_)) (State.modGroup_mem ..)
    rw [State.setGroup_mem, State.sched_mem]

theorem Canonical.execSetsr {s : State} {gd : Guard} {a : Fin 64} (h : Canonical s.mem) :
    CanonicalNext (execSetsr gd a s) := by
  refine h.issue fun _ _ _ ht => ?_
  dsimp only
  (repeat' split) <;> simp [ht]

theorem Canonical.execCellInit {s : State} {f : CellInitForm} (h : Canonical s.mem) :
    CanonicalNext (execCellInit f s) := by
  refine h.issue fun _ _ _ ht => ht.cellBody fun _ _ _ _ _ ht => ?_
  dsimp only
  (repeat' split) <;> simp [ht]

theorem Canonical.execCellArrive {s : State} {f : CellArriveForm} (h : Canonical s.mem) :
    CanonicalNext (execCellArrive f s) := by
  refine h.issue fun _ _ _ ht => ht.cellBody fun u g p r c hu => ?_
  split
  · trivial
  · exact Res.Canonical.ite trivial (Canonical.cellStep (hu.of_mem (State.setGroup_mem ..)))

theorem Canonical.execCellWait {s : State} {f : CellWaitForm} (h : Canonical s.mem) :
    CanonicalNext (execCellWait f s) := by
  refine h.issue fun _ _ _ ht => ht.cellBody fun _ _ _ _ _ ht => ?_
  dsimp only
  (repeat' split) <;> simp [ht]

theorem Canonical.execCellTest {s : State} {f : CellTestForm} (h : Canonical s.mem) :
    CanonicalNext (execCellTest f s) := by
  refine h.issue fun _ _ _ ht => ht.cellBody fun _ _ _ _ _ ht => ?_
  dsimp only
  (repeat' split) <;> simp [ht]

theorem Canonical.execCellArm {s : State} {f : CellArmForm} (h : Canonical s.mem) :
    CanonicalNext (execCellArm f s) := by
  refine h.issue fun _ _ _ ht => ht.cellBody fun u g p r c hu => ?_
  have hu' := fun g => hu.of_mem (State.setGroup_mem u g)
  exact Res.Canonical.ite trivial (Res.Canonical.ite (hu' _) (Canonical.setCell (hu' _)))

theorem Canonical.execCompletionInterrupt {s : State} {i : GroupId} (h : Canonical s.mem) :
    CanonicalNext (execCompletionInterrupt i s) := by
  unfold Machine.execCompletionInterrupt
  (repeat' split) <;> simp [h]

theorem Canonical.execCpa {s : State} {f : CpaForm} (h : Canonical s.mem) : CanonicalNext (execCpa f s) := by
  refine h.issue fun _ _ _ ht => ?_
  dsimp only
  (repeat' split) <;> simp [ht]

theorem Canonical.execCpaTransfer {s : State} {op x : Nat} (h : Canonical s.mem) :
    CanonicalNext (execCpaTransfer op x s) := by
  unfold Machine.execCpaTransfer
  dsimp only
  (repeat' split) <;> simp [h]

theorem Canonical.execBcomp {s : State} {f : BcompForm} (h : Canonical s.mem) : CanonicalNext (execBcomp f s) := by
  refine h.issue fun _ _ _ ht => ?_
  dsimp only
  (repeat' split) <;> simp [ht]

theorem Canonical.execMetadataPush {s : State} {op : Nat} (h : Canonical s.mem) :
    CanonicalNext (execMetadataPush op s) := by
  unfold Machine.execMetadataPush
  dsimp only
  (repeat' split) <;> simp [h]

theorem Canonical.execWaitc {s : State} {gd : Guard} {path : Fin 8} {thr : Threshold} (h : Canonical s.mem) :
    CanonicalNext (execWaitc gd path thr s) := by
  refine h.issue fun _ _ _ ht => ?_
  dsimp only
  (repeat' split) <;> simp [ht]

theorem Canonical.execFenceComplete {s : State} {i : GroupId} {fence : Nat} (h : Canonical s.mem) :
    CanonicalNext (execFenceComplete i fence s) := by
  unfold Machine.execFenceComplete
  (repeat' split) <;> simp [h]

theorem Canonical.execReservationExpire {s : State} {n : Nat} (h : Canonical s.mem) :
    CanonicalNext (execReservationExpire n s) := by
  unfold Machine.execReservationExpire
  (repeat' split) <;> simp [h]

theorem Canonical.execPrefetch {s : State} {gd : Guard} {addr : Addr} (h : Canonical s.mem) :
    CanonicalNext (execPrefetch gd addr s) := by
  refine h.issue fun _ _ _ ht => ?_
  dsimp only
  (repeat' split) <;> simp [ht]

theorem Canonical.execLoadDelivered {s : State} {op : Delivery} (h : Canonical s.mem) :
    CanonicalNext (execLoadDelivered op s) := by
  unfold Machine.execLoadDelivered
  dsimp only
  (repeat' split) <;> simp [h]

theorem Canonical.execStoreAck {s : State} {op part : Nat} (h : Canonical s.mem) :
    CanonicalNext (execStoreAck op part s) := by
  unfold Machine.execStoreAck
  dsimp only
  (repeat' split) <;> simp [h]

theorem Canonical.execSliceLoad {s : State} {req : Nat} {drop : Option Nat} (h : Canonical s.mem) :
    CanonicalNext (execSliceLoad req drop s) := by
  unfold Machine.execSliceLoad
  dsimp only
  (repeat' split) <;> simp [h]

theorem Canonical.execSliceStore {s : State} {req : Nat} {drop : Option Nat} (h : Canonical s.mem) :
    CanonicalNext (execSliceStore req drop s) := by
  simp [Machine.execSliceStore, h]

theorem Canonical.execSliceAtomic {s : State} {req : Nat} {drop : Option Nat} (h : Canonical s.mem) :
    CanonicalNext (execSliceAtomic req drop s) := by
  simp [Machine.execSliceAtomic, h]

theorem Canonical.execTimelineSignal {s : State} {op : Nat} (h : Canonical s.mem) :
    CanonicalNext (execTimelineSignal op s) := by
  unfold Machine.execTimelineSignal
  (repeat' split) <;> simp [h]

theorem Canonical.execCompletionReply {s : State} {req : Nat} (h : Canonical s.mem) :
    CanonicalNext (execCompletionReply req s) := by
  unfold Machine.execCompletionReply
  dsimp only
  (repeat' split) <;> simp [h]

theorem Canonical.execCongestionSample {s : State} {cluster : Nat} (h : Canonical s.mem) :
    CanonicalNext (execCongestionSample cluster s) := by
  unfold Machine.execCongestionSample
  (repeat' split) <;> simp [h]

theorem Canonical.execCrossbarReply {s : State} {cluster core : Nat} {marked : Bool} (h : Canonical s.mem) :
    CanonicalNext (execCrossbarReply cluster core marked s) := by
  unfold Machine.execCrossbarReply
  dsimp only
  split <;> simp [h]

theorem Canonical.execTinfo {s : State} {gd : Guard} {d a : Fin 64} (h : Canonical s.mem) :
    CanonicalNext (execTinfo gd d a s) := by
  refine h.issue fun _ _ _ ht => ?_
  split <;> simp [ht]

theorem Canonical.execTpart {s : State} {gd : Guard} {pool : Fin 16} {d b : Fin 64} (h : Canonical s.mem) :
    CanonicalNext (execTpart gd pool d b s) := by
  refine h.issue fun _ _ _ ht => ?_
  dsimp only
  (repeat' split) <;> simp [ht]

theorem Canonical.execQpush {s : State} {gd : Guard} {q : Fin 16} {a : Fin 64} (h : Canonical s.mem) :
    CanonicalNext (execQpush gd q a s) := by
  refine h.issue fun _ _ _ ht => ?_
  split <;> simp [ht]

theorem Canonical.execQmc {s : State} {gd : Guard} {a b : Fin 64} (h : Canonical s.mem) :
    CanonicalNext (execQmc gd a b s) := by
  refine h.issue fun _ _ _ ht => ?_
  dsimp only
  (repeat' split) <;> simp [ht]

theorem Canonical.execQpushVisible {s : State} {i : GroupId} {path : Nat} (h : Canonical s.mem) :
    CanonicalNext (execQpushVisible i path s) := by
  unfold Machine.execQpushVisible
  (repeat' split) <;> simp [h]

theorem Canonical.execQpop {s : State} {gd : Guard} {q : Fin 16} {d : Fin 64} (h : Canonical s.mem) :
    CanonicalNext (execQpop gd q d s) := by
  refine h.issue fun _ _ _ ht => ?_
  (repeat' split) <;> simp [ht]

theorem Canonical.execQtry {s : State} {gd : Guard} {q : Fin 16} {d : Fin 64} {c : Fin 8} (h : Canonical s.mem) :
    CanonicalNext (execQtry gd q d c s) := by
  refine h.issue fun _ _ _ ht => ?_
  dsimp only
  (repeat' split) <;> simp [ht]

theorem Canonical.execBarArrivalApply {s : State} {i : GroupId} {path : Nat} (h : Canonical s.mem) :
    CanonicalNext (execBarArrivalApply i path s) := by
  unfold Machine.execBarArrivalApply
  dsimp only
  (repeat' split) <;> simp [h]

theorem Canonical.execBarWait {s : State} {f : BarWaitForm} (h : Canonical s.mem) :
    CanonicalNext (execBarWait f s) := by
  refine h.issue fun _ _ _ ht => ?_
  dsimp only
  (repeat' split) <;> simp [ht]

theorem Canonical.execBarArriveRem {s : State} {f : BarRemForm} (h : Canonical s.mem) :
    CanonicalNext (execBarArriveRem f s) := by
  refine h.issue fun _ _ _ ht => ?_
  dsimp only
  (repeat' split) <;> simp [ht]

theorem Canonical.execBarRemoteApply {s : State} {op : Nat} (h : Canonical s.mem) :
    CanonicalNext (execBarRemoteApply op s) := by
  unfold Machine.execBarRemoteApply
  dsimp only
  (repeat' split) <;> simp [h]

theorem Canonical.execDissolveEnd {s : State} {i : GroupId} (h : Canonical s.mem) :
    CanonicalNext (execDissolveEnd i s) := by
  unfold Machine.execDissolveEnd
  (repeat' split) <;> simp [h]

theorem Canonical.execFragmentSlotFill {s : State} {i : GroupId} {slot : Fin 2} (h : Canonical s.mem) :
    CanonicalNext (execFragmentSlotFill i slot s) := by
  unfold Machine.execFragmentSlotFill
  (repeat' split) <;> simp [h]

theorem Canonical.execFragmentUnspill {s : State} {cluster core : Nat} (h : Canonical s.mem) :
    CanonicalNext (execFragmentUnspill cluster core s) := by
  simp [Machine.execFragmentUnspill, h]

theorem Canonical.execPathSwap {s : State} {i : GroupId} (h : Canonical s.mem) :
    CanonicalNext (execPathSwap i s) := by
  unfold Machine.execPathSwap
  (repeat' split) <;> simp [h]

theorem Canonical.execGroupEnd {s : State} {i : GroupId} (h : Canonical s.mem) :
    CanonicalNext (execGroupEnd i s) := by
  unfold Machine.execGroupEnd
  split
  · exact h
  · refine CanonicalNext.ite h (Canonical.of_mem (Canonical.exitRecord ?_) (State.removeGroup_mem ..))
    exact Canonical.ite (h.of_mem (State.setEngine_mem ..)) h

theorem Canonical.execProgressMarkFirst {s : State} {i : GroupId} (h : Canonical s.mem) :
    CanonicalNext (execProgressMarkFirst i s) := by
  unfold Machine.execProgressMarkFirst
  (repeat' split) <;> simp [h]

theorem Canonical.execStallClock {s : State} {i : GroupId} (h : Canonical s.mem) :
    CanonicalNext (execStallClock i s) := by
  simp [Machine.execStallClock, h]

theorem Canonical.execYieldExpire {s : State} {i : GroupId} {path : Nat} (h : Canonical s.mem) :
    CanonicalNext (execYieldExpire i path s) := by
  unfold Machine.execYieldExpire
  (repeat' split) <;> simp [h]

theorem Canonical.execKick {s : State} {c q : Nat} {v : DWord} (h : Canonical s.mem) :
    CanonicalNext (execKick c q v s) := by
  unfold Machine.execKick
  dsimp only
  split <;> simp [h]

theorem Canonical.execDoorbell {s : State} {link page off size : Nat} {v : DWord} (h : Canonical s.mem) :
    CanonicalNext (execDoorbell link page off size v s) := by
  unfold Machine.execDoorbell
  dsimp only
  split <;> simp [h]

theorem Canonical.execPacketRead {s : State} {c q : Nat} (h : Canonical s.mem) :
    CanonicalNext (execPacketRead c q s) := by
  unfold Machine.execPacketRead
  dsimp only
  split <;> simp [h]

theorem Canonical.execSealReread {s : State} {c q : Nat} (h : Canonical s.mem) :
    CanonicalNext (execSealReread c q s) := by
  unfold Machine.execSealReread
  dsimp only
  (repeat' split) <;> simp [h]

theorem Canonical.execQueueEnable {s : State} {c q : Nat} (h : Canonical s.mem) :
    CanonicalNext (execQueueEnable c q s) := by
  unfold Machine.execQueueEnable
  dsimp only
  (repeat' split) <;> simp [h]

theorem Canonical.execQueueDisable {s : State} {c q : Nat} (h : Canonical s.mem) :
    CanonicalNext (execQueueDisable c q s) := by
  unfold Machine.execQueueDisable
  dsimp only
  split <;> simp [h]

theorem Canonical.execQueueRestart {s : State} {c q : Nat} (h : Canonical s.mem) :
    CanonicalNext (execQueueRestart c q s) := by
  unfold Machine.execQueueRestart
  dsimp only
  split <;> simp [h]

theorem Canonical.execQueueDispatch {s : State} {c q seq : Nat} (h : Canonical s.mem) :
    CanonicalNext (execQueueDispatch c q seq s) := by
  unfold Machine.execQueueDispatch
  dsimp only
  (repeat' split) <;> simp [h]

theorem Canonical.execWaitTimelineTest {s : State} {kid : Nat} (h : Canonical s.mem) :
    CanonicalNext (execWaitTimelineTest kid s) := by
  unfold Machine.execWaitTimelineTest
  (repeat' split) <;> simp [h]

theorem Canonical.execMarkerComplete {s : State} {kid : Nat} (h : Canonical s.mem) :
    CanonicalNext (execMarkerComplete kid s) := by
  unfold Machine.execMarkerComplete
  (repeat' split) <;> simp [h]

theorem Canonical.execDeadlineDrop {s : State} {kid : Nat} (h : Canonical s.mem) :
    CanonicalNext (execDeadlineDrop kid s) := by
  unfold Machine.execDeadlineDrop
  (repeat' split) <;> simp [h]

theorem Canonical.execLaunchKickSent {s : State} {i : GroupId} {path : Nat} (h : Canonical s.mem) :
    CanonicalNext (execLaunchKickSent i path s) := by
  unfold Machine.execLaunchKickSent
  (repeat' split) <;> simp [h]

theorem Canonical.execTlsigSent {s : State} {i : GroupId} {path : Nat} (h : Canonical s.mem) :
    CanonicalNext (execTlsigSent i path s) := by
  unfold Machine.execTlsigSent
  (repeat' split) <;> simp [h]

theorem Canonical.execTlwaitTimeout {s : State} {i : GroupId} {path : Nat} (h : Canonical s.mem) :
    CanonicalNext (execTlwaitTimeout i path s) := by
  unfold Machine.execTlwaitTimeout
  (repeat' split) <;> simp [h]

theorem Canonical.execTranslationWalk {s : State} {c cluster va : Nat} (h : Canonical s.mem) :
    CanonicalNext (execTranslationWalk c cluster va s) := by
  unfold Machine.execTranslationWalk
  dsimp only
  (repeat' split) <;> simp [h]

theorem Canonical.execWalkComplete {s : State} {c va : Nat} (h : Canonical s.mem) :
    CanonicalNext (execWalkComplete c va s) := by
  unfold Machine.execWalkComplete
  dsimp only
  split
  · exact h
  · split
    · exact h.of_mem ((State.resumePrefetches_mem ..).trans (State.failPage_mem ..))
    · refine h.of_mem ((State.resumePrefetches_mem ..).trans ?_)
      exact State.foldl_mem (fun _ _ => State.cacheLeaf_mem ..) _ _

theorem Canonical.execTlbinv {s : State} {v : DWord} (h : Canonical s.mem) : CanonicalNext (execTlbinv v s) := by
  unfold Machine.execTlbinv
  dsimp only
  split <;> simp [h]

theorem Canonical.execTlbinvComplete {s : State} (h : Canonical s.mem) : CanonicalNext (execTlbinvComplete s) := by
  unfold Machine.execTlbinvComplete
  dsimp only
  (repeat' split) <;> simp [h]

theorem Canonical.execPageFaultRecord {s : State} {i : GroupId} {path page : Nat} (h : Canonical s.mem) :
    CanonicalNext (execPageFaultRecord i path page s) := by
  unfold Machine.execPageFaultRecord
  dsimp only
  (repeat' split) <;> simp [h]

theorem Canonical.execBindw {s : State} {f : BindwForm} (h : Canonical s.mem) : CanonicalNext (execBindw f s) := by
  refine h.issue fun _ _ _ ht => ?_
  dsimp only
  (repeat' split) <;> simp [ht]

theorem Canonical.execUnbindw {s : State} {gd : Guard} {slot : Fin 64} (h : Canonical s.mem) :
    CanonicalNext (execUnbindw gd slot s) := by
  refine h.issue fun _ _ _ ht => ?_
  split <;> simp [ht]

theorem Canonical.execBindwComplete {s : State} {i : GroupId} {path : Nat} (h : Canonical s.mem) :
    CanonicalNext (execBindwComplete i path s) := by
  unfold Machine.execBindwComplete
  (repeat' split) <;> simp [h]

theorem Canonical.execCrewPlace {s : State} {kid : Nat} {ch : PlaceChoice} (h : Canonical s.mem) :
    CanonicalNext (execCrewPlace kid ch s) := by
  unfold Machine.execCrewPlace
  (repeat' split) <;> simp [h]

theorem Canonical.execKernelBoundary {s : State} {kid : Nat} (h : Canonical s.mem) :
    CanonicalNext (execKernelBoundary kid s) := by
  unfold Machine.execKernelBoundary
  dsimp only
  (repeat' split) <;> simp [h]

theorem Canonical.execCrewRetire {s : State} {kid crew : Nat} (h : Canonical s.mem) :
    CanonicalNext (execCrewRetire kid crew s) := by
  unfold Machine.execCrewRetire
  (repeat' split) <;> simp [h]

theorem Canonical.execKernelRetire {s : State} {kid : Nat} (h : Canonical s.mem) :
    CanonicalNext (execKernelRetire kid s) := by
  unfold Machine.execKernelRetire
  dsimp only
  (repeat' split) <;> simp [h]

theorem Canonical.execHostAbandonChoice {s : State} {kid : Nat} {fault : Bool} (h : Canonical s.mem) :
    CanonicalNext (execHostAbandonChoice kid fault s) := by
  unfold Machine.execHostAbandonChoice
  (repeat' split) <;> simp [h]

theorem Canonical.execLinkEnable {s : State} {port : Nat} (h : Canonical s.mem) :
    CanonicalNext (execLinkEnable port s) := by
  unfold Machine.execLinkEnable
  dsimp only
  split <;> simp [h]

theorem Canonical.execLinkDisable {s : State} {port : Nat} (h : Canonical s.mem) :
    CanonicalNext (execLinkDisable port s) := by
  unfold Machine.execLinkDisable
  refine CanonicalNext.ite h ?_
  have moved := h.of_mem (State.moveLink_mem s port 0)
  have lost : Canonical (if s.links.link port = 2 then (s.moveLink port 0).loseLink port
      else s.moveLink port 0).mem := Canonical.ite moved.loseLink moved
  exact Canonical.ite lost lost

theorem Canonical.execLinkTrained {s : State} {link : Nat} (h : Canonical s.mem) :
    CanonicalNext (execLinkTrained link s) := by
  unfold Machine.execLinkTrained
  (repeat' split) <;> simp [h]

theorem Canonical.execLinkTrainTimeout {s : State} {link : Nat} (h : Canonical s.mem) :
    CanonicalNext (execLinkTrainTimeout link s) := by
  unfold Machine.execLinkTrainTimeout
  (repeat' split) <;> simp [h]

theorem Canonical.execLinkRetryFail {s : State} {link : Nat} (h : Canonical s.mem) :
    CanonicalNext (execLinkRetryFail link s) := by
  simp [Machine.execLinkRetryFail, h]

theorem Canonical.execFibreLockLoss {s : State} {link : Nat} (h : Canonical s.mem) :
    CanonicalNext (execFibreLockLoss link s) := by
  simp [Machine.execFibreLockLoss, h]

theorem Canonical.execCreditReport {s : State} {port sh e0 e1 : Nat} (h : Canonical s.mem) :
    CanonicalNext (execCreditReport port sh e0 e1 s) := by
  unfold Machine.execCreditReport
  dsimp only
  split <;> simp [h]

theorem Canonical.execPacketHop {s : State} {a : HopAct} (h : Canonical s.mem) :
    CanonicalNext (execPacketHop a s) := by
  unfold Machine.execPacketHop
  cases a with
  | enter port pkt =>
    exact CanonicalNext.ite h (CanonicalNext.ite (h.of_mem (State.discardPacket_mem ..)) (CanonicalNext.ite h h))
  | forward n =>
    have gone := h.of_mem (State.dropHeld_mem s n)
    dsimp only
    split
    · exact h
    · refine CanonicalNext.ite h (CanonicalNext.ite ?_ ?_)
      · rw [canonicalNext_next]
        split
        · exact gone.ctxFault
        · exact gone
      · split
        · refine h.of_mem ?_
          rw [State.leaveBy_mem, State.dropHeld_mem, State.sendGone_mem]
        · exact h
  | depart req =>
    dsimp only
    split
    · exact h
    · split
      · exact h
      · exact CanonicalNext.ite h h.depart
  | onward op => exact h.of_mem (State.sendOn_mem ..)

theorem Canonical.execMessageAnswer {s : State} {op : Nat} (h : Canonical s.mem) :
    CanonicalNext (execMessageAnswer op s) := by
  unfold Machine.execMessageAnswer
  (repeat' split) <;> simp [h]

theorem Canonical.execMsend {s : State} {f : MsendForm} (h : Canonical s.mem) : CanonicalNext (execMsend f s) := by
  refine h.issue fun _ _ _ ht => ?_
  dsimp only
  (repeat' split) <;> simp [ht]

theorem Canonical.execMrecv {s : State} {f : MrecvForm} (h : Canonical s.mem) : CanonicalNext (execMrecv f s) := by
  refine h.issue fun _ _ _ ht => ?_
  dsimp only
  (repeat' split) <;> simp [ht]

theorem Canonical.execMprobe {s : State} {f : MprobeForm} (h : Canonical s.mem) : CanonicalNext (execMprobe f s) := by
  refine h.issue fun _ _ _ ht => ?_
  dsimp only
  (repeat' split) <;> simp [ht]

theorem Canonical.execMwaitrTimeout {s : State} {i : GroupId} {path : Nat} (h : Canonical s.mem) :
    CanonicalNext (execMwaitrTimeout i path s) := by
  unfold Machine.execMwaitrTimeout
  (repeat' split) <;> simp [h]

theorem Canonical.execPeerIngressAtomic {s : State} {a : IngressAtomic} (h : Canonical s.mem) :
    CanonicalNext (execPeerIngressAtomic a s) := by
  unfold Machine.execPeerIngressAtomic
  cases a with
  | outbound req =>
    dsimp only
    split
    · exact h
    · split
      · exact h.refuseRemote
      · exact h.serve
  | inbound n =>
    have gone := h.of_mem (State.dropHeld_mem s n)
    dsimp only
    split
    · exact h
    · split
      · exact gone.peerAtomic
      · exact gone
  | evict port =>
    dsimp only
    split <;> exact h

theorem Canonical.execHostAtomic {s : State} {req : Nat} (h : Canonical s.mem) :
    CanonicalNext (execHostAtomic req s) := by
  simp [Machine.execHostAtomic, h]

theorem Canonical.execIngressWrite {s : State} {a : IngressAct} (h : Canonical s.mem) :
    CanonicalNext (execIngressWrite a s) := by
  unfold Machine.execIngressWrite
  cases a with
  | outbound req => exact h.serve
  | inbound n =>
    have gone := h.of_mem (State.dropHeld_mem s n)
    dsimp only
    split
    · exact h
    · split
      · exact Canonical.of_mem gone.outsideWrite ((State.answer_mem ..).trans (State.answer_mem ..))
      · exact gone

theorem Canonical.execIngressRead {s : State} {a : IngressAct} (h : Canonical s.mem) :
    CanonicalNext (execIngressRead a s) := by
  unfold Machine.execIngressRead
  dsimp only
  (repeat' split) <;> simp [h]

theorem Canonical.execHostWrite {s : State} {link pa size data : Nat} (h : Canonical s.mem) :
    CanonicalNext (execHostWrite link pa size data s) := by
  simp [Machine.execHostWrite, h]

theorem Canonical.execMrelUnbind {s : State} {i : GroupId} {z : Fin 4} (h : Canonical s.mem) :
    CanonicalNext (execMrelUnbind i z s) := by
  unfold Machine.execMrelUnbind
  dsimp only
  (repeat' split) <;> simp [h]

theorem Canonical.execMzero {s : State} {gd : Guard} {d : Fin 4} (h : Canonical s.mem) :
    CanonicalNext (execMzero gd d s) := by
  refine h.issue fun _ _ _ ht => ht.tableBody ?_
  (repeat' split) <;> simp [ht]

theorem Canonical.execMma {s : State} {f : MmaForm} (h : Canonical s.mem) : CanonicalNext (execMma f s) := by
  refine h.issue fun _ _ _ ht => ht.tableBody ?_
  dsimp only
  (repeat' split) <;> simp [ht]

theorem Canonical.execMqinitWord {s : State} {op : Nat} (h : Canonical s.mem) :
    CanonicalNext (execMqinitWord op s) := by
  unfold Machine.execMqinitWord
  dsimp only
  (repeat' split) <;> simp [h]

theorem Canonical.execMatrixPass {s : State} {cluster quad : Nat} (h : Canonical s.mem) :
    CanonicalNext (execMatrixPass cluster quad s) := by
  unfold Machine.execMatrixPass
  refine CanonicalNext.ite h ?_
  split
  · exact h
  · split
    · exact h.advance
    · exact h

theorem Canonical.execMmaComplete {s : State} {cluster quad entry : Nat} (h : Canonical s.mem) :
    CanonicalNext (execMmaComplete cluster quad entry s) := by
  unfold Machine.execMmaComplete
  dsimp only
  (repeat' split) <;> simp [h]

theorem Canonical.execMdrain {s : State} {f : MdrainForm} (h : Canonical s.mem) : CanonicalNext (execMdrain f s) := by
  refine h.issue fun _ _ _ ht => ht.tableBody ?_
  dsimp only
  (repeat' split) <;> simp [ht]

theorem Canonical.execMload {s : State} {f : MloadForm} (h : Canonical s.mem) : CanonicalNext (execMload f s) := by
  refine h.issue fun _ _ _ ht => ht.tableBody ?_
  dsimp only
  (repeat' split) <;> simp [ht]

theorem Canonical.execMdrainComplete {s : State} {op : Nat} (h : Canonical s.mem) :
    CanonicalNext (execMdrainComplete op s) := by
  unfold Machine.execMdrainComplete
  dsimp only
  (repeat' split) <;> simp [h]

theorem Canonical.execMloadComplete {s : State} {op : Nat} (h : Canonical s.mem) :
    CanonicalNext (execMloadComplete op s) := by
  unfold Machine.execMloadComplete
  dsimp only
  (repeat' split) <;> simp [h]

theorem Canonical.execCtxCreate {s : State} {c : Nat} (h : Canonical s.mem) : CanonicalNext (execCtxCreate c s) := by
  unfold Machine.execCtxCreate
  (repeat' split) <;> simp [h]

theorem Canonical.execCtxDestroy {s : State} {c : Nat} (h : Canonical s.mem) :
    CanonicalNext (execCtxDestroy c s) := by
  unfold Machine.execCtxDestroy
  dsimp only
  (repeat' split) <;> simp [h]

theorem Canonical.execCtxKill {s : State} {c : Nat} (h : Canonical s.mem) : CanonicalNext (execCtxKill c s) := by
  unfold Machine.execCtxKill
  dsimp only
  (repeat' split) <;> simp [h]

theorem Canonical.execContainmentComplete {s : State} {c : Nat} (h : Canonical s.mem) :
    CanonicalNext (execContainmentComplete c s) := by
  unfold Machine.execContainmentComplete
  dsimp only
  (repeat' split) <;> simp [h]

theorem Canonical.execCtxPreempt {s : State} {c : Nat} (h : Canonical s.mem) :
    CanonicalNext (execCtxPreempt c s) := by
  unfold Machine.execCtxPreempt
  (repeat' split) <;> simp [h]

theorem Canonical.execSliceExpiry {s : State} {c : Nat} (h : Canonical s.mem) :
    CanonicalNext (execSliceExpiry c s) := by
  unfold Machine.execSliceExpiry
  (repeat' split) <;> simp [h]

theorem Canonical.execGroupSave {s : State} {i : GroupId} (h : Canonical s.mem) :
    CanonicalNext (execGroupSave i s) := by
  unfold Machine.execGroupSave
  (repeat' split) <;> simp [h]

theorem Canonical.execCtxResume {s : State} {c : Nat} (h : Canonical s.mem) : CanonicalNext (execCtxResume c s) := by
  unfold Machine.execCtxResume
  refine CanonicalNext.ite h (CanonicalNext.ite (h.of_mem (State.err_mem ..)) ?_)
  split
  · next he =>
    split at he
    · cases he
    · exact h.resume he
  · exact h.of_mem (State.modCtx_mem ..)

theorem Canonical.execWatchdog {s : State} {c : Nat} (h : Canonical s.mem) : CanonicalNext (execWatchdog c s) := by
  unfold Machine.execWatchdog
  (repeat' split) <;> simp [h]

theorem Canonical.execMark {s : State} {gd : Guard} {block : BitVec 20} (h : Canonical s.mem) :
    CanonicalNext (execMark gd block s) := by
  refine h.issue fun _ _ _ ht => ?_
  dsimp only
  (repeat' split) <;> simp [ht]

theorem Canonical.execEvt {s : State} {gd : Guard} {code : BitVec 16} {a : Fin 64} (h : Canonical s.mem) :
    CanonicalNext (execEvt gd code a s) := by
  refine h.issue fun _ _ _ ht => ?_
  split <;> simp [ht]

theorem Canonical.execTraceDrain {s : State} {cluster core : Nat} (h : Canonical s.mem) :
    CanonicalNext (execTraceDrain cluster core s) := by
  unfold Machine.execTraceDrain
  dsimp only
  (repeat' split) <;> simp [h]

theorem Canonical.execTrcbaseWrite {s : State} {c : Nat} {v : DWord} (h : Canonical s.mem) :
    CanonicalNext (execTrcbaseWrite c v s) := by
  unfold Machine.execTrcbaseWrite
  dsimp only
  (repeat' split) <;> simp [h]

theorem Canonical.execFreezeReceive {s : State} {cluster core : Nat} (h : Canonical s.mem) :
    CanonicalNext (execFreezeReceive cluster core s) := by
  unfold Machine.execFreezeReceive
  dsimp only
  (repeat' split) <;> simp [h]

theorem Canonical.execCapsuleSeal {s : State} (h : Canonical s.mem) : CanonicalNext (execCapsuleSeal s) := by
  unfold Machine.execCapsuleSeal
  dsimp only
  (repeat' split) <;> simp [h]

theorem Canonical.execCapsuleViewReady {s : State} (h : Canonical s.mem) :
    CanonicalNext (execCapsuleViewReady s) := by
  unfold Machine.execCapsuleViewReady
  dsimp only
  (repeat' split) <;> simp [h]

theorem Canonical.execRplctlWrite {s : State} {c : Nat} {v : DWord} (h : Canonical s.mem) :
    CanonicalNext (execRplctlWrite c v s) := by
  unfold Machine.execRplctlWrite
  dsimp only
  (repeat' split) <;> simp [h]

theorem Canonical.execCheckpoint {s : State} {c : Nat} (h : Canonical s.mem) :
    CanonicalNext (execCheckpoint c s) := by
  unfold Machine.execCheckpoint
  dsimp only
  (repeat' split) <;> simp [h]

theorem Canonical.execPowerUp {s : State} (h : Canonical s.mem) : CanonicalNext (execPowerUp s) := by
  unfold Machine.execPowerUp
  (repeat' split) <;> simp [h]

theorem Canonical.execPowerLoss {s : State} (h : Canonical s.mem) : CanonicalNext (execPowerLoss s) := by
  simp [Machine.execPowerLoss, h]

theorem Canonical.execFwGo {s : State} {v : DWord} (h : Canonical s.mem) : CanonicalNext (execFwGo v s) := by
  unfold Machine.execFwGo
  dsimp only
  split <;> simp [h]

theorem Canonical.execFwLoaded {s : State} {readOk : Bool} (h : Canonical s.mem) :
    CanonicalNext (execFwLoaded readOk s) := by
  unfold Machine.execFwLoaded
  dsimp only
  (repeat' split) <;> simp [h]

theorem Canonical.execAttestReady {s : State} (h : Canonical s.mem) : CanonicalNext (execAttestReady s) := by
  unfold Machine.execAttestReady
  dsimp only
  split <;> simp [h]

theorem Canonical.execClusterOffline {s : State} {c : Nat} (h : Canonical s.mem) :
    CanonicalNext (execClusterOffline c s) := by
  unfold Machine.execClusterOffline
  dsimp only
  (repeat' split) <;> simp [h]

theorem Canonical.execSvcCycle {s : State} {island : Nat} (h : Canonical s.mem) :
    CanonicalNext (execSvcCycle island s) := by
  unfold Machine.execSvcCycle
  dsimp only
  (repeat' split) <;> simp [h]

theorem Canonical.execRampStage {s : State} {quad : Nat} (h : Canonical s.mem) :
    CanonicalNext (execRampStage quad s) := by
  unfold Machine.execRampStage
  dsimp only
  (repeat' split) <;> simp [h]

theorem Canonical.execEnergyInterval {s : State} {nj : List (Nat × Nat × Nat)} (h : Canonical s.mem) :
    CanonicalNext (execEnergyInterval nj s) := by
  simp [Machine.execEnergyInterval, h]

theorem Canonical.execFabjobWrite {s : State} {c : Nat} {v : DWord} (h : Canonical s.mem) :
    CanonicalNext (execFabjobWrite c v s) := by
  unfold Machine.execFabjobWrite
  dsimp only
  (repeat' split) <;> simp [h]

theorem Canonical.execCongrateWrite {s : State} {cluster : Nat} {v : DWord} (h : Canonical s.mem) :
    CanonicalNext (execCongrateWrite cluster v s) := by
  unfold Machine.execCongrateWrite
  dsimp only
  split <;> simp [h]

theorem Canonical.execRspillWrite {s : State} {c : Nat} {v : DWord} (h : Canonical s.mem) :
    CanonicalNext (execRspillWrite c v s) := by
  unfold Machine.execRspillWrite
  (repeat' split) <;> simp [h]

theorem Canonical.execHostRead {s : State} {_link pa size : Nat} (h : Canonical s.mem) :
    CanonicalNext (execHostRead _link pa size s) := by
  unfold Machine.execHostRead
  dsimp only
  (repeat' split) <;> simp [h]

end Sys2Proof.Machine

/-! ## Register writes, and the events that they run -/

namespace Sys2Proof.Machine

section
variable {s : State} (h : Canonical s.mem)
include h

@[simp] theorem Canonical.completeReq {req : Nat} : Canonical (s.completeReq req).mem := by
  have hr : CanonicalNext (Machine.execCompletionReply req s) := h.execCompletionReply
  unfold State.completeReq
  split
  · next he => rwa [he] at hr
  · exact h

@[simp] theorem Canonical.takeReply {k : PktHeader} : Canonical (s.takeReply k).mem := by
  unfold State.takeReply
  (repeat' split) <;> simp [h]

theorem Canonical.execMessageArrival {n : Nat} : CanonicalNext (execMessageArrival n s) := by
  unfold Machine.execMessageArrival
  split
  · exact h
  · dsimp only
    refine CanonicalNext.ite h (CanonicalNext.ite (Canonical.takeReply (h.of_mem (State.dropHeld_mem ..)))
      (CanonicalNext.ite h (CanonicalNext.ite h ?_)))
    split
    · exact h
    · have delivered {p : PktHeader} {t : State} (ht : t.mem = s.mem) : Canonical (t.deliverMessage p).mem :=
        Canonical.deliverMessage (h.of_mem ht)
      refine Canonical.ite (delivered ?_) (Canonical.of_mem (delivered ?_) (State.answer_mem ..))
      all_goals simp

theorem Canonical.queueCommand {v : Nat} : Canonical (s.queueCommand v).mem := by
  unfold State.queueCommand
  dsimp only
  split
  · exact h.after h.execQueueEnable
  · exact h.after h.execQueueDisable
  · exact h.after h.execQueueRestart
  · exact h.after h.execQueueDispatch
  · exact h.of_mem (State.err_mem ..)

theorem Canonical.writeDebug {c v : Nat} : Canonical (s.writeDebug c v).mem := by
  unfold State.writeDebug
  extract_lets t sel
  have ht : Canonical t.mem := h.of_mem (State.putCtx_mem ..)
  split
  · exact ht.after ht.execDbgStop
  · exact ht.after ht.execDbgGo
  · exact ht.after ht.execDbgStep
  · exact ht

theorem Canonical.ctxCommand {writer : Option Nat} {v : Nat} : Canonical (s.ctxCommand writer v).mem := by
  unfold State.ctxCommand
  dsimp only
  split
  · exact h.after h.execCtxCreate
  · exact h.after h.execCtxPreempt
  · exact h.after h.execCtxResume
  · exact Canonical.ite (h.of_mem (State.err_mem ..)) (h.after h.execCtxKill)
  · exact h.after h.execCtxDestroy
  · exact h.of_mem (State.err_mem ..)

theorem Canonical.writePort {p v : Nat} : Canonical (s.writePort p v).mem := by
  unfold State.writePort
  extract_lets links role live t
  have ht : Canonical t.mem := h
  split
  · exact ht.after ht.execLinkEnable
  · exact ht.after ht.execLinkDisable
  · exact ht

theorem Canonical.serviceCommand {v : Nat} : Canonical (s.serviceCommand v).mem := by
  unfold State.serviceCommand
  dsimp only
  split
  · exact h.after h.execSvcDrain
  · exact h.after h.execSvcReturn
  · exact h.after h.execSvcRepair
  · exact h.after h.execSvcModule
  · exact h.after h.execSvcCycle
  · exact h.of_mem (State.svcErr_mem ..)

theorem Canonical.writeReg {writer : Option Nat} {r : DReg} {v : Nat} : Canonical (s.writeReg writer r v).mem := by
  unfold State.writeReg
  cases r with
  | ctxcmd => exact h.ctxCommand
  | qcmd => exact h.queueCommand
  | congctl => exact h.after h
  | congrate => exact h.after h.execCongrateWrite
  | rspill => exact h.after h.execRspillWrite
  | tlbinv => exact h.after h.execTlbinv
  | pftail => exact h.after h.execPftailWrite
  | pfresp => exact h.after h.execPfresp
  | portctl => exact h.writePort
  | fabjob => exact h.after h.execFabjobWrite
  | trcbase => exact h.after h.execTrcbaseWrite
  | dbgctl => exact h.writeDebug
  | capreq => exact h.after h
  | capack => exact h.after h
  | fwcmd => exact h.after h.execFwGo
  | svccmd => exact h.serviceCommand
  | pwrcap => exact h.after h
  | rplctl => exact h.after h.execRplctlWrite
  | kick => exact h.of_mem (State.kick_mem ..)
  | stitchcfg => exact h.of_mem (State.writeStitch_mem ..)
  | attreq => exact Canonical.ite (h.after h) h
  | ctxstat | svcstat | rplbase => exact Canonical.ite h h
  | ctxtab | pfbase | stitchrt | intcause | inten | dbgbp | cappush | fwsrc | rampcfg | qfloor => exact h
  | qrd | qstat | tlbstat | pfhead | portstat | waentstat | trchead | capstat | caprdy | bootstat | clstat | pwrstat =>
    exact h

@[simp] theorem Canonical.writeSpace {writer : Option Nat} {off size v : Nat} :
    Canonical (s.writeSpace writer off size v).mem := by
  unfold State.writeSpace
  dsimp only
  split
  · exact h
  · split
    · exact h
    · exact Canonical.ite h (Canonical.ite h.writeReg (Canonical.ite h h.writeReg))

theorem Canonical.execRegWrite {off size : Nat} {v : DWord} : CanonicalNext (execRegWrite off size v s) :=
  CanonicalNext.ite h.writeSpace h

@[simp] theorem Canonical.storeBody {want : Want} {sp : Space} {data : Nat → Nat} {lanes : List Nat} {loc : Nat → Loc}
    {g : Group} {p : Path} : (storeBody want sp data lanes loc s g p).Canonical := by
  unfold Machine.storeBody
  dsimp only
  split
  · exact h
  · refine Res.Canonical.ite trivial ?_
    split
    · refine Res.Canonical.ite trivial (Res.Canonical.ite trivial ?_)
      refine Canonical.foldl ?_ fun _ _ h => h.writeSpace
      have stored {l : List (Nat × Piece)} {t : State} (ht : t.mem = s.mem) : Canonical (l.foldl
          (fun (s : State) x => s.privStore g x.2.key x.2.size (x.2.data (data x.1))) t).mem :=
        Canonical.foldl (h.of_mem ht) fun _ _ h => h.privStore
      exact Canonical.ite (stored (State.recordMem_mem ..))
        (Canonical.of_mem (stored (State.recordMem_mem ..)) (State.startOp_mem ..))
    · exact h.refuseLane

theorem Canonical.execSt {f : StForm} : CanonicalNext (execSt f s) := h.issue fun _ _ _ ht => ht.storeBody

theorem Canonical.execStv {f : StvForm} : CanonicalNext (execStv f s) := h.issue fun _ _ _ ht => ht.storeBody

end

end Sys2Proof.Machine

/-! ## Every step keeps storage canonical (O58) -/

namespace Sys2Proof.Machine

/-- Every instruction and every event keeps storage canonical. -/
theorem Canonical.exec {s : State} (i : Instr) (h : Canonical s.mem) : CanonicalNext (exec i s) := by
  cases i with
  | br => exact h.execBr
  | rcv => exact h.execRcv
  | jmpi => exact h.execJmpi
  | call => exact h.execCall
  | callReg => exact h.execCallReg
  | ret => exact h.execRet
  | safept => exact show CanonicalNext (execSafept s) from h.issue fun _ _ _ ht => ht.safeptBody
  | safeptMask mask => exact show CanonicalNext (execSafeptMask mask s) from h.issue fun _ _ _ ht => ht.safeptBody
  | brd => exact h.execBrd
  | exit => exact h.execExit
  | trap => exact h.execTrap
  | trapBreak => exact h.execTrapBreak
  | tret => exact h.execTret
  | halt => exact h.execHalt
  | yield => exact h.execYield
  | getsr f => exact show CanonicalNext (execGetsr f s) from h.issue fun _ _ _ ht => ht
  | mov f => exact show CanonicalNext (execMov f s) from h.issue fun _ _ _ ht => ht
  | movi32 f => exact show CanonicalNext (execMovi32 f s) from h.issue fun _ _ _ ht => ht
  | movi64 f => exact show CanonicalNext (execMovi64 f s) from h.issue fun _ _ _ ht => ht
  | sel f => exact show CanonicalNext (execSel f s) from h.issue fun _ _ _ ht => ht
  | setsr => exact h.execSetsr
  | setq gd d a => exact show CanonicalNext (execSetq gd d a s) from h.issue fun _ _ _ ht => ht.once
  | qand gd d a b => exact show CanonicalNext (execQand gd d a b s) from h.issue fun _ _ _ ht => ht.once
  | qor gd d a b => exact show CanonicalNext (execQor gd d a b s) from h.issue fun _ _ _ ht => ht.once
  | qnot gd d a => exact show CanonicalNext (execQnot gd d a s) from h.issue fun _ _ _ ht => ht.once
  | vote gd v => exact show CanonicalNext (execVote gd v s) from h.issue fun _ _ _ ht => ht.once
  | bcast gd w64 d a l => exact show CanonicalNext (execBcast gd w64 d a l s) from h.issue fun _ _ _ ht => ht.once
  | bcastImm gd w64 d a l =>
    exact show CanonicalNext (execBcastImm gd w64 d a l s) from h.issue fun _ _ _ ht => ht.once
  | actm gd d => exact show CanonicalNext (execActm gd d s) from h.issue fun _ _ _ ht => ht.once
  | popc gd d a => exact show CanonicalNext (execPopc gd d a s) from h.issue fun _ _ _ ht => ht.once
  | ffs gd d a => exact show CanonicalNext (execFfs gd d a s) from h.issue fun _ _ _ ht => ht.once
  | add f => exact show CanonicalNext (execAdd f s) from h.issue fun _ _ _ ht => ht
  | sub f => exact show CanonicalNext (execSub f s) from h.issue fun _ _ _ ht => ht
  | mul f => exact show CanonicalNext (execMul f s) from h.issue fun _ _ _ ht => ht
  | mulhi f => exact show CanonicalNext (execMulhi f s) from h.issue fun _ _ _ ht => ht
  | mad f => exact show CanonicalNext (execMad f s) from h.issue fun _ _ _ ht => ht
  | min f => exact show CanonicalNext (execMin f s) from h.issue fun _ _ _ ht => ht
  | max f => exact show CanonicalNext (execMax f s) from h.issue fun _ _ _ ht => ht
  | abs f => exact show CanonicalNext (execAbs f s) from h.issue fun _ _ _ ht => ht
  | neg f => exact show CanonicalNext (execNeg f s) from h.issue fun _ _ _ ht => ht
  | and f => exact show CanonicalNext (execAnd f s) from h.issue fun _ _ _ ht => ht
  | or f => exact show CanonicalNext (execOr f s) from h.issue fun _ _ _ ht => ht
  | xor f => exact show CanonicalNext (execXor f s) from h.issue fun _ _ _ ht => ht
  | not f => exact show CanonicalNext (execNot f s) from h.issue fun _ _ _ ht => ht
  | andn f => exact show CanonicalNext (execAndn f s) from h.issue fun _ _ _ ht => ht
  | shl f => exact show CanonicalNext (execShl f s) from h.issue fun _ _ _ ht => ht
  | shr f => exact show CanonicalNext (execShr f s) from h.issue fun _ _ _ ht => ht
  | sar f => exact show CanonicalNext (execSar f s) from h.issue fun _ _ _ ht => ht
  | rot f => exact show CanonicalNext (execRot f s) from h.issue fun _ _ _ ht => ht
  | bfe f => exact show CanonicalNext (execBfe f s) from h.issue fun _ _ _ ht => ht
  | bfi f => exact show CanonicalNext (execBfi f s) from h.issue fun _ _ _ ht => ht
  | bcnt f => exact show CanonicalNext (execBcnt f s) from h.issue fun _ _ _ ht => ht
  | clz f => exact show CanonicalNext (execClz f s) from h.issue fun _ _ _ ht => ht
  | brev f => exact show CanonicalNext (execBrev f s) from h.issue fun _ _ _ ht => ht
  | cmp f => exact show CanonicalNext (execCmp f s) from h.issue fun _ _ _ ht => ht
  | addc f => exact show CanonicalNext (execAddc f s) from h.issue fun _ _ _ ht => ht
  | subc f => exact show CanonicalNext (execSubc f s) from h.issue fun _ _ _ ht => ht
  | div f => exact show CanonicalNext (execDiv f s) from h.issue fun _ _ _ ht => ht
  | rem f => exact show CanonicalNext (execRem f s) from h.issue fun _ _ _ ht => ht
  | fadd f => exact show CanonicalNext (execFadd f s) from h.issue fun _ _ _ ht => ht
  | fsub f => exact show CanonicalNext (execFsub f s) from h.issue fun _ _ _ ht => ht
  | fmul f => exact show CanonicalNext (execFmul f s) from h.issue fun _ _ _ ht => ht
  | fma f => exact show CanonicalNext (execFma f s) from h.issue fun _ _ _ ht => ht
  | fmin f => exact show CanonicalNext (execFmin f s) from h.issue fun _ _ _ ht => ht
  | fmax f => exact show CanonicalNext (execFmax f s) from h.issue fun _ _ _ ht => ht
  | fabs f => exact show CanonicalNext (execFabs f s) from h.issue fun _ _ _ ht => ht
  | fneg f => exact show CanonicalNext (execFneg f s) from h.issue fun _ _ _ ht => ht
  | fcmp f => exact show CanonicalNext (execFcmp f s) from h.issue fun _ _ _ ht => ht
  | fclass f => exact show CanonicalNext (execFclass f s) from h.issue fun _ _ _ ht => ht
  | rcp f => exact show CanonicalNext (execRcp f s) from h.issue fun _ _ _ ht => ht
  | rsqrt f => exact show CanonicalNext (execRsqrt f s) from h.issue fun _ _ _ ht => ht
  | sqrt f => exact show CanonicalNext (execSqrt f s) from h.issue fun _ _ _ ht => ht
  | exp2 f => exact show CanonicalNext (execExp2 f s) from h.issue fun _ _ _ ht => ht
  | log2 f => exact show CanonicalNext (execLog2 f s) from h.issue fun _ _ _ ht => ht
  | sinpi f => exact show CanonicalNext (execSinpi f s) from h.issue fun _ _ _ ht => ht
  | tanh f => exact show CanonicalNext (execTanh f s) from h.issue fun _ _ _ ht => ht
  | dot2 f => exact show CanonicalNext (execDot2 f s) from h.issue fun _ _ _ ht => ht
  | cvt f => exact show CanonicalNext (execCvt f s) from h.issue fun _ _ _ ht => ht
  | prmb f => exact show CanonicalNext (execPrmb f s) from h.issue fun _ _ _ ht => ht
  | shfl f => exact show CanonicalNext (execShfl f s) from h.issue fun _ _ _ ht => ht
  | lred f => exact show CanonicalNext (execLred f s) from h.issue fun _ _ _ ht => ht
  | lscan f => exact show CanonicalNext (execLscan f s) from h.issue fun _ _ _ ht => ht
  | topk f => exact show CanonicalNext (execTopk f s) from h.issue fun _ _ _ ht => ht
  | padWord => exact h.execPadWord
  | ld f => exact show CanonicalNext (execLd f s) from h.issue fun _ _ _ ht => ht.loadBody
  | st => exact h.execSt
  | ldv f => exact show CanonicalNext (execLdv f s) from h.issue fun _ _ _ ht => ht.loadBody
  | stv => exact h.execStv
  | cpa => exact h.execCpa
  | cellInit => exact h.execCellInit
  | cellArrive => exact h.execCellArrive
  | cellWait => exact h.execCellWait
  | cellTest => exact h.execCellTest
  | cellArm => exact h.execCellArm
  | waitc => exact h.execWaitc
  | fenceRel gd scope => exact show CanonicalNext (execFenceRel gd scope s) from h.issue fun _ _ _ ht => ht.fenceBody
  | fenceAcq gd scope => exact show CanonicalNext (execFenceAcq gd scope s) from h.issue fun _ _ _ ht => ht.fenceBody
  | fenceSc gd scope => exact show CanonicalNext (execFenceSc gd scope s) from h.issue fun _ _ _ ht => ht.fenceBody
  | atom f => exact show CanonicalNext (execAtom f s) from h.issue fun _ _ _ ht => ht.homeAccess
  | red f => exact show CanonicalNext (execRed f s) from h.issue fun _ _ _ ht => ht.homeAccess
  | ldr f => exact show CanonicalNext (execLdr f s) from h.issue fun _ _ _ ht => ht.homeAccess
  | stc f => exact show CanonicalNext (execStc f s) from h.issue fun _ _ _ ht => ht.homeAccess
  | prefetch => exact h.execPrefetch
  | flush gd arg => exact show CanonicalNext (execFlush gd arg s) from h.issue fun _ _ _ ht => ht.lineBody
  | inval gd arg => exact show CanonicalNext (execInval gd arg s) from h.issue fun _ _ _ ht => ht.lineBody
  | bcomp => exact h.execBcomp
  | mres => exact h.execMres
  | mrel => exact h.execMrel
  | mzero => exact h.execMzero
  | mma => exact h.execMma
  | mqinit => exact h.execMqinit
  | mdrain => exact h.execMdrain
  | mload => exact h.execMload
  | talloc gd p d b => exact show CanonicalNext (execTalloc gd p d b s) from h.issue fun _ _ _ ht => ht.tallocBody
  | tallocImm gd p d n =>
    exact show CanonicalNext (execTallocImm gd p d n s) from h.issue fun _ _ _ ht => ht.tallocBody
  | tinfo => exact h.execTinfo
  | tpart => exact h.execTpart
  | qpush => exact h.execQpush
  | qpop => exact h.execQpop
  | qtry => exact h.execQtry
  | qmc => exact h.execQmc
  | reorder => exact h.execReorder
  | rinfo f => exact show CanonicalNext (execRinfo f s) from h.issue fun _ _ _ ht => ht
  | barArrive f => exact show CanonicalNext (execBarArrive f s) from h.issue fun _ _ _ ht => ht.barBody
  | barArriveRem => exact h.execBarArriveRem
  | barWait => exact h.execBarWait
  | barSync f => exact show CanonicalNext (execBarSync f s) from h.issue fun _ _ _ ht => ht.barBody
  | launch => exact h.execLaunch
  | tlsig => exact h.execTlsig
  | tlwait f => exact show CanonicalNext (execTlwait f s) from h.issue fun _ _ _ ht => ht.tlwaitBody
  | tlwaitExt f => exact show CanonicalNext (execTlwaitExt f s) from h.issue fun _ _ _ ht => ht.tlwaitBody
  | msend => exact h.execMsend
  | mrecv => exact h.execMrecv
  | mprobe => exact h.execMprobe
  | mwaitr gd ext d a => exact show CanonicalNext (execMwaitr gd ext d a s) from h.issue fun _ _ _ ht => ht.mwaitrBody
  | mwaitrExt gd d a us =>
    exact show CanonicalNext (execMwaitrExt gd d a us s) from h.issue fun _ _ _ ht => ht.mwaitrBody
  | ratom f => exact show CanonicalNext (execRatom f s) from h.issue fun _ _ _ ht => ht.ratomBody
  | ratomCas f => exact show CanonicalNext (execRatomCas f s) from h.issue fun _ _ _ ht => ht.ratomBody
  | trace gd a => exact show CanonicalNext (execTrace gd a s) from h.issue fun _ _ _ ht => ht.traceBody
  | traceImm gd imm => exact show CanonicalNext (execTraceImm gd imm s) from h.issue fun _ _ _ ht => ht.traceBody
  | mark => exact h.execMark
  | evt => exact h.execEvt
  | bindw => exact h.execBindw
  | unbindw => exact h.execUnbindw
  | loadDelivered => exact h.execLoadDelivered
  | storeAck => exact h.execStoreAck
  | sliceLoad => exact h.execSliceLoad
  | sliceStore => exact h.execSliceStore
  | sliceAtomic => exact h.execSliceAtomic
  | timelineSignal => exact h.execTimelineSignal
  | fenceComplete => exact h.execFenceComplete
  | qpushVisible => exact h.execQpushVisible
  | barArrivalApply => exact h.execBarArrivalApply
  | barRemoteApply => exact h.execBarRemoteApply
  | launchKickSent => exact h.execLaunchKickSent
  | tlsigSent => exact h.execTlsigSent
  | bindwComplete => exact h.execBindwComplete
  | tlwaitTimeout => exact h.execTlwaitTimeout
  | mwaitrTimeout => exact h.execMwaitrTimeout
  | yieldExpire => exact h.execYieldExpire
  | reservationExpire => exact h.execReservationExpire
  | cpaTransfer => exact h.execCpaTransfer
  | completionInterrupt => exact h.execCompletionInterrupt
  | bcompFinish => exact h.execBcompFinish
  | bcompFault => exact h.execBcompFault
  | metadataPush => exact h.execMetadataPush
  | mqinitWord => exact h.execMqinitWord
  | matrixPass => exact h.execMatrixPass
  | mmaComplete => exact h.execMmaComplete
  | mresBind => exact h.execMresBind
  | mrelUnbind => exact h.execMrelUnbind
  | mdrainApply => exact h.execMdrainApply
  | mdrainComplete => exact h.execMdrainComplete
  | mloadComplete => exact h.execMloadComplete
  | fragmentSlotFill => exact h.execFragmentSlotFill
  | fragmentUnspill => exact h.execFragmentUnspill
  | pathSwap => exact h.execPathSwap
  | groupEnd => exact h.execGroupEnd
  | congestionSample => exact h.execCongestionSample
  | crossbarReply => exact h.execCrossbarReply
  | reorderArrive => exact h.execReorderArrive
  | dissolveEnd => exact h.execDissolveEnd
  | reorderEmit => exact h.execReorderEmit
  | kick => exact h.execKick
  | doorbell => exact h.execDoorbell
  | packetRead => exact h.execPacketRead
  | sealReread => exact h.execSealReread
  | waitTimelineTest => exact h.execWaitTimelineTest
  | crewPlace => exact h.execCrewPlace
  | deadlineDrop => exact h.execDeadlineDrop
  | markerComplete => exact h.execMarkerComplete
  | kernelBoundary => exact h.execKernelBoundary
  | crewRetire => exact h.execCrewRetire
  | kernelRetire => exact h.execKernelRetire
  | queueEnable => exact h.execQueueEnable
  | queueDisable => exact h.execQueueDisable
  | queueRestart => exact h.execQueueRestart
  | queueDispatch => exact h.execQueueDispatch
  | ctxCreate => exact h.execCtxCreate
  | ctxPreempt => exact h.execCtxPreempt
  | ctxResume => exact h.execCtxResume
  | ctxKill => exact h.execCtxKill
  | ctxDestroy => exact h.execCtxDestroy
  | sliceExpiry => exact h.execSliceExpiry
  | preemptWindowExpire => exact h.execPreemptWindowExpire
  | groupSave => exact h.execGroupSave
  | saveComplete => exact h.execSaveComplete
  | timeResumePlace => exact h.execTimeResumePlace
  | watchdog => exact h.execWatchdog
  | containmentComplete => exact h.execContainmentComplete
  | translationWalk => exact h.execTranslationWalk
  | walkComplete => exact h.execWalkComplete
  | pageFaultRecord => exact h.execPageFaultRecord
  | pfresp => exact h.execPfresp
  | pftailWrite => exact h.execPftailWrite
  | tlbinv => exact h.execTlbinv
  | tlbinvComplete => exact h.execTlbinvComplete
  | linkEnable => exact h.execLinkEnable
  | linkDisable => exact h.execLinkDisable
  | linkTrained => exact h.execLinkTrained
  | linkTrainTimeout => exact h.execLinkTrainTimeout
  | linkRetryFail => exact h.execLinkRetryFail
  | fibreLockLoss => exact h.execFibreLockLoss
  | creditReport => exact h.execCreditReport
  | packetHop => exact h.execPacketHop
  | messageArrival => exact h.execMessageArrival
  | messageAnswer => exact h.execMessageAnswer
  | peerIngressAtomic => exact h.execPeerIngressAtomic
  | hostAtomic => exact h.execHostAtomic
  | ingressWrite => exact h.execIngressWrite
  | hostWrite => exact h.execHostWrite
  | hostRead link => exact h.execHostRead (_link := link)
  | freezeReceive => exact h.execFreezeReceive
  | capsuleSeal => exact h.execCapsuleSeal
  | capsuleViewReady => exact h.execCapsuleViewReady
  | traceDrain => exact h.execTraceDrain
  | checkpoint => exact h.execCheckpoint
  | dbgStop => exact h.execDbgStop
  | dbgGo => exact h.execDbgGo
  | dbgStep => exact h.execDbgStep
  | powerUp => exact h.execPowerUp
  | powerLoss => exact h.execPowerLoss
  | fwGo => exact h.execFwGo
  | fwLoaded => exact h.execFwLoaded
  | attestReady => exact h.execAttestReady
  | svcDrain => exact h.execSvcDrain
  | clusterOffline => exact h.execClusterOffline
  | svcReturn => exact h.execSvcReturn
  | svcRepair => exact h.execSvcRepair
  | svcModule => exact h.execSvcModule
  | svcCycle => exact h.execSvcCycle
  | svcComplete => exact h.execSvcComplete
  | rampStage => exact h.execRampStage
  | energyInterval => exact h.execEnergyInterval
  | softError => exact h.execSoftError
  | fabjobWrite => exact h.execFabjobWrite
  | congrateWrite => exact h.execCongrateWrite
  | rspillWrite => exact h.execRspillWrite
  | rplctlWrite => exact h.execRplctlWrite
  | trcbaseWrite => exact h.execTrcbaseWrite
  | regWrite => exact h.execRegWrite
  | stallClock => exact h.execStallClock
  | progressMarkFirst => exact h.execProgressMarkFirst
  | completionReply => exact h.execCompletionReply
  | ingressRead => exact h.execIngressRead
  | hostAbandonChoice => exact h.execHostAbandonChoice
  | opticalToken | arbiterPromote | flitReceive | capreq | capack | warmReset | attreq | powerControlTick
  | congctlWrite | pwrcapWrite =>
    exact h

/-! ### Attempts, clocks and steps -/

theorem CanonicalNext.onNext {f : State → State} {r : Host.Outcome State Fault Refusal} (hr : CanonicalNext r)
    (hf : ∀ t, Canonical t.mem → Canonical (f t).mem) : CanonicalNext (onNext f r) := by
  cases r with
  | next t => exact hf t hr
  | fault _ => trivial
  | refused _ => trivial

/-- Running a row in the order of its context's log keeps storage canonical when the row does. -/
theorem Canonical.inOrder {s : State} {k : Option LogKey} {run : State → Host.Outcome State Fault Refusal}
    (h : Canonical s.mem) (hr : CanonicalNext (run s)) : CanonicalNext (s.inOrder k run) := by
  unfold State.inOrder
  split
  · exact hr
  · split
    · exact hr
    · split
      · next he =>
        rw [he] at hr
        exact Canonical.ite (Canonical.of_mem hr (State.addLog_mem ..)) hr
      · exact hr
    · split
      · exact hr
      · refine CanonicalNext.ite h ?_
        split
        · next he =>
          rw [he] at hr
          exact Canonical.ite (Canonical.of_mem hr (State.popLog_mem ..)) hr
        · exact hr

section
variable {s : State} (h : Canonical s.mem)
include h

theorem Canonical.attempt {g : Group} {p : Path} : CanonicalNext (s.attempt g p) := by
  unfold State.attempt
  split
  · exact h.fetchFault
  · exact h.fetchMiss
  · split
    · refine CanonicalNext.onNext (Canonical.exec _ ?_) fun t ht => ht.of_mem (State.afterIssue_mem ..)
      exact Canonical.ite h h
    · exact h.of_mem (State.modGroup_mem ..)

theorem Canonical.tryGroup {i : GroupId} : Canonical (s.tryGroup i).mem := by
  refine h.foldl fun s n h => ?_
  split
  · exact h
  · split
    · exact h
    · next g _ _ p _ =>
      have tried : CanonicalNext (s.attempt g p) := h.attempt
      split
      · next he =>
        rw [he] at tried
        split
        · exact Canonical.ite tried h
        · exact h
      · exact h

theorem Canonical.refill {i : GroupId} : Canonical (s.refill i).mem := by
  unfold State.refill
  rw [State.modGroup_mem]
  refine h.foldl fun s n h => ?_
  split
  · exact h.fillSlot
  · exact h

theorem Canonical.evict {cluster core line : Nat} : Canonical (s.evict cluster core line).mem := by
  unfold State.evict
  split
  · exact h
  · exact Canonical.ite h.evictLine h

theorem Canonical.eachGroup {f : State → Group → State} (hf : ∀ t g, Canonical t.mem → Canonical (f t g).mem) :
    Canonical (s.eachGroup f).mem := by
  refine h.foldl fun s g h => ?_
  split
  · exact hf _ _ h
  · exact h

theorem Canonical.closeClock : Canonical s.closeClock.mem := by
  unfold State.closeClock
  extract_lets tried excluded stalled marked swapped queued next refilled replied moved ranked
  have ht : Canonical tried.mem := h.foldl fun _ _ h => h.tryGroup
  have he : Canonical excluded.mem := ht.of_mem (State.holdExcluded_mem _)
  have hs : Canonical stalled.mem := he.foldl fun _ _ h => h.of_mem (State.stallOne_mem ..)
  have hm : Canonical marked.mem := hs.eachGroup fun _ _ h => h.of_mem (State.countMark_mem ..)
  have hw : Canonical swapped.mem := (hm.eachGroup fun _ _ h => h.swapStep).unspillAll
  have hq : Canonical queued.mem := hw.foldl fun _ _ h => h.queueDetached
  clear_value queued
  have hn : Canonical next.mem := hq
  have hr : Canonical refilled.mem := (hn.foldl fun _ _ h => h.refill).unspillAll
  have hp : Canonical replied.mem := hr.of_mem ((State.coalesce_mem _).trans (State.takeReplies_mem _))
  have hv : Canonical moved.mem := hp.of_mem (State.moveMarks_mem _)
  clear_value moved
  have hk : Canonical ranked.mem := hv
  exact Canonical.ite (Canonical.foldl hk fun _ _ h => h.of_mem (State.sample_mem ..)) hk

end

theorem Canonical.closeClocks {n : Nat} : ∀ {s : State}, Canonical s.mem → Canonical (s.closeClocks n).mem := by
  induction n with
  | zero => exact fun h => h
  | succ n ih =>
    intro s h
    rw [State.closeClocks]
    exact ih h.closeClock

section
variable {s : State} (h : Canonical s.mem)
include h

theorem Canonical.bootTrain : Canonical s.bootTrain.mem := Canonical.ite (h.after h.execLinkEnable) h

theorem Canonical.pass {ns clocks : Nat} : Canonical (s.pass ns clocks).mem := by
  unfold State.pass
  rw [State.wakeUps_mem]
  have hf : Canonical (if clocks = 0 then s else s.takeFatal).mem := Canonical.ite h h.takeFatal
  exact Canonical.closeClocks (Canonical.ite hf hf.bootTrain)

theorem Canonical.sweep : Canonical s.sweep.mem := by
  have ht : Canonical (if s.links.bells.isEmpty then s else s.ringBells).vectorPending.takeTraps.mem :=
    Canonical.takeTraps (Canonical.vectorPending (Canonical.ite h (h.of_mem (State.ringBells_mem _))))
  unfold State.sweep
  rw [State.watch_mem, State.wakeUps_mem, State.grantTiles_mem]
  refine Canonical.replayArrivals (Canonical.finishStops (Canonical.of_mem ht ?_))
  rw [State.breakStops_mem, State.stepStops_mem]

theorem Canonical.doAct {a : Act} : CanonicalNext (s.doAct a) := by
  unfold State.doAct
  refine CanonicalNext.ite h ?_
  cases a with
  | event i => exact CanonicalNext.ite (h.inOrder (h.exec i)) h
  | issue cluster core unf =>
    have held := h.of_mem (State.holdUnfetched_mem s cluster core unf)
    dsimp only
    split
    · exact held.attempt
    · exact held
  | evict => exact h.evict
  | outside => exact CanonicalNext.ite (Canonical.of_mem h.writeBytes (State.wakeTimelines_mem ..)) h
  | lost => exact h.losePacket
  | choose => exact h.chooseCheckpoint
  | dropTlb | dropWalker | outsideShare | outsideLinks | vectorTaken | holdClock | freeClock => exact h

theorem Canonical.runTurn {t : Turn} : CanonicalNext (s.runTurn t) := by
  unfold State.runTurn
  dsimp only
  split
  · exact h.pass.sweep
  · exact h.pass.doAct.onNext fun _ ht => ht.sweep

theorem Canonical.idle : CanonicalNext s.idle := by
  unfold State.idle
  split
  · exact h.attempt.onNext fun _ ht => ht.sweep
  · exact h.pass.sweep

theorem Canonical.step : CanonicalNext (step s) := by
  unfold Machine.step State.nextTurn
  split
  · next t rest _ =>
    have ha : Canonical ({ s with agenda := rest } : State).mem := h
    exact ha.runTurn
  · exact h.idle

end

/-- Settles O58: every function of a step keeps storage canonical, down to the writes of single bytes. -/
theorem storageStaysCanonical : Obligations.StorageStaysCanonical := by
  intro s t hs ht
  have hn : CanonicalNext (step s) := Canonical.step hs
  rwa [ht] at hn

end Sys2Proof.Machine

/-! ## Boot and service: look-ups, resets and the firmware's tables -/

namespace Sys2Proof.Machine

/-! ### Look-ups in the model's tables -/

/-- An entry put where `p` looks is the one that `p` finds. -/
theorem find?_upsert_self {α : Type} {p : α → Bool} {x : α} (hx : p x = true) (l : List α) :
    (upsert p x l).find? p = some x := by
  have same : ∀ y, p (if p y then x else y) = p y := by
    intro y
    split
    · next hy => rw [hx, hy]
    · rfl
  unfold upsert
  split
  · next ha =>
    rw [find?_map_of _ _ same]
    obtain ⟨y, hy⟩ := Option.isSome_iff_exists.1 (List.find?_isSome.2 (List.any_eq_true.1 ha))
    rw [hy, Option.map_some, if_pos (List.find?_some hy)]
  · next ha =>
    rw [List.find?_append, List.find?_eq_none.2 fun y hy h => ha (List.any_eq_true.2 ⟨y, hy, h⟩)]
    simp [hx]

@[simp] theorem pairGet_pairSet_self (d : Nat) (l : List (Nat × Nat)) (k v : Nat) :
    pairGet d (pairSet l k v) k = v := by
  unfold pairGet pairSet
  rw [find?_upsert_self (by simp)]

@[simp] theorem State.clusterState_setCluster (s : State) (c v : Nat) : (s.setCluster c v).clusterState c = v :=
  pairGet_pairSet_self 0 s.svc.clstate c v

@[simp] theorem State.ring_setRing_self (s : State) (r : Ring) : (s.setRing r).ring r.cluster r.core = r := by
  unfold State.ring State.setRing
  dsimp only
  rw [find?_upsert_self (by simp)]

theorem State.ctxOf_eq {s : State} {c : Nat} {x : Ctx} (h : s.ctx? c = some x) : s.ctxOf c = x := by
  unfold State.ctxOf
  rw [h]

theorem State.ctxOf_num (s : State) (c : Nat) : (s.ctxOf c).num = c := by
  unfold State.ctxOf
  split
  · next h => exact State.ctx?_num h
  · rfl

/-- A context put under its own number is found there. -/
theorem State.ctx?_putCtx_self (s : State) (c : Nat) {f : Ctx → Ctx} (hf : ∀ x, (f x).num = x.num) :
    (s.putCtx c f).ctx? c = some (f (s.ctxOf c)) := by
  unfold State.putCtx
  rw [State.ctx?_setCtx, if_pos]
  rw [hf, State.ctxOf_num]

/-- A look-up in the entries of the keys that `p` keeps. -/
theorem SMap.find?_filter_key {α : Type} (p : Nat → Bool) (m : SMap α) (a : Nat) :
    SMap.find? (m.filter fun e => p e.1) a = if p a then SMap.find? m a else none := by
  induction m with
  | nil => simp [SMap.find?]
  | cons e m ih =>
    obtain ⟨k, v⟩ := e
    by_cases hk : k = a
    · subst hk
      by_cases hp : p k
      · simp [SMap.find?, hp]
      · simp [hp, ih]
    · by_cases hp : p k <;> simp [SMap.find?, hp, Ne.symm hk, ih]

/-! ### Resets -/

/-- A byte after a reset that storage does not survive: only what stands outside the device keeps its value. -/
theorem State.byte_afterReset (s : State) (a : Nat) :
    (s.afterReset false).byte a = if outsideKey a then s.byte a else 0 := by
  have hm : (s.afterReset false).mem = s.mem.filter fun e => outsideKey e.1 := rfl
  unfold State.byte SMap.get
  rw [hm, SMap.find?_filter_key]
  split <;> rfl

/-! ### The firmware's image -/

/-- The tables' first entry, written after the zeroing, is overwritten by none of the writes that follow. -/
theorem State.read_firmwareTables (s : State) : s.firmwareTables.read 0xBF_0000_0000 8 = 0xBF_0010_0001 := by
  have fold : ∀ (l : List Nat) (t : State), (l.foldl (fun (t : State) k =>
      t.write (0xBF_0010_0000 + 8 * k) 8 (k * 2 ^ 30 + 0x5F)) t).read 0xBF_0000_0000 8 = t.read 0xBF_0000_0000 8 := by
    intro l
    induction l with
    | nil => exact fun _ => rfl
    | cons k l ih =>
      intro t
      rw [List.foldl_cons, ih, State.read_write_ne _ _ _ _ _ _ (by omega)]
  unfold State.firmwareTables
  extract_lets l3 l2 zeroed t1 t2 t3 t4
  calc (t4.write (l2 + 0x2000) 8 (0x6_0000_0000_0000 + 0x2F)).read 0xBF_0000_0000 8
    _ = t4.read 0xBF_0000_0000 8 := State.read_write_ne _ _ _ _ _ _ (by omega)
    _ = t3.read 0xBF_0000_0000 8 := fold _ t3
    _ = t2.read 0xBF_0000_0000 8 := State.read_write_ne _ _ _ _ _ _ (by omega)
    _ = t1.read 0xBF_0000_0000 8 := State.read_write_ne _ _ _ _ _ _ (by omega)
    _ = 0xBF_0010_0001 := State.read_write 8 zeroed l3 (l2 + 1)

/-- Two states that differ in storage at most. -/
def OnlyMem (s t : State) : Prop := t = { s with mem := t.mem }

theorem OnlyMem.refl (s : State) : OnlyMem s s := rfl

theorem OnlyMem.trans {s t u : State} (h : OnlyMem s t) (k : OnlyMem t u) : OnlyMem s u := by
  unfold OnlyMem at *
  rw [k, h]

section
variable {s t : State} (h : OnlyMem s t)
include h

theorem OnlyMem.boot : t.boot = s.boot := Eq.trans (congrArg State.boot h) rfl

theorem OnlyMem.groups : t.groups = s.groups := Eq.trans (congrArg State.groups h) rfl

theorem OnlyMem.ctx? {c : Nat} : t.ctx? c = s.ctx? c := Eq.trans (congrArg (fun u => u.ctx? c) h) rfl

end

theorem OnlyMem.write (n : Nat) : ∀ (s : State) (key v : Nat), OnlyMem s (s.write key n v) := by
  induction n with
  | zero => exact fun s _ _ => .refl s
  | succ n ih =>
    intro s key v
    have first : OnlyMem s (s.setByte key (BitVec.ofNat 8 v)) := rfl
    exact first.trans (ih _ (key + 1) (v / 256))

theorem OnlyMem.foldl {α : Type} {f : State → α → State} (hf : ∀ s a, OnlyMem s (f s a)) (l : List α) :
    ∀ s, OnlyMem s (l.foldl f s) := by
  induction l with
  | nil => exact .refl
  | cons a l ih => exact fun s => (hf s a).trans (ih _)

theorem State.firmwareTables_onlyMem (s : State) : OnlyMem s s.firmwareTables := by
  have zeroed : OnlyMem s (s.zero 0xBF_0000_0000 (2 ^ 20 + 3 * 4096)) := rfl
  unfold State.firmwareTables
  exact zeroed.trans ((OnlyMem.write 8 _ _ _).trans ((OnlyMem.write 8 _ _ _).trans ((OnlyMem.write 8 _ _ _).trans
    ((OnlyMem.foldl (fun _ _ => OnlyMem.write 8 _ _ _) _ _).trans (OnlyMem.write 8 _ _ _)))))

section
variable {s : State} {c b : Nat} {d : Desc} (hx : d.xshare = 0)
include hx

/-- The context that is created has its descriptor and is IDLE. -/
theorem State.ctx?_install : ∃ y, (s.install c d b).ctx? c = some y ∧ y.st = .idle ∧ y.desc = d := by
  unfold State.install
  rw [if_pos hx]
  extract_lets t made
  have hc : made.ctx? c = some _ := s.ctx?_putCtx_self c fun _ => rfl
  exact ⟨_, (OnlyMem.write 8 _ _ 0).ctx?.trans hc, rfl, rfl⟩

theorem State.install_boot : (s.install c d b).boot = s.boot := by
  unfold State.install
  rw [if_pos hx]
  exact (OnlyMem.write 8 _ _ 0).boot

theorem State.install_groups : (s.install c d b).groups = s.groups := by
  unfold State.install
  rw [if_pos hx]
  exact (OnlyMem.write 8 _ _ 0).groups

/-- Only the flags word at the end of the save area's header is written. -/
theorem State.read_install {key n : Nat} (h : key + n ≤ d.save + 0x7FF8 ∨ d.save + 0x7FF8 + 8 ≤ key) :
    (s.install c d b).read key n = s.read key n := by
  unfold State.install
  rw [if_pos hx]
  exact (State.read_write_ne _ _ _ _ _ _ h).trans (State.read_congr n _ _ key fun _ _ _ => rfl)

end

end Sys2Proof.Machine

/-! ## Boot and service: what a drain and a power cycle do -/

namespace Sys2Proof.Machine

/-! ### The service commands -/

/-- A service command on the fabric island of cluster `c`, when no other is busy. -/
theorem State.svcOn_fabric {s : State} {c st : Nat} {ok : Nat → Bool} {k : Nat → State} (hc : c < 24)
    (hb : s.svc.busy = none) (hs : s.clusterState c = st) (hk : ok c = true) : s.svcOn (144 + c) st ok k = k c := by
  have hf : fabricOf (144 + c) = some c := by
    unfold fabricOf
    rw [if_pos (by omega), Nat.add_sub_cancel_left]
  unfold State.svcOn
  rw [hb, hf]
  simp [hs, hk]

/-- A service command on a cluster that is not in the state that it asks for is refused. -/
theorem State.svcOn_refused {s : State} {c st : Nat} {ok : Nat → Bool} {k : Nat → State} (hc : c < 24)
    (hs : s.clusterState c ≠ st) : s.svcOn (144 + c) st ok k = s.svcErr := by
  have hf : fabricOf (144 + c) = some c := by
    unfold fabricOf
    rw [if_pos (by omega), Nat.add_sub_cancel_left]
  unfold State.svcOn
  rw [hf]
  split
  · next d _ hd =>
    cases hd
    simp [hs]
  · rfl

/-! ### A cluster drained: the save of the contexts that it runs -/

/-- The step of the drain for context `x`: a resident context with a crew there starts its save. -/
def drainStep (m : Nat) (s : State) (x : Nat) : State :=
  if m.testBit x && (s.ctxOf x).st == .resident then s.startSave x true else s

theorem drainStep_frame (m : Nat) (s : State) (x : Nat) :
    (drainStep m s x).svc = s.svc ∧ (drainStep m s x).groups = s.groups ∧ (drainStep m s x).mem = s.mem ∧
    (drainStep m s x).time = s.time := by
  unfold drainStep
  split
  · simp [State.startSave]
  · exact ⟨rfl, rfl, rfl, rfl⟩

/-- The context's save has been started by the drain. -/
def DrainSaving (s : State) (k : Nat) : Prop :=
  ∃ y, s.ctx? k = some y ∧ y.st = .saving ∧ y.preempt = some (s.time, true)

theorem ctx?_startSave (s : State) (c k : Nat) (time : Bool) :
    ∃ f : Ctx → Ctx, (∀ x, (f x).st = .saving ∧ (f x).preempt = some (s.time, time)) ∧
      (s.startSave c time).ctx? k = if k = c then (s.ctx? c).map f else s.ctx? k := by
  unfold State.startSave
  refine ⟨_, ?_, State.ctx?_modCtx ?_ k⟩
  · exact fun _ => ⟨rfl, rfl⟩
  · exact fun _ => rfl

theorem DrainSaving.step {s : State} {k : Nat} (h : DrainSaving s k) (m x : Nat) :
    DrainSaving (drainStep m s x) k := by
  obtain ⟨y, hy, hst, hp⟩ := h
  have ht := (drainStep_frame m s x).2.2.2
  refine ⟨y, ?_, hst, by rw [ht]; exact hp⟩
  unfold drainStep
  split
  · next hx =>
    obtain ⟨f, -, hf⟩ := ctx?_startSave s x k true
    rw [hf, if_neg]
    · exact hy
    · rintro rfl
      rw [State.ctxOf_eq hy, hst] at hx
      simp at hx
  · exact hy

theorem DrainSaving.start {s : State} {k m : Nat} {y : Ctx} (hy : s.ctx? k = some y) (hst : y.st = .resident)
    (hm : m.testBit k = true) : DrainSaving (drainStep m s k) k := by
  unfold drainStep
  rw [if_pos (by simp [hm, State.ctxOf_eq hy, hst])]
  obtain ⟨f, hf, he⟩ := ctx?_startSave s k k true
  refine ⟨f y, ?_, (hf y).1, by simp [(hf y).2, State.startSave]⟩
  rw [he, if_pos rfl, hy]
  rfl

theorem DrainSaving.other {s : State} {k x m : Nat} (h : k ≠ x) : (drainStep m s x).ctx? k = s.ctx? k := by
  unfold drainStep
  split
  · obtain ⟨f, -, hf⟩ := ctx?_startSave s x k true
    rw [hf, if_neg h]
  · rfl

/-- A resident context with a crew there is being saved once the drain has come to it. -/
theorem DrainSaving.foldl {k m : Nat} (hm : m.testBit k = true) (l : List Nat) :
    ∀ {s : State}, (DrainSaving s k ∨ (k ∈ l ∧ ∃ y, s.ctx? k = some y ∧ y.st = .resident)) → DrainSaving
      (l.foldl (drainStep m) s) k := by
  induction l with
  | nil =>
    rintro s (h | ⟨h, -⟩)
    · exact h
    · cases h
  | cons x l ih =>
    rintro s (h | ⟨hk, y, hy, hst⟩)
    · exact ih (.inl (h.step m x))
    · by_cases hx : k = x
      · subst hx
        exact ih (.inl (.start hy hst hm))
      · refine ih (.inr ⟨(List.mem_cons.1 hk).resolve_left hx, y, ?_, hst⟩)
        rw [DrainSaving.other hx, hy]

/-! ### An island power-cycled -/

/-- A core's scratchpad zeroed and its ring started afresh, as a power cycle of its quad does. -/
def clearCore (c : Nat) (s : State) (k : Nat) : State :=
  (s.zero (scratchKey c k 0) (2 ^ 20)).setRing (.start c k)

theorem byte_clearCore (c : Nat) (s : State) (k x : Nat) : (clearCore c s k).byte x =
    if scratchKey c k 0 ≤ x ∧ x < scratchKey c k 0 + 2 ^ 20 then 0 else s.byte x :=
  State.byte_zero s _ _ x

theorem State.byte_congr {s t : State} (h : t.mem = s.mem) (a : Nat) : t.byte a = s.byte a := by
  unfold State.byte
  rw [h]

/-- A byte of a core's scratchpad is zero once the core has been cleared. -/
theorem byte_clearCores (c : Nat) (l : List Nat) : ∀ {s : State} {x : Nat},
    (s.byte x = 0 ∨ ∃ k ∈ l, scratchKey c k 0 ≤ x ∧ x < scratchKey c k 0 + 2 ^ 20) →
    (l.foldl (clearCore c) s).byte x = 0 := by
  induction l with
  | nil =>
    rintro s x (h | ⟨k, hk, -⟩)
    · exact h
    · cases hk
  | cons j l ih =>
    rintro s x (h | ⟨k, hk, hx⟩)
    · refine ih (.inl ?_)
      rw [byte_clearCore, h, ite_self]
    · rcases List.mem_cons.1 hk with rfl | hk
      · refine ih (.inl ?_)
        rw [byte_clearCore, if_pos hx]
      · exact ih (.inr ⟨k, hk, hx⟩)

theorem clearCores_frame (c : Nat) (l : List Nat) (s : State) : (l.foldl (clearCore c) s).groups = s.groups ∧
    (l.foldl (clearCore c) s).boot = s.boot ∧ (l.foldl (clearCore c) s).svc = s.svc :=
  ⟨foldl_same (f := clearCore c) State.groups (fun _ _ => rfl) l s,
    foldl_same (f := clearCore c) State.boot (fun _ _ => rfl) l s,
    foldl_same (f := clearCore c) State.svc (fun _ _ => rfl) l s⟩

/-- Byte `a` of a core's scratchpad lies in its megabyte. -/
theorem scratchKey_mem {a : Nat} (c k : Nat) (ha : a < 2 ^ 20) :
    scratchKey c k 0 ≤ scratchKey c k a ∧ scratchKey c k a < scratchKey c k 0 + 2 ^ 20 := by
  unfold scratchKey
  omega

/-- Of storage, a quad's power cycle changes the scratchpads of its four cores. -/
theorem State.zeroIsland_mem (s : State) {q : Nat} (hq : q < 144) : (s.zeroIsland q).mem =
    (((List.range 4).map fun k => q % 6 * 4 + k).foldl (clearCore (q / 6)) s).mem := by
  simp only [State.zeroIsland, if_pos hq]
  rfl

/-- The scratchpads of a quad's cores are zero after its power cycle (R435). -/
theorem State.byte_zeroIsland (s : State) {q k a : Nat} (hq : q < 144) (hk : k < 4) (ha : a < 2 ^ 20) :
    (s.zeroIsland q).byte (scratchKey (q / 6) (q % 6 * 4 + k) a) = 0 := by
  rw [State.byte_congr (s.zeroIsland_mem hq)]
  exact byte_clearCores _ _ (.inr ⟨_, List.mem_map.2 ⟨k, List.mem_range.2 hk, rfl⟩, scratchKey_mem _ _ ha⟩)

/-- A quad after its power cycle: its engine is gone and its cores' queues are empty; nothing of the boot, of the
services or of the groups changes. -/
theorem State.zeroIsland_quad (s : State) {q : Nat} (hq : q < 144) :
    (s.zeroIsland q).groups = s.groups ∧ (s.zeroIsland q).boot = s.boot ∧ (s.zeroIsland q).svc = s.svc ∧
    (∀ e ∈ (s.zeroIsland q).engines, e.1 ≠ q) ∧
    ∀ k, k < 4 → (s.zeroIsland q).fifo (q / 6) (q % 6 * 4 + k) = [] := by
  unfold State.zeroIsland
  rw [if_pos hq]
  extract_lets c cores t
  have ht : t = cores.foldl (clearCore c) s := rfl
  clear_value t
  obtain ⟨hg, hb, hs⟩ := clearCores_frame c cores s
  refine ⟨by rw [← hg, ← ht], by rw [← hb, ← ht], by rw [← hs, ← ht], ?_, ?_⟩
  · intro e he
    simpa using (List.mem_filter.1 he).2
  · intro k hk
    have hc : q % 6 * 4 + k ∈ cores := List.mem_map.2 ⟨k, List.mem_range.2 hk, rfl⟩
    unfold State.fifo
    dsimp only
    rw [List.find?_eq_none.2]
    intro f hf
    have hn := (List.mem_filter.1 hf).2
    simp only [Bool.not_eq_true', List.any_eq_false, beq_iff_eq] at hn ⊢
    exact fun h => hn _ hc (by omega)

/-- The island that a cycle has put out of power is not on. -/
theorem State.islandOn_off {s : State} {k : Nat} (hk : k < 284) (h : k ∈ s.svc.islandOff) : s.islandOn k = false := by
  have h1 : k ≠ 284 := by omega
  have h2 : k ≠ 285 := by omega
  have h3 : k ≠ 286 := by omega
  simp [State.islandOn, h, h1, h2, h3]

theorem State.islandOn_on {s : State} {k : Nat} (hb : s.boot.state = 3) (h : k ∉ s.svc.islandOff) :
    s.islandOn k = true := by
  simp [State.islandOn, hb, h]

theorem State.checkModule_groups (s : State) (cluster addr : Nat) :
    (s.checkModule cluster addr).groups = s.groups := by
  simp only [State.checkModule, State.svcErr, apply_ite State.groups, ite_self]

/-- The end of a quad's or a fabric island's cycle. -/
theorem State.cycleEnd_below {s : State} {k : Nat} (hk : k < 168) :
    s.cycleEnd k = { s with svc := { s.svc with islandOff := s.svc.islandOff.filter (· != k) } } := by
  unfold State.cycleEnd
  dsimp only
  rw [if_pos hk]

end Sys2Proof.Machine

/-! ## Boot and service, clause by clause (O52) -/

namespace Sys2Proof.Machine

/-! ### Power-up, power loss and the warm reset -/

theorem execPowerUp_powered {s : State} (h : s.boot.powered = true) : exec .powerUp s = .next s := by
  show Host.Outcome.next (if s.boot.powered then s else s.afterReset false) = _
  rw [if_pos h]

/-- A power-up of a device without power, and a power loss, are one reset that storage does not survive. -/
theorem exec_resetCold {i : Instr} {b : Bool} {s : State}
    (h : (i = .powerUp ∧ s.boot.powered = false ∧ b = true) ∨ (i = .powerLoss ∧ b = false)) :
    exec i s = .next { s.afterReset false with boot := { State.reset.boot with powered := b } } := by
  rcases h with ⟨rfl, hp, rfl⟩ | ⟨rfl, rfl⟩
  · show Host.Outcome.next (if s.boot.powered then s else s.afterReset false) = _
    rw [hp]
    rfl
  · rfl

/-! ### The boot ROM -/

theorem execFwGo_accepted {v : DWord} {s : State} (hv : v.getLsbD 0 = true)
    (hs : s.boot.state = 0 ∨ s.boot.state = 4) (h2 : 2 ≤ bits v.toNat 24 1) (hn : bits v.toNat 24 1 ≤ 4096) :
    exec (.fwGo v) s = .next { s with boot := { s.boot with state := 1, why := 0, len := bits v.toNat 24 1 } } := by
  show execFwGo v s = _
  unfold execFwGo
  rw [if_pos]
  simp [hv, hs, h2, hn]

theorem execFwGo_ignored {v : DWord} {s : State} (h : v.getLsbD 0 = false ∨
    (s.boot.state ≠ 0 ∧ s.boot.state ≠ 4) ∨ bits v.toNat 24 1 < 2 ∨ 4096 < bits v.toNat 24 1) :
    exec (.fwGo v) s = .next s := by
  show execFwGo v s = _
  unfold execFwGo
  rw [if_neg]
  simp only [Bool.and_eq_true, Bool.or_eq_true, beq_iff_eq, decide_eq_true_eq, not_and_or, not_or]
  rcases h with h | h | h | h
  · exact .inl (.inl (by rw [h]; exact Bool.false_ne_true))
  · exact .inl (.inr h)
  · exact .inr (by omega)
  · exact .inr (by omega)

theorem execFwLoaded_fetching {s : State} (h : s.boot.state = 1) :
    exec (.fwLoaded false) s = .next { s with boot := { s.boot with state := 4, why := 4 } } ∧
    exec (.fwLoaded true) s = .next { s with boot := { s.boot with
      state := 2, image := s.bytes (hostKey (s.boot.fwsrc / 4096 * 4096)) (s.boot.len * 4096) } } := by
  have e (b : Bool) : exec (.fwLoaded b) s = execFwLoaded b s := rfl
  rw [e, e]
  unfold execFwLoaded
  simp [h]

theorem execFwLoaded_checking {b : Bool} {s : State} (h : s.boot.state = 2) :
    exec (.fwLoaded b) s = .next s.imageChecked := by
  show execFwLoaded b s = _
  unfold execFwLoaded
  rw [if_pos h]

theorem State.imageChecked_rejected {s : State} (h : imageWhy s.boot.image s.boot.len ≠ 0) :
    s.imageChecked = { s with boot := { s.boot with state := 4, why := imageWhy s.boot.image s.boot.len } } := by
  unfold State.imageChecked
  exact if_pos h

/-- An image that passes its checks runs: its tables stand, and context 0 exists, IDLE and privileged (R249, R431). -/
theorem State.imageChecked_runs {s : State} (h : imageWhy s.boot.image s.boot.len = 0) :
    ∃ y, s.imageChecked.boot.state = 3 ∧ s.imageChecked.boot.fwdig = Config.sha3 s.boot.image ∧
      s.imageChecked.ctx? 0 = some y ∧ y.st = .idle ∧ y.desc = .zero ∧ y.desc.priv = true ∧
      s.imageChecked.read 0xBF_0000_0000 8 = 0xBF_0010_0001 ∧ s.imageChecked.groups = s.groups := by
  obtain ⟨u, hu, hub, hug⟩ : ∃ u : State, s.imageChecked = u.firmwareTables.install 0 .zero 0 ∧
      u.boot = { s.boot with state := 3, fwdig := Config.sha3 s.boot.image } ∧ u.groups = s.groups := by
    unfold State.imageChecked
    exact ⟨_, if_neg (not_not.2 h), rfl, rfl⟩
  have hx : Desc.zero.xshare = 0 := rfl
  obtain ⟨y, hy, hst, hd⟩ := State.ctx?_install (s := u.firmwareTables) (c := 0) (b := 0) hx
  have hb : s.imageChecked.boot = u.boot := by
    rw [hu, State.install_boot hx]
    exact u.firmwareTables_onlyMem.boot
  refine ⟨y, by rw [hb, hub], by rw [hb, hub], by rw [hu, hy], hst, hd, by rw [hd]; rfl, ?_, ?_⟩
  · rw [hu, State.read_install hx (.inr (by decide)), State.read_firmwareTables]
  · rw [hu, State.install_groups hx, u.firmwareTables_onlyMem.groups, hug]

theorem execAttestReady_signed {s : State} (h : s.boot.attpending = true) :
    exec .attestReady s = .next { s with boot := { s.boot with
      attpending := false, attest := padTo 4096 (s.reportBody ++ Config.sign s.reportBody) } } := by
  show execAttestReady s = _
  unfold execAttestReady
  rw [h]
  rfl

/-! ### The service commands' effects -/

section
variable {s : State} {c : Nat} (hc : c < 24) (hb : s.svc.busy = none)
include hc hb

theorem execSvcDrain_started (h : s.clusterState c = 0) : ∃ t m, exec (.svcDrain (144 + c)) s = .next t ∧
    t.clusterState c = 1 ∧ t.svc.busy = some (1, 144 + c, m) ∧
    (∀ k x, k < 256 → s.ctx? k = some x → x.st = .resident → m.testBit k = true →
      ∃ y, t.ctx? k = some y ∧ y.st = .saving ∧ y.preempt = some (s.time, true)) ∧
    t.groups = s.groups ∧ t.mem = s.mem := by
  let u := (s.setCluster c 1).svcBusy 1 (144 + c) (s.ctxsOn c)
  let t := (List.range 256).foldl (drainStep (s.ctxsOn c)) u
  have he : exec (.svcDrain (144 + c)) s = .next t := congrArg Host.Outcome.next (State.svcOn_fabric hc hb h rfl)
  have hsvc : t.svc = u.svc := foldl_same State.svc (fun _ _ => (drainStep_frame ..).1) _ u
  have htime : t.time = u.time := foldl_same State.time (fun _ _ => (drainStep_frame ..).2.2.2) _ u
  refine ⟨t, s.ctxsOn c, he, ?_, by rw [hsvc]; rfl, ?_, ?_, ?_⟩
  · show pairGet 0 t.svc.clstate c = 1
    rw [hsvc]
    exact pairGet_pairSet_self ..
  · intro k x hk hx hst hm
    obtain ⟨y, hy, hys, hyp⟩ :=
      DrainSaving.foldl hm (List.range 256) (s := u) (.inr ⟨List.mem_range.2 hk, x, hx, hst⟩)
    exact ⟨y, hy, hys, hyp.trans (by rw [show t.time = u.time from htime]; rfl)⟩
  · exact foldl_same State.groups (fun _ _ => (drainStep_frame ..).2.1) _ u
  · exact foldl_same State.mem (fun _ _ => (drainStep_frame ..).2.2.1) _ u

theorem execSvcReturn_started (h : s.clusterState c = 2) : ∃ t, exec (.svcReturn (144 + c)) s = .next t ∧
    t.clusterState c = 0 ∧ t.svc.busy = some (2, 144 + c, 0) ∧ t.groups = s.groups ∧ t.mem = s.mem :=
  ⟨_, congrArg Host.Outcome.next (State.svcOn_fabric hc hb h rfl), pairGet_pairSet_self .., rfl, rfl, rfl⟩

theorem execSvcRepair_started {k : Nat} (h : s.clusterState c = 2) (hk : k < 24)
    (hr : s.repairOf c = none ∨ s.repairOf c = some k) : ∃ t, exec (.svcRepair (144 + c) k) s = .next t ∧
    t.repairOf c = some k ∧ t.svc.busy = some (3, 144 + c, 0) ∧ t.ring c k = .start c k ∧ t.groups = s.groups ∧
    t.mem = s.mem := by
  refine ⟨_, congrArg Host.Outcome.next (State.svcOn_fabric hc hb h ?_), ?_, rfl, ?_, rfl, rfl⟩
  · rcases hr with hr | hr <;> simp [hk, hr]
  · show (match (pairSet s.svc.repaired c k).find? (fun e => e.1 == c) with
      | some e => some e.2
      | none => Config.fusedRepair c) = some k
    unfold pairSet
    rw [find?_upsert_self (by simp)]
  · exact State.ring_setRing_self s (.start c k)

theorem execSvcModule_started {a : Nat} (h : s.clusterState c = 2) : exec (.svcModule (144 + c) a) s =
    .next { s with svc := { s.svc with busy := some (4, 144 + c, a / 2 ^ 18 * 2 ^ 18) } } :=
  congrArg Host.Outcome.next (State.svcOn_fabric hc hb h rfl)

end

/-- A legal cycle of a quad or of a fabric island. -/
theorem execSvcCycle_legal {s : State} {k : Nat} (hk : k < 168) (hb : s.svc.busy = none) (h : s.cycleLegal k = true) :
    exec (.svcCycle k) s = .next (State.zeroIsland { s with svc := { s.svc with
      busy := some (5, k, 0), islandOff := s.svc.islandOff ++ [k] } } k) := by
  show execSvcCycle k s = _
  unfold execSvcCycle
  rw [if_neg (by simp [hb, h])]
  dsimp only
  rw [if_pos hk]
  rfl

theorem execSvcCycle_fabric {s : State} {c : Nat} (hc : c < 24) (hb : s.svc.busy = none) (h : s.clusterState c = 2) :
    ∃ t, exec (.svcCycle (144 + c)) s = .next t ∧ t.svc.busy = some (5, 144 + c, 0) ∧
      t.islandOn (144 + c) = false ∧ t.groups = s.groups ∧ t.mem = s.mem := by
  have legal : s.cycleLegal (144 + c) = true := by
    unfold State.cycleLegal
    rw [if_neg (by omega), if_pos (by omega), Nat.add_sub_cancel_left, h]
    rfl
  refine ⟨_, execSvcCycle_legal (by omega) hb legal, ?_⟩
  unfold State.zeroIsland
  rw [if_neg (by omega), if_neg (by omega)]
  exact ⟨rfl, State.islandOn_off (by omega) (List.mem_append_right _ (List.mem_singleton_self _)), rfl, rfl⟩

theorem execSvcCycle_quad {s : State} {q : Nat} (hq : q < 144) (hb : s.svc.busy = none)
    (h : s.clusterState (q / 6) = 2) : ∃ t, exec (.svcCycle q) s = .next t ∧
    t.svc.busy = some (5, q, 0) ∧ t.islandOn q = false ∧ t.groups = s.groups ∧ (∀ e ∈ t.engines, e.1 ≠ q) ∧
    (∀ k, k < 4 → t.fifo (q / 6) (q % 6 * 4 + k) = []) ∧
    ∀ k a, k < 4 → a < 2 ^ 20 → t.byte (scratchKey (q / 6) (q % 6 * 4 + k) a) = 0 := by
  have legal : s.cycleLegal q = true := by
    unfold State.cycleLegal
    rw [if_pos hq, h]
    rfl
  refine ⟨_, execSvcCycle_legal (by omega) hb legal, ?_⟩
  obtain ⟨hg, -, hs, he, hf⟩ := State.zeroIsland_quad { s with svc := { s.svc with
      busy := some (5, q, 0), islandOff := s.svc.islandOff ++ [q] } } hq
  refine ⟨by rw [hs], State.islandOn_off (by omega) ?_, hg, he, hf, fun k a hk ha => State.byte_zeroIsland _ hq hk ha⟩
  rw [hs]
  exact List.mem_append_right _ (List.mem_singleton_self _)

/-- A command on a cluster that is not in the state that it asks for sets SVCSTAT's error (R434). -/
theorem exec_service_refused {i : Instr} {s : State} {c : Nat} (hc : c < 24)
    (h : (i = .svcDrain (144 + c) ∧ s.clusterState c ≠ 0) ∨ ((i = .svcReturn (144 + c) ∨ i = .svcCycle (144 + c) ∨
      (∃ k, i = .svcRepair (144 + c) k) ∨ ∃ a, i = .svcModule (144 + c) a) ∧ s.clusterState c ≠ 2)) :
    exec i s = .next s.svcErr := by
  have refused {st : Nat} {ok : Nat → Bool} {k : Nat → State} (hs : s.clusterState c ≠ st) :
      Host.Outcome.next (σ := State) (φ := Fault) (ρ := Refusal) (s.svcOn (144 + c) st ok k) = .next s.svcErr :=
    congrArg _ (State.svcOn_refused hc hs)
  rcases h with ⟨rfl, hs⟩ | ⟨rfl | rfl | ⟨k, rfl⟩ | ⟨a, rfl⟩, hs⟩
  · exact refused hs
  · exact refused hs
  · have illegal : s.cycleLegal (144 + c) = false := by
      unfold State.cycleLegal
      rw [if_neg (by omega), if_pos (by omega), Nat.add_sub_cancel_left]
      exact beq_eq_false_iff_ne.2 hs
    show execSvcCycle (144 + c) s = _
    unfold execSvcCycle
    rw [if_pos (by simp [illegal])]
  · exact refused hs
  · exact refused hs

/-- The drain's end: nothing of the cluster is at work and no context of the drain is still being saved (R434). -/
theorem execClusterOffline_drained {s : State} {c m : Nat} (hb : s.svc.busy = some (1, 144 + c, m))
    (hs : s.clusterState c = 1) (hcrew : ∀ x ∈ s.crews, x.cluster ≠ c)
    (hctx : ∀ k x, s.ctx? k = some x → m.testBit k = true → x.st ≠ .saving ∧ x.st ≠ .killing)
    (hg : ∀ g ∈ s.groups, g.id.cluster ≠ c) (ho : ∀ o ∈ s.ops, o.gid.cluster ≠ c) :
    exec (.clusterOffline c) s = .next (s.setCluster c 2) := by
  have crews : s.residents c = [] := List.filter_eq_nil_iff.2 fun x hx => by simp [hcrew x hx]
  have waits : ((List.range 256).any fun x => m.testBit x &&
      ((s.ctxOf x).st == .saving || (s.ctxOf x).st == .killing)) = false := by
    rw [List.any_eq_false]
    intro k _
    cases hk : s.ctx? k with
    | none =>
      have blank : s.ctxOf k = .blank k := by
        unfold State.ctxOf
        rw [hk]
      rw [blank]
      simp [Ctx.blank]
    | some x =>
      rw [State.ctxOf_eq hk]
      by_cases hm : m.testBit k = true
      · obtain ⟨h1, h2⟩ := hctx k x hk hm
        simp [h1, h2]
      · simp [hm]
  have groups : (s.groups.all fun g => g.id.cluster != c) = true :=
    List.all_eq_true.2 fun g hx => by simpa using hg g hx
  have ops : (s.ops.all fun o => o.gid.cluster != c || o.kind.receive) = true :=
    List.all_eq_true.2 fun o hx => by simp [ho o hx]
  show execClusterOffline c s = _
  unfold execClusterOffline
  simp [hb, hs, crews, waits, groups, ops]

section
variable {s : State} {cmd island arg : Nat} (hb : s.svc.busy = some (cmd, island, arg))
include hb

/-- The end of the busy command: what it does at its end, and the port free again. -/
theorem execSvcComplete_busy {t : State} (h : ¬(cmd = 1 ∧ s.clusterState (island - 144) ≠ 2))
    (ht : (if cmd = 4 then s.checkModule (island - 144) arg else if cmd = 5 then s.cycleEnd island else s) = t) :
    exec .svcComplete s = .next { t with svc := { t.svc with busy := none } } := by
  show execSvcComplete s = _
  unfold execSvcComplete
  rw [hb]
  dsimp only
  rw [if_neg h, ht]

theorem execSvcComplete_draining (h1 : cmd = 1) (h2 : s.clusterState (island - 144) ≠ 2) :
    exec .svcComplete s = .next s := by
  show execSvcComplete s = _
  unfold execSvcComplete
  rw [hb]
  dsimp only
  rw [if_pos ⟨h1, h2⟩]

end

section
variable {s : State} {cmd island arg : Nat} (hb : s.svc.busy = some (cmd, island, arg))
include hb

theorem execSvcComplete_freed (h : cmd = 2 ∨ cmd = 3 ∨ (cmd = 1 ∧ s.clusterState (island - 144) = 2)) :
    exec .svcComplete s = .next { s with svc := { s.svc with busy := none } } :=
  execSvcComplete_busy hb (by rintro ⟨h1, h2⟩; omega) (by rw [if_neg (by omega), if_neg (by omega)])

theorem execSvcComplete_module (h : cmd = 4) : ∃ t, exec .svcComplete s = .next t ∧ t.svc.busy = none ∧
    t.groups = s.groups ∧ t.mem = s.mem := by
  obtain ⟨t, ht, hg, hm⟩ : ∃ t, s.checkModule (island - 144) arg = t ∧ t.groups = s.groups ∧ t.mem = s.mem :=
    ⟨_, rfl, s.checkModule_groups _ _, s.checkModule_mem _ _⟩
  exact ⟨_, execSvcComplete_busy hb (by rintro ⟨h1, -⟩; omega) ((if_pos h).trans ht), rfl, hg, hm⟩

theorem execSvcComplete_cycle (h : cmd = 5) (hk : island < 168) (hs : s.boot.state = 3) :
    ∃ t, exec .svcComplete s = .next t ∧ t.svc.busy = none ∧ t.islandOn island = true ∧ t.groups = s.groups ∧
      t.mem = s.mem := by
  have e := execSvcComplete_busy hb (t := s.cycleEnd island) (by rintro ⟨h1, -⟩; omega)
    (by rw [if_neg (by omega), if_pos h])
  rw [State.cycleEnd_below hk] at e
  exact ⟨_, e, rfl, State.islandOn_on hs (by simp), rfl, rfl⟩

end

/-- Settles O52: each clause is the lemma above that says what its command or event does. -/
theorem bootAndService : Obligations.BootAndService := by
  refine ⟨?_, ?_, ?_, ?_, ?_, ?_, ?_, ?_, ?_, ?_, ?_, ?_, ?_⟩
  · exact fun s => execPowerUp_powered
  · exact fun i b s h => ⟨_, exec_resetCold h, rfl, rfl, rfl, rfl, rfl, rfl, rfl, rfl, rfl, rfl, rfl, rfl, rfl,
      s.byte_afterReset⟩
  · exact fun s => ⟨s.afterReset true, rfl, rfl, rfl, rfl, rfl, rfl, rfl, rfl, rfl, rfl, rfl, rfl, rfl, rfl⟩
  · exact fun v s => ⟨execFwGo_accepted, execFwGo_ignored⟩
  · exact fun s => execFwLoaded_fetching
  · intro b s hs
    refine ⟨fun h => by rw [execFwLoaded_checking hs, State.imageChecked_rejected h], fun h => ?_⟩
    obtain ⟨y, hy⟩ := State.imageChecked_runs h
    exact ⟨_, y, execFwLoaded_checking hs, hy⟩
  · exact fun s => ⟨_, rfl, rfl, rfl, rfl⟩
  · exact fun s hp => ⟨_, execAttestReady_signed hp, rfl, rfl, rfl, rfl⟩
  · intro c s hc hb
    exact ⟨execSvcDrain_started hc hb, execSvcReturn_started hc hb, fun k => execSvcRepair_started hc hb,
      fun a => execSvcModule_started hc hb, execSvcCycle_fabric hc hb⟩
  · exact fun i s c h hc => exec_service_refused hc h
  · exact fun q s => execSvcCycle_quad
  · exact fun c s m _ => execClusterOffline_drained
  · exact fun s cmd island arg hb => ⟨execSvcComplete_draining hb, execSvcComplete_freed hb,
      execSvcComplete_module hb, execSvcComplete_cycle hb⟩

end Sys2Proof.Machine

/-! ## The network's steps: tokens, replies, samples and reservations (O25) -/

namespace Sys2Proof.Machine

/-! ### The optical token (R19) -/

theorem updFirst_eq_self {α : Type} {p : α → Bool} {f : α → α} {l : List α} (h : ∀ x ∈ l, p x = false) :
    updFirst p f l = l := by
  induction l with
  | nil => rfl
  | cons x l ih =>
    obtain ⟨hx, hl⟩ := List.forall_mem_cons.1 h
    rw [updFirst, hx, if_neg Bool.false_ne_true, ih hl]

/-- The element that is updated is the first that `p` accepts. -/
theorem updFirst_append_cons {α : Type} {p : α → Bool} {f : α → α} {a b : List α} {x : α}
    (ha : ∀ y ∈ a, p y = false) (hx : p x = true) : updFirst p f (a ++ x :: b) = a ++ f x :: b := by
  induction a with
  | nil => rw [List.nil_append, updFirst, if_pos hx, List.nil_append]
  | cons y a ih =>
    obtain ⟨hy, hl⟩ := List.forall_mem_cons.1 ha
    rw [List.cons_append, updFirst, hy, if_neg Bool.false_ne_true, ih hl, List.cons_append]

theorem Req.queued_iff {r : Req} {c slice : Nat} : r.queued c slice = true ↔
    r.cluster = c ∧ r.slice = slice ∧ r.sent = false ∧ r.waiting = false := by
  simp [Req.queued, and_assoc]

/-- The request as a visit of its token sends it: with the mark of R311 where its queue has reached MARKAT. -/
def State.sentReq (s : State) (c slice : Nat) (r : Req) : Req :=
  { r with sent := true, mark := s.cong.mode == 1 && decide (s.cq c slice ≥ s.cong.markat) }

/-- A visit passes the token on, and leaves the requests as the update of the first that waits for it does. -/
theorem execOpticalToken_visit {s : State} {slice : Nat} {rs : List Req}
    (h : updFirst (fun r => decide (slice < 96) && r.queued (SMap.get 0 s.token slice) slice)
      (s.sentReq (SMap.get 0 s.token slice) slice) s.reqs = rs) :
    ∃ t, exec (.opticalToken slice) s = .next t ∧
      SMap.get 0 t.token slice = (SMap.get 0 s.token slice + 1) % 24 ∧ t.reqs = rs ∧ t.mem = s.mem ∧
      t.groups = s.groups :=
  ⟨_, rfl, SMap.get_set_self 0 s.token slice _, h, rfl, rfl⟩

theorem execOpticalToken_idle {s : State} {slice : Nat}
    (h : ∀ r ∈ s.reqs, r.queued (SMap.get 0 s.token slice) slice = false) :
    ∃ t, exec (.opticalToken slice) s = .next t ∧
      SMap.get 0 t.token slice = (SMap.get 0 s.token slice + 1) % 24 ∧ t.reqs = s.reqs ∧ t.mem = s.mem ∧
      t.groups = s.groups :=
  execOpticalToken_visit (updFirst_eq_self fun r hr => by rw [h r hr, Bool.and_false])

theorem execOpticalToken_sends {s : State} {slice : Nat} {a b : List Req} {r : Req} (hs : slice < 96)
    (he : s.reqs = a ++ r :: b) (ha : ∀ x ∈ a, x.queued (SMap.get 0 s.token slice) slice = false)
    (hr : r.queued (SMap.get 0 s.token slice) slice = true) :
    ∃ t, exec (.opticalToken slice) s = .next t ∧
      SMap.get 0 t.token slice = (SMap.get 0 s.token slice + 1) % 24 ∧
      t.reqs = a ++ s.sentReq (SMap.get 0 s.token slice) slice r :: b ∧ t.mem = s.mem ∧ t.groups = s.groups := by
  refine execOpticalToken_visit ?_
  rw [he]
  exact updFirst_append_cons (fun x hx => by rw [ha x hx, Bool.and_false]) (by rw [hr, decide_eq_true hs]; rfl)

/-! ### Completion at system scope (R83) -/

/-- The operation once the parts numbered in `l` are complete at system scope. -/
def Op.sysDoneBy (o : Op) (l : List Nat) : Op :=
  { o with parts := o.parts.zipIdx.map fun x => if l.contains x.2 then { x.1 with sysDone := true } else x.1 }

theorem Op.sysDoneBy_part {o : Op} {i : Nat} {y : Part} (l : List Nat) (h : o.parts[i]? = some y) :
    (o.sysDoneBy l).parts[i]? = some (if l.contains i then { y with sysDone := true } else y) := by
  simp [Op.sysDoneBy, h]

/-- A reply of system scope acknowledges no part. -/
theorem Op.sysDoneBy_open {o : Op} {i : Nat} {y : Part} (l : List Nat) (h : o.parts[i]? = some y)
    (hd : y.done = false) : ¬ ((o.sysDoneBy l).parts.all fun p => p.done && p.sysDone) = true := by
  intro hall
  have hy := List.all_eq_true.1 hall _ (List.mem_of_getElem? (Op.sysDoneBy_part l h))
  split at hy <;> simp [hd] at hy

theorem State.op?_id {s : State} {i : Nat} {o : Op} (h : s.op? i = some o) : o.id = i := by
  simpa using List.find?_some h

/-- An operation put in the place of the one of its number is found there. -/
theorem State.op?_putOp_self {s : State} {o x : Op} (h : s.op? o.id = some x) : (s.putOp o).op? o.id = some o := by
  refine (find?_mapKey Op.id o.id o.id o rfl s.ops).trans ?_
  rw [show s.ops.find? (fun y => y.id == o.id) = some x from h, Option.map_some, State.op?_id h, beq_self_eq_true,
    if_pos rfl]

/-- The reply to a request whose parts have all been performed, of an operation with a part still to be
acknowledged. -/
theorem execCompletionReply_putOp {s : State} {n i : Nat} {q : Req} {o : Op} {y : Part} (hq : s.req? n = some q)
    (hs : q.slice ≥ 96) (ho : s.op? q.op = some o)
    (hgot : ∀ i ∈ q.parts, ∀ y, o.parts[i]? = some y → y.got.isSome = true) (hy : o.parts[i]? = some y)
    (hd : y.done = false) : exec (.completionReply n) s = .next (s.putOp (o.sysDoneBy q.parts)) := by
  show execCompletionReply n s = _
  unfold execCompletionReply
  rw [hq]
  dsimp only
  rw [ho]
  dsimp only
  rw [if_neg]
  · exact if_neg (Op.sysDoneBy_open q.parts hy hd)
  · simp only [Bool.or_eq_true, decide_eq_true_eq, List.any_eq_true, not_or, not_exists, not_and]
    refine ⟨by omega, fun j hj => ?_⟩
    cases hz : o.parts[j]? with
    | none => exact Bool.false_ne_true
    | some z =>
      have hz := hgot j hj z hz
      simp [Option.isSome_iff_ne_none.1 hz]

theorem execCompletionReply_sysDone {s : State} {n : Nat} {q : Req} {o : Op} (hq : s.req? n = some q)
    (hs : q.slice ≥ 96) (ho : s.op? q.op = some o)
    (hgot : ∀ i ∈ q.parts, ∀ y, o.parts[i]? = some y → y.got.isSome = true)
    (hopen : ∃ (i : Nat) (y : Part), o.parts[i]? = some y ∧ y.done = false) :
    ∃ t x, exec (.completionReply n) s = .next t ∧ t.op? q.op = some x ∧ t.mem = s.mem ∧
      ∀ (i : Nat) (y : Part), o.parts[i]? = some y →
        ∃ z, x.parts[i]? = some z ∧ z.sysDone = (y.sysDone || q.parts.contains i) := by
  obtain ⟨i, y, hy, hd⟩ := hopen
  have hid : (o.sysDoneBy q.parts).id = q.op := show o.id = q.op from State.op?_id ho
  have found := State.op?_putOp_self (s := s) (o := o.sysDoneBy q.parts) (x := o) (by rw [hid]; exact ho)
  rw [hid] at found
  refine ⟨_, _, execCompletionReply_putOp hq hs ho hgot hy hd, found, s.putOp_mem _, fun j z hz => ?_⟩
  refine ⟨_, Op.sysDoneBy_part q.parts hz, ?_⟩
  cases q.parts.contains j <;> simp

/-! ### Congestion (R308, R311) -/

theorem pairGet_pairSet_ne {d : Nat} {l : List (Nat × Nat)} {j k v : Nat} (h : j ≠ k) :
    pairGet d (pairSet l k v) j = pairGet d l j := by
  unfold pairGet pairSet
  rw [find?_upsert Prod.fst k j (k, v) rfl, if_neg h]

theorem execCongestionSample_due {s : State} (cluster : Nat) (h : s.clock % 256 = 0) :
    exec (.congestionSample cluster) s = .next (s.sample cluster) := by
  show execCongestionSample cluster s = _
  unfold execCongestionSample
  rw [if_neg (by simp [h])]

/-- The window that a reply leaves to its core. -/
theorem Congestion.win_reply_self (c : Congestion) (k : Nat) (marked : Bool) :
    pairGet 256 (c.reply k marked).win k =
      if marked = false then Nat.min 256 (pairGet 256 c.win k + 1)
      else if 64 ≤ pairGet 64 c.replies k then Nat.max 4 (pairGet 256 c.win k / 2) else pairGet 256 c.win k := by
  unfold Congestion.reply
  cases marked with
  | false => simp
  | true => by_cases hn : 64 ≤ pairGet 64 c.replies k <;> simp [hn]

theorem Congestion.win_reply_ne (c : Congestion) {j k : Nat} (marked : Bool) (h : j ≠ k) :
    pairGet 256 (c.reply k marked).win j = pairGet 256 c.win j := by
  unfold Congestion.reply
  cases marked with
  | false => simp [pairGet_pairSet_ne h]
  | true => by_cases hn : 64 ≤ pairGet 64 c.replies k <;> simp [hn, pairGet_pairSet_ne h]

/-- What leaves the coalescer changes neither the windows nor a group. -/
theorem State.coalesce_cong (s : State) : s.coalesce.cong = s.cong :=
  foldl_same State.cong (fun _ _ => by split <;> rfl) s.reqs s

theorem State.coalesce_groups (s : State) : s.coalesce.groups = s.groups :=
  foldl_same State.groups (fun _ _ => by split <;> rfl) s.reqs s

theorem execCrossbarReply_oldest {s : State} {cluster core : Nat} {marked : Bool}
    (h : s.cong.echo.find? (fun e => e.1 == cluster * 24 + core) = some (cluster * 24 + core, marked)) :
    ∃ t, exec (.crossbarReply cluster core marked) s = .next t ∧
      t.cong = { s.cong.reply (cluster * 24 + core) marked with
        echo := s.cong.echo.erase (cluster * 24 + core, marked) } ∧
      t.groups = s.groups ∧ t.mem = s.mem :=
  ⟨_, if_pos h, State.coalesce_cong _, State.coalesce_groups _, State.coalesce_mem _⟩

/-! ### Reservations (R214) -/

theorem execReservationExpire_due {s : State} {n : Nat} {r : Reservation} (h : s.resv[n]? = some r)
    (hc : r.clock + 4096 ≤ s.clock) :
    exec (.reservationExpire n) s = .next { s with resv := s.resv.eraseIdx n } := by
  show execReservationExpire n s = _
  unfold execReservationExpire
  rw [h]
  exact congrArg Host.Outcome.next (if_pos hc)

/-- Settles O25: each clause is the lemma above about its event; a request that waits for the token stands first in
the requests after those that do not. -/
theorem networkSteps : Obligations.NetworkSteps := by
  refine ⟨fun slice s => ⟨fun h => ?_, fun hs h => ?_⟩, ?_, ?_, ?_, fun n s r => execReservationExpire_due⟩
  · exact execOpticalToken_idle fun r hr => Bool.eq_false_iff.2 fun hq => h r hr (Req.queued_iff.1 hq)
  · obtain ⟨r, hm, hr⟩ := h
    obtain ⟨q, hq⟩ := Option.isSome_iff_exists.1 (List.find?_isSome
      (p := fun r => r.queued (SMap.get 0 s.token slice) slice).2 ⟨r, hm, Req.queued_iff.2 hr⟩)
    obtain ⟨hq, a, b, he, ha⟩ := List.find?_eq_some_iff_append.1 hq
    have ha : ∀ x ∈ a, x.queued (SMap.get 0 s.token slice) slice = false := by simpa using ha
    obtain ⟨t, ht, htok, hreqs, hmem, hgroups⟩ := execOpticalToken_sends hs he ha hq
    obtain ⟨hcluster, hslice, hsent, hwaiting⟩ := Req.queued_iff.1 hq
    exact ⟨t, a, q, b, ht, htok, he, hcluster, hslice, hsent, hwaiting,
      fun x hx hw => Bool.eq_false_iff.1 (ha x hx) (Req.queued_iff.2 hw), hreqs, hmem, hgroups⟩
  · exact fun n q s o => execCompletionReply_sysDone
  · intro cluster s hclock
    exact ⟨_, execCongestionSample_due cluster hclock, pairGet_pairSet_self .., pairGet_pairSet_self ..,
      fun k hk => pairGet_pairSet_ne hk, rfl, rfl⟩
  · intro cluster core marked s h
    obtain ⟨t, ht, hcong, hgroups, hmem⟩ := execCrossbarReply_oldest h
    refine ⟨t, ht, by rw [hcong], ?_, fun j hj => ?_, hgroups, hmem⟩
    · rw [hcong]
      exact Congestion.win_reply_self ..
    · rw [hcong]
      exact Congestion.win_reply_ne _ _ hj

end Sys2Proof.Machine

namespace Sys2Proof.Machine

/-! ## Writes of device registers (O54) -/

/-! ### The registers of rows, by their offsets -/

theorem dregOf_fabjob {c : Nat} (h : c < 256) : dregOf (0x14800 + 8 * c) = some (.fabjob c) := by
  revert c
  decide +kernel

theorem dregOf_trcbase {c : Nat} (h : c < 256) : dregOf (0x16000 + 16 * c) = some (.trcbase c) := by
  revert c
  decide +kernel

/-! ### A host write (R65, R408) -/

theorem spaceAccess_eq_false {off size : Nat} (h : (size ≠ 4 ∧ size ≠ 8) ∨ off % size ≠ 0) :
    spaceAccess off size = false := by
  unfold spaceAccess
  rcases h with ⟨h4, h8⟩ | h
  · simp [h4, h8]
  · simp [h]

/-- A whole register is written, once an image runs, by an aligned write of eight bytes outside the nonce (R433). -/
theorem execRegWrite_whole {s : State} {off : Nat} {r : DReg} {v : DWord} (hb : s.boot.state = 3) (ho : off % 8 = 0)
    (hn : off < 0x19100 ∨ 0x19120 ≤ off) (hr : dregOf off = some r) :
    exec (.regWrite off 8 v) s = .next (s.writeReg none r v.toNat) := by
  have hs : spaceAccess off 8 = true := by simp [spaceAccess, ho]
  have hw : ¬(0x19100 ≤ off ∧ off < 0x19120) := by omega
  have hv : v.toNat % 256 ^ 8 = v.toNat := Nat.mod_eq_of_lt v.isLt
  have halign : off / 8 * 8 = off := by omega
  show execRegWrite off 8 v s = _
  simp only [execRegWrite, hs, if_true, State.writeSpace, if_neg hw, hv, halign, hr, hb, bne_self_eq_false,
    Bool.false_and, Bool.false_eq_true, if_false]

/-- The lower half of a register without write-only or write-one-to-clear bits is written by four bytes. -/
theorem execRegWrite_lowHalf {s : State} {off : Nat} {r : DReg} {v : DWord} (hb : s.boot.state = 3) (ho : off % 8 = 0)
    (hn : off < 0x19100 ∨ 0x19120 ≤ off) (hr : dregOf off = some r) (hwo : r.wo = false) (hw1c : r.w1c = false) :
    exec (.regWrite off 4 v) s =
      .next (s.writeReg none r (v.toNat % 2 ^ 32 + s.readReg r / 2 ^ 32 * 2 ^ 32)) := by
  have hs : spaceAccess off 4 = true := by simp [spaceAccess]; omega
  have hw : ¬(0x19100 ≤ off ∧ off < 0x19120) := by omega
  have halign : off / 8 * 8 = off := by omega
  show execRegWrite off 4 v s = _
  simp [execRegWrite, hs, State.writeSpace, if_neg hw, halign, hr, hb, hwo, hw1c, ho]

/-! ### FABJOB, CONGCTL, CONGRATE and RSPILL -/

/-- Another context has the job that a write of FABJOB names (R390). -/
def State.JobTaken (s : State) (c w : Nat) : Prop :=
  w.testBit 16 = true ∧ ∃ x ∈ s.ctxs, x.num ≠ c ∧ x.fabjob.testBit 16 = true ∧ x.fabjob % 2 ^ 16 = w % 2 ^ 16

theorem execFabjobWrite_refused {s : State} {c : Nat} {v : DWord} (hc : c < 256)
    (h : (s.ctxOf c).st = .free ∨ s.JobTaken c (v.toNat % 2 ^ 17)) :
    exec (.fabjobWrite c v) s = .next (s.err c) := by
  show execFabjobWrite c v s = _
  unfold execFabjobWrite
  rw [if_neg (by omega)]
  refine if_pos ?_
  simpa [State.JobTaken, and_assoc] using h

theorem execFabjobWrite_accepted {s : State} {c : Nat} {v : DWord} {x : Ctx} (hc : c < 256) (hx : s.ctx? c = some x)
    (hst : x.st ≠ .free) (h : ¬s.JobTaken c (v.toNat % 2 ^ 17)) :
    exec (.fabjobWrite c v) s = .next (s.modCtx c (fun x => { x with fabjob := v.toNat % 2 ^ 17 })) := by
  show execFabjobWrite c v s = _
  unfold execFabjobWrite
  rw [if_neg (by omega)]
  refine if_neg ?_
  simpa [State.JobTaken, State.ctxOf_eq hx, hst] using h

theorem execCongctlWrite_leaves (v : DWord) (s : State) : ∃ t, exec (.congctlWrite v) s = .next t ∧
    t.cong.mode = v.toNat % 2 ∧ t.cong.markat = bits v.toNat 15 8 ∧ (v.toNat % 2 = 1 → t.cong.win = []) ∧
    t.cong.rate = s.cong.rate ∧ t.groups = s.groups ∧ t.mem = s.mem := by
  refine ⟨_, rfl, ?_⟩
  by_cases h : v.toNat % 2 = 1 <;> simp [h]

theorem execCongrateWrite_cluster {c : Nat} (v : DWord) (s : State) (hc : c < 24) : exec (.congrateWrite c v) s =
    .next { s with cong := { s.cong with rate := pairSet s.cong.rate c (v.toNat % 128) } } :=
  if_neg (by omega)

theorem execRspillWrite_ctx {c : Nat} (v : DWord) (s : State) (hc : c < 256) : exec (.rspillWrite c v) s =
    .next (s.putCtx c (fun x => { x with rspill := bits v.toNat 51 31 * 2 ^ 31 + v.toNat % 2 })) :=
  if_neg (by omega)

theorem State.after_execFabjobWrite (s : State) (c : Nat) (v : DWord) :
    .next (s.after (execFabjobWrite c v s)) = execFabjobWrite c v s := by
  unfold execFabjobWrite
  dsimp only
  (repeat' split) <;> rfl

theorem State.after_execTrcbaseWrite (s : State) (c : Nat) (v : DWord) :
    .next (s.after (execTrcbaseWrite c v s)) = execTrcbaseWrite c v s := by
  unfold execTrcbaseWrite
  split <;> rfl

theorem execRegWrite_ctxtab (v : DWord) {s : State} (hb : s.boot.state = 3) :
    exec (.regWrite 0x10000 8 v) s = .next { s with ctxtab := v.toNat / 4096 * 4096 } :=
  execRegWrite_whole (r := .ctxtab) hb (by decide) (by decide) rfl

theorem execRegWrite_intcause (v : DWord) {s : State} (hb : s.boot.state = 3) : exec (.regWrite 0x15000 8 v) s =
    .next { s with links := { s.links with intcause := s.links.intcause &&& (31 - (v.toNat &&& 31)) } } :=
  execRegWrite_whole (r := .intcause) hb (by decide) (by decide) rfl

theorem execRegWrite_inten (v : DWord) {s : State} (hb : s.boot.state = 3) : exec (.regWrite 0x15008 4 v) s =
    .next { s with links := { s.links with inten := v.toNat % 32 } } := by
  rw [execRegWrite_lowHalf (r := .inten) hb (by decide) (by decide) rfl rfl rfl, State.writeReg]
  have : (v.toNat % 2 ^ 32 + s.readReg .inten / 2 ^ 32 * 2 ^ 32) % 32 = v.toNat % 32 := by omega
  rw [this]

theorem execRegWrite_fabjob {c : Nat} (v : DWord) {s : State} (hb : s.boot.state = 3) (hc : c < 256) :
    exec (.regWrite (0x14800 + 8 * c) 8 v) s = exec (.fabjobWrite c v) s := by
  rw [execRegWrite_whole hb (by omega) (by omega) (dregOf_fabjob hc), State.writeReg, BitVec.ofNat_toNat,
    BitVec.setWidth_eq]
  exact State.after_execFabjobWrite s c v

theorem execRegWrite_trcbase {c : Nat} (v : DWord) {s : State} (hb : s.boot.state = 3) (hc : c < 256) :
    exec (.regWrite (0x16000 + 16 * c) 8 v) s = exec (.trcbaseWrite c v) s := by
  rw [execRegWrite_whole hb (by omega) (by omega) (dregOf_trcbase hc), State.writeReg, BitVec.ofNat_toNat,
    BitVec.setWidth_eq]
  exact State.after_execTrcbaseWrite s c v

/-- Settles O54: each clause is the lemma above about its register; a write through the window is the whole write of
the register at its offset. -/
theorem registerWrites : Obligations.RegisterWrites := by
  refine ⟨fun c v s hc => ⟨fun x hx hst h => ?_, execFabjobWrite_refused hc⟩, execCongctlWrite_leaves, ?_, ?_, ?_,
    fun s r v off => execRegWrite_whole, fun v s hb => ⟨⟨_, execRegWrite_ctxtab v hb, rfl, rfl, rfl⟩,
      ⟨_, execRegWrite_intcause v hb, rfl, rfl⟩, ⟨_, execRegWrite_inten v hb, rfl, rfl⟩,
      fun c => execRegWrite_fabjob v hb, fun c => execRegWrite_trcbase v hb⟩⟩
  · have hctx := State.ctx?_modCtx (s := s) (c := c) (f := fun x => { x with fabjob := v.toNat % 2 ^ 17 }) fun _ => rfl
    refine ⟨_, execFabjobWrite_accepted hc hx hst h, ?_, fun k hk => (hctx k).trans (if_neg hk), State.modCtx_groups ..,
      State.modCtx_mem ..⟩
    rw [hctx, if_pos rfl, hx]
    rfl
  · exact fun c v s hc => ⟨_, execCongrateWrite_cluster v s hc, pairGet_pairSet_self .., fun k => pairGet_pairSet_ne,
      rfl, rfl⟩
  · exact fun c v s hc => ⟨_, _, execRspillWrite_ctx v s hc, State.ctx?_putCtx_self s c fun _ => rfl, rfl, rfl, rfl, rfl⟩
  · intro off size v s h
    exact if_neg (by simp [spaceAccess_eq_false h])

end Sys2Proof.Machine

/-! ## Deliveries, acknowledgements and services of accesses (O24) -/

namespace Sys2Proof.Machine

/-! ### Parts performed -/

/-- One step of `performParts`: a part that `f` selects and that is still to be performed is performed. -/
def performStep (kind : OpKind) (f : Nat → Part → Bool) (acc : State × List Part) (x : Part × Nat) :
    State × List Part :=
  if f x.2 x.1 && x.1.got.isNone && !x.1.done then
    ((acc.1.perform kind x.1).1, acc.2 ++ [(acc.1.perform kind x.1).2])
  else (acc.1, acc.2 ++ [x.1])

theorem State.performParts_eq (s : State) (o : Op) (f : Nat → Part → Bool) :
    s.performParts o f = ((o.parts.zipIdx.foldl (performStep o.kind f) (s, [])).1,
      { o with parts := (o.parts.zipIdx.foldl (performStep o.kind f) (s, [])).2 }) := rfl

/-- Parts of which none is selected and still to be performed stay as they are. -/
theorem foldl_performStep_skip {kind : OpKind} {f : Nat → Part → Bool} (xs : List (Part × Nat)) :
    ∀ (s : State) (ps : List Part), (∀ x ∈ xs, f x.2 x.1 = true → x.1.got.isSome = true ∨ x.1.done = true) →
      xs.foldl (performStep kind f) (s, ps) = (s, ps ++ xs.map Prod.fst) := by
  induction xs with
  | nil => simp
  | cons x xs ih =>
    intro s ps h
    have hx : (f x.2 x.1 && x.1.got.isNone && !x.1.done) = false := by
      cases hf : f x.2 x.1 with
      | false => rfl
      | true => rcases h x (by simp) hf with h | h <;> simp [Option.isSome_iff_ne_none.1, h]
    rw [List.foldl_cons, performStep, hx, if_neg Bool.false_ne_true,
      ih s _ fun y hy => h y (List.mem_cons_of_mem x hy)]
    simp

theorem State.performParts_skip {s : State} {o : Op} {f : Nat → Part → Bool}
    (h : ∀ i y, o.parts[i]? = some y → f i y = true → y.got.isSome = true ∨ y.done = true) :
    s.performParts o f = (s, o) := by
  rw [State.performParts_eq, foldl_performStep_skip _ s [] fun x hx => h x.2 x.1 (List.mem_zipIdx_iff_getElem?.1 hx)]
  simp

/-- One part performed: the state goes as its performance says, and the other parts stay. -/
theorem State.performParts_one {s : State} {o : Op} {i : Nat} {y : Part} (hy : o.parts[i]? = some y)
    (hg : y.got = none) (hd : y.done = false) : s.performParts o (fun j _ => j == i) =
      ((s.perform o.kind y).1, { o with parts := o.parts.set i (s.perform o.kind y).2 }) := by
  obtain ⟨hi, rfl⟩ := List.getElem?_eq_some_iff.1 hy
  have hz : o.parts.zipIdx = (o.parts.take i).zipIdx ++ (o.parts[i], i) :: (o.parts.drop (i + 1)).zipIdx (i + 1) := by
    conv => lhs; rw [← List.take_append_drop i o.parts, List.drop_eq_getElem_cons hi]
    rw [List.zipIdx_append, List.zipIdx_cons]
    simp [Nat.min_eq_left hi.le]
  have skip : ∀ (xs : List (Part × Nat)), (∀ x ∈ xs, x.2 ≠ i) → ∀ t ps,
      xs.foldl (performStep o.kind fun j _ => j == i) (t, ps) = (t, ps ++ xs.map Prod.fst) :=
    fun xs hx t ps => foldl_performStep_skip xs t ps fun x hm hi => absurd (by simpa using hi) (hx x hm)
  rw [State.performParts_eq, hz, List.foldl_append, List.foldl_cons,
    skip ((o.parts.take i).zipIdx) fun x hx => by have := List.mem_zipIdx hx; simp at this; omega]
  rw [performStep, if_pos (by simp [hg, hd]), skip _ fun x hx => by have := List.mem_zipIdx hx; omega]
  simp [List.set_eq_take_append_cons_drop, hi]

/-! ### A store applied at its home (R77, R80, R214) -/

theorem WroteBytes.of_mem {s s' t t' : State} {key n v : Nat} (h : WroteBytes s t key n v) (hs : s'.mem = s.mem)
    (ht : t'.mem = t.mem) : WroteBytes s' t' key n v := by
  intro a
  rw [State.byte_congr ht, State.byte_congr hs]
  exact h a

theorem WroteBytes.write (s : State) (key n v : Nat) : WroteBytes s (s.write key n v) key n v :=
  fun a => State.byte_write n s key v a

theorem State.read_of_mem {s t : State} (h : t.mem = s.mem) (key n : Nat) : t.read key n = s.read key n :=
  State.read_congr n s t key fun a _ _ => State.byte_congr h a

theorem State.markDirty_eq (s : State) (c key : Nat) : ∃ d, s.markDirty c key = { s with dirty := d } := by
  unfold State.markDirty
  split
  · split
    · exact ⟨s.dirty, rfl⟩
    · exact ⟨_, rfl⟩
  · exact ⟨s.dirty, rfl⟩

/-- A store changes storage, the reservations of others on its bytes, the waits that it meets, and the granules
marked. -/
theorem State.applyStore_eq (s : State) (who : Owner) (key size v : Nat) : ∃ d m, m = (s.write key size v).mem ∧
    s.applyStore who key size v = { ({ s with mem := m } : State) with
      resv := s.resv.filter fun r => r.owner == who || !overlap key size r.key (if r.w64 then 8 else 4)
      groups := (({ s with mem := m } : State).wakeTimelines key size).groups
      dirty := d } := by
  obtain ⟨d, hd⟩ := State.markDirty_eq (((s.write key size v).breakResv who key size).wakeTimelines key size) who.ctx key
  refine ⟨d, _, rfl, ?_⟩
  unfold State.applyStore
  rw [hd, OnlyMem.write size s key v]
  rfl

theorem WroteBytes.applyStore (s : State) (who : Owner) (key size v : Nat) :
    WroteBytes s (s.applyStore who key size v) key size v := by
  obtain ⟨d, m, hm, ht⟩ := s.applyStore_eq who key size v
  rw [ht]
  exact (WroteBytes.write s key size v).of_mem rfl hm

theorem State.applyStore_resv (s : State) (who : Owner) (key size v : Nat) : (s.applyStore who key size v).resv =
    s.resv.filter fun r => r.owner == who || !overlap key size r.key (if r.w64 then 8 else 4) := by
  obtain ⟨d, m, -, ht⟩ := s.applyStore_eq who key size v
  rw [ht]

@[simp] theorem State.applyStore_ops (s : State) (who : Owner) (key size v : Nat) :
    (s.applyStore who key size v).ops = s.ops := by
  obtain ⟨d, m, -, ht⟩ := s.applyStore_eq who key size v
  rw [ht]

/-- A reservation taken stands last; nothing but the reservations changes. -/
theorem State.reserve_eq (s : State) (who : Owner) (key : Nat) (w64 : Bool) : ∃ rs, s.reserve who key w64 =
    { s with resv := rs ++ [{ owner := who, key := key, w64 := w64, clock := s.clock }] } := by
  unfold State.reserve
  dsimp only
  (repeat' split) <;> exact ⟨_, rfl⟩

@[simp] theorem State.reserve_ops (s : State) (who : Owner) (key : Nat) (w64 : Bool) :
    (s.reserve who key w64).ops = s.ops := by
  obtain ⟨rs, h⟩ := s.reserve_eq who key w64
  rw [h]

/-- A performance leaves the operations in flight: its part is put back by its caller. -/
theorem State.perform_ops (s : State) (kind : OpKind) (p : Part) : (s.perform kind p).1.ops = s.ops := by
  unfold State.perform
  dsimp only
  (repeat' split) <;> simp [State.dropOwner]

/-! ### A request served at its slice (R77) -/

theorem State.releaseIngress_eq (s : State) (line : Nat) :
    ∃ l, s.releaseIngress line = { s with links := l } := by
  unfold State.releaseIngress
  split
  · exact ⟨_, rfl⟩
  · exact ⟨s.links, rfl⟩

/-- The next part of a request is one of its operation's, and is still to be performed. -/
theorem Req.nextPart_some {q : Req} {o : Op} {i : Nat} {y : Part} (h : q.nextPart o = some (i, y)) :
    o.parts[i]? = some y ∧ y.got = none ∧ y.done = false := by
  unfold Req.nextPart at h
  split at h
  · cases h
  · next j hj =>
    obtain ⟨z, hz, he⟩ := Option.map_eq_some_iff.1 h
    obtain ⟨rfl, rfl⟩ := Prod.mk.inj he
    have hj := List.find?_some hj
    rw [hz] at hj
    simpa [hz] using hj

/-- A request whose next part is free is served: the ingress controllers let go of its line, the part is performed,
and its operation holds the part as it is then. -/
theorem Served.serve {s : State} {n : Nat} {q : Req} {o : Op} {i : Nat} {y : Part} (h : Served s n q o i y)
    {kind : OpKind → Bool} {place : Req → Bool} (hk : kind o.kind = true) (hp : place q = true) :
    ∃ l x z, z = (({ s with links := l } : State).perform o.kind y).2 ∧
      s.serve n kind place none = (({ s with links := l } : State).perform o.kind y).1.putOp x ∧
      ((({ s with links := l } : State).perform o.kind y).1.putOp x).op? q.op = some x ∧ x.parts[i]? = some z := by
  obtain ⟨hreq, hsent, hop, hnext, hfree, hturn⟩ := h
  obtain ⟨hy, hgot, hdone⟩ := Req.nextPart_some hnext
  obtain ⟨l, hl⟩ := s.releaseIngress_eq q.line
  have hs : s.serve n kind place none = (({ s with links := l } : State).perform o.kind y).1.putOp
      { o with parts := o.parts.set i (({ s with links := l } : State).perform o.kind y).2 } := by
    simp only [State.serve, hreq, hop, hnext, hsent, hp, hk, hfree, hturn, State.dropRecord, hl,
      State.performParts_one hy hgot hdone]
    rfl
  refine ⟨l, _, _, rfl, hs, ?_, ?_⟩
  · have hid := State.op?_id hop
    rw [← hid]
    refine State.op?_putOp_self (x := o) ?_
    rw [State.op?, State.perform_ops, ← State.op?]
    exact hid ▸ hop
  · have hi := (List.getElem?_eq_some_iff.1 hy).1
    simp [hi]

section
variable {s : State} {n : Nat} {q : Req} {o : Op} {i : Nat} {y : Part}

/-- A store request served: the bytes of its part are written, with T_w not before TIME or the record, and the
reservations of others on them are gone (R77, R80, R214). -/
theorem execSliceStore_served (h : Served s n q o i y) (hs : q.slice < 96) (hk : o.kind = .store ∨ o.kind = .writeback) :
    ∃ t, exec (.sliceStore n none) s = .next t ∧ WroteBytes s t y.key y.size y.b ∧ PartGot t q.op i 0 ∧
      (∃ x z, t.op? q.op = some x ∧ x.parts[i]? = some z ∧ z.tw = s.writeTime y.key) ∧
      t.resv = s.resv.filter fun r => r.owner == y.who || !overlap y.key y.size r.key (if r.w64 then 8 else 4) := by
  obtain ⟨l, x, z, hz, ht, hx, hi⟩ := h.serve (place := Req.atSlice)
    (kind := fun k => match k with | .store | .writeback => true | _ => false)
    (by rcases hk with hk | hk <;> rw [hk]) (decide_eq_true hs)
  let u : State := { s with links := l, nextId := s.nextId + 1 }
  have hp : ({ s with links := l } : State).perform o.kind y = (u.applyStore y.who y.key y.size y.b,
      { y with stamp := u.nextId, got := some 0, tw := s.writeTime y.key }) := by
    rcases hk with hk | hk <;> rw [hk] <;> rfl
  rw [hp] at hz ht hx
  refine ⟨_, congrArg Host.Outcome.next ht, (WroteBytes.applyStore u _ _ _ _).of_mem rfl rfl,
    ⟨x, z, hx, hi, by rw [hz]⟩, ⟨x, z, hx, hi, by rw [hz]⟩, u.applyStore_resv ..⟩

/-- An atomic, load-reserve or conditional store served: its part is performed, and its operation holds the part as it
is then. -/
theorem Served.serveAtomic (h : Served s n q o i y) (hs : q.slice < 96)
    (hk : (∃ op w64 d, o.kind = .atom op w64 d) ∨ (∃ d w, o.kind = .ldr d w) ∨ ∃ d w, o.kind = .stc d w) :
    ∃ l x z, z = (({ s with links := l } : State).perform o.kind y).2 ∧
      exec (.sliceAtomic n none) s = .next ((({ s with links := l } : State).perform o.kind y).1.putOp x) ∧
      ((({ s with links := l } : State).perform o.kind y).1.putOp x).op? q.op = some x ∧ x.parts[i]? = some z := by
  have hkind : (match o.kind with
      | .atom _ _ _ | .ldr _ _ | .stc _ _ => true
      | _ => false) = true := by
    rcases hk with ⟨op, w64, d, hk⟩ | ⟨d, w, hk⟩ | ⟨d, w, hk⟩ <;> rw [hk]
  obtain ⟨l, x, z, hz, ht, hx, hi⟩ := h.serve (place := Req.atSlice)
    (kind := fun k => match k with | .atom _ _ _ | .ldr _ _ | .stc _ _ => true | _ => false) hkind (decide_eq_true hs)
  exact ⟨l, x, z, hz, congrArg Host.Outcome.next ht, hx, hi⟩

/-- An atomic request served: its operation is applied to the bytes that it finds (R68, R212). -/
theorem execSliceAtomic_atom {op : AtomOp} {w64 : Bool} {d : Option Dest} (h : Served s n q o i y) (hs : q.slice < 96)
    (hk : o.kind = .atom op w64 d) : ∃ t, exec (.sliceAtomic n none) s = .next t ∧
      WroteBytes s t y.key y.size (op.apply w64 (s.read y.key y.size) y.b y.c) ∧
      PartGot t q.op i (s.read y.key y.size) := by
  obtain ⟨l, x, z, hz, ht, hx, hi⟩ := h.serveAtomic hs (.inl ⟨op, w64, d, hk⟩)
  let u : State := { s with links := l, nextId := s.nextId + 1 }
  have hr : u.read y.key y.size = s.read y.key y.size := State.read_of_mem (s := s) (t := u) rfl ..
  rw [hk] at hz ht hx
  refine ⟨_, ht, ?_, x, z, hx, hi, by rw [hz]; exact congrArg some hr⟩
  rw [← hr]
  exact (WroteBytes.applyStore u _ _ _ _).of_mem rfl rfl

/-- A load-reserve served: it reads, and its reservation stands (R214). -/
theorem execSliceAtomic_ldr {d : Dest} {w : Bool} (h : Served s n q o i y) (hs : q.slice < 96)
    (hk : o.kind = .ldr d w) : ∃ t, exec (.sliceAtomic n none) s = .next t ∧ t.mem = s.mem ∧
      PartGot t q.op i (s.read y.key y.size) ∧
      { owner := y.who, key := y.key, w64 := y.size == 8, clock := s.clock } ∈ t.resv := by
  obtain ⟨l, x, z, hz, ht, hx, hi⟩ := h.serveAtomic hs (.inr (.inl ⟨d, w, hk⟩))
  let u : State := { s with links := l, nextId := s.nextId + 1 }
  have hr : u.read y.key y.size = s.read y.key y.size := State.read_of_mem (s := s) (t := u) rfl ..
  obtain ⟨rs, hu⟩ := u.reserve_eq y.who y.key (y.size == 8)
  have hp : (({ s with links := l } : State).perform o.kind y).1 = u.reserve y.who y.key (y.size == 8) := by
    rw [hk]
    rfl
  rw [hp, hu] at ht hx
  rw [hk] at hz
  refine ⟨_, ht, rfl, ⟨x, z, hx, hi, by rw [hz]; exact congrArg some hr⟩, ?_⟩
  exact List.mem_append_right rs (List.mem_singleton.2 rfl)

/-- A conditional store served: it stores where its reservation stands, and ends the reservation either way (R214). -/
theorem execSliceAtomic_stc {d : Dest} {w : Bool} (h : Served s n q o i y) (hs : q.slice < 96)
    (hk : o.kind = .stc d w) : ∃ t, exec (.sliceAtomic n none) s = .next t ∧ (∀ r ∈ t.resv, r.owner ≠ y.who) ∧
      (s.reserved y.who y.key (y.size == 8) = true → WroteBytes s t y.key y.size y.b ∧ PartGot t q.op i 0) ∧
      (s.reserved y.who y.key (y.size == 8) = false → t.mem = s.mem ∧ PartGot t q.op i 1) := by
  obtain ⟨l, x, z, hz, ht, hx, hi⟩ := h.serveAtomic hs (.inr (.inr ⟨d, w, hk⟩))
  let u : State := { s with links := l, nextId := s.nextId + 1 }
  have ended : ∀ v : State, ∀ r ∈ (v.dropOwner y.who).resv, r.owner ≠ y.who :=
    fun v r hr => by simpa using (List.mem_filter.1 hr).2
  cases hres : s.reserved y.who y.key (y.size == 8) with
  | true =>
    have hp : ({ s with links := l } : State).perform o.kind y =
        ((u.applyStore y.who y.key y.size y.b).dropOwner y.who,
          { y with stamp := u.nextId, got := some 0, tw := s.writeTime y.key }) := by
      rw [hk]
      exact if_pos hres
    rw [hp] at hz ht hx
    exact ⟨_, ht, ended _, fun _ => ⟨(WroteBytes.applyStore u _ _ _ _).of_mem rfl rfl,
      x, z, hx, hi, by rw [hz]⟩, nofun⟩
  | false =>
    have hp : ({ s with links := l } : State).perform o.kind y =
        (u.dropOwner y.who, { y with stamp := u.nextId, got := some 1 }) := by
      rw [hk]
      exact if_neg (Bool.eq_false_iff.1 hres)
    rw [hp] at hz ht hx
    exact ⟨_, ht, ended _, nofun, fun _ => ⟨rfl, x, z, hx, hi, by rw [hz]⟩⟩

end

/-! ### A timeline signal (R276, R279) -/

/-- The group when `f` has changed the waits of its paths. -/
def Group.mapWaits (g : Group) (f : Park → Park) : Group := { g with paths := g.paths.map fun p => p.mapWait f }

theorem Group.path?_mapWaits (g : Group) (f : Park → Park) (k : Nat) :
    (g.mapWaits f).path? k = (g.path? k).map fun p => p.mapWait f :=
  find?_map_of (fun p : Path => p.mapWait f) (fun p => p.id == k) (fun _ => rfl) g.paths

/-- A written word releases the waits for it that it meets: their threshold is 0. -/
theorem State.wakeTimelines_eq (s : State) (key size : Nat) : ∃ f : Park → Park,
    (∀ w va thr e sys d, overlap w 8 key size = true → s.tlMet w thr d = true →
      f (.tlwait w va thr e sys d) = .tlwait w va 0 e sys d) ∧
    s.wakeTimelines key size = { s with groups := s.groups.map fun g => g.mapWaits f } :=
  ⟨_, fun _ _ _ _ _ _ ho hm => if_pos (by rw [ho, hm]; rfl), rfl⟩

theorem State.wakeTimelines_park {s : State} {j : GroupId} {g : Group} {k : Nat} {p : Path}
    {w va thr key size : Nat} {e sys : Bool} {d : Option Nat} (hg : s.group? j = some g) (hp : g.path? k = some p)
    (hw : p.park = some (.tlwait w va thr e sys d)) (ho : overlap w 8 key size = true) (hm : s.tlMet w thr d = true) :
    ∃ h r, (s.wakeTimelines key size).group? j = some h ∧ h.path? k = some r ∧
      r.park = some (.tlwait w va 0 e sys d) := by
  obtain ⟨f, hf, hs⟩ := s.wakeTimelines_eq key size
  refine ⟨g.mapWaits f, p.mapWait f, ?_, by rw [Group.path?_mapWaits, hp]; rfl, ?_⟩
  · rw [hs, State.group?_mapGroups s (fun g => g.mapWaits f) fun _ => rfl, hg]
    rfl
  · simp only [Path.mapWait, hw, Option.map_some, hf w va thr e sys d ho hm]

/-- A timeline signal applied: the word is set or raised, and the waits that it satisfies are released. -/
theorem execTimelineSignal_served {s : State} {n : Nat} {q : Req} {o : Op} {i : Nat} {y : Part} {set : Bool} {v : Nat}
    (hq : s.reqs.find? (fun r => r.op == n) = some q) (h : Served s q.id q o i y) (hk : o.kind = .tlsig set v) :
    ∃ t, exec (.timelineSignal n) s = .next t ∧
      WroteBytes s t y.key 8 (if set then v else Nat.max (s.read y.key 8) v) ∧
      ∀ j g k p va thr e sys dl, s.group? j = some g → g.path? k = some p →
        p.park = some (.tlwait y.key va thr e sys dl) → thr ≤ t.read y.key 8 → (∀ d, dl = some d → s.time ≤ d) →
        ∃ h r, t.group? j = some h ∧ h.path? k = some r ∧ r.park = some (.tlwait y.key va 0 e sys dl) := by
  obtain ⟨l, x, z, -, ht, -, -⟩ := h.serve (place := fun _ => true)
    (kind := fun k => match k with | .tlsig _ _ => true | _ => false) (by rw [hk]) rfl
  let u : State := { s with links := l, nextId := s.nextId + 1 }
  let word := if set then v else Nat.max (s.read y.key 8) v
  have hu : (({ s with links := l } : State).perform o.kind y).1 = u.applyStore y.who y.key 8 word := by
    rw [hk]
    show u.applyStore y.who y.key 8 (if set then v else Nat.max (u.read y.key 8) v) = _
    rw [State.read_of_mem (s := s) (t := u) rfl]
  have he : exec (.timelineSignal n) s = .next (s.serve q.id (fun k => match k with
      | .tlsig _ _ => true
      | _ => false) (fun _ => true) none) := by
    show execTimelineSignal n s = _
    unfold execTimelineSignal
    rw [hq] <;> rfl
  rw [hu] at ht
  refine ⟨_, he.trans (congrArg Host.Outcome.next ht), (WroteBytes.applyStore u _ _ _ _).of_mem rfl rfl, ?_⟩
  intro j g k p va thr e sys dl hg hp hw hthr hdl
  obtain ⟨d, m, hm, ha⟩ := u.applyStore_eq y.who y.key 8 word
  rw [ha] at hthr ⊢
  let w : State := { u with mem := m }
  have hthr : thr ≤ w.read y.key 8 := hthr.trans_eq (State.read_of_mem rfl ..)
  have met : w.tlMet y.key thr dl = true := by
    unfold State.tlMet
    cases dl with
    | none => simp [hthr]
    | some d => simp [hthr, show w.time ≤ d from hdl d rfl]
  exact State.wakeTimelines_park (s := w) hg hp hw (by simp [overlap]) met

/-! ### Acknowledgement (R70, R82) -/

@[simp] theorem State.noteTw_ops (s : State) (o : Op) (tw : Nat) : (s.noteTw o tw).ops = s.ops := by
  unfold State.noteTw
  split <;> simp

@[simp] theorem State.updateCopy_ops (s : State) (o : Op) (p : Part) : (s.updateCopy o p).ops = s.ops := by
  unfold State.updateCopy
  split
  · rfl
  · split <;> rfl

/-- A part acknowledged while others are open: its operation stays, with the part done. -/
theorem State.ackPart_open {s : State} {o : Op} {i : Nat} {p : Part}
    (h : ¬∀ q ∈ o.parts.set i { p with done := true }, q.done = true) : ∃ u x, s.ackPart o i p = State.putOp u x ∧
      u.ops = s.ops ∧ x.id = o.id ∧ x.parts = o.parts.set i { p with done := true } := by
  unfold State.ackPart
  extract_lets p' o' t u ends v x
  have hu : u.ops = s.ops := by unfold u; split <;> simp [t]
  have hv : v.ops = s.ops := by unfold v; split <;> simp [hu]
  rw [if_neg (by simpa [x, o'] using h)]
  exact ⟨v, x, rfl, hv, rfl, rfl⟩

/-- The last part acknowledged: its operation goes, where all of it is complete at system scope. -/
theorem State.ackPart_last {s : State} {o : Op} {i : Nat} {p : Part}
    (h : ∀ q ∈ o.parts.set i { p with done := true }, q.done = true ∧ q.sysDone = true) :
    ∃ u, s.ackPart o i p = State.delOp u o.id := by
  unfold State.ackPart
  extract_lets p' o' t u ends v x w
  rw [if_pos (List.all_eq_true.2 fun q hq => (h q hq).1), if_pos (List.all_eq_true.2 fun q hq => (h q hq).2)]
  exact ⟨_, rfl⟩

theorem State.op?_delOp_self (s : State) (i : Nat) : (s.delOp i).op? i = none := by
  simp [State.op?, State.delOp]

/-- A number that an update of the operations leaves alone is looked up as before. -/
theorem State.op?_of_ops {s t : State} (h : t.ops = s.ops) (i : Nat) : t.op? i = s.op? i := by
  rw [State.op?, h, State.op?]

/-- What the acknowledgement of part `k`, as it is in `x`, leaves of operation `o`: the part done while another is
open, and nothing once all of it is done and complete at system scope. -/
theorem State.op?_ackPart {s : State} {o x z : Op} {k : Nat} {y p : Part} (hz : s.op? x.id = some z)
    (hy : o.parts[k]? = some y) (hx : x.parts = o.parts.set k p) (hp : p.sysDone = y.sysDone) :
    ((∃ (j : Nat) (z : Part), j ≠ k ∧ o.parts[j]? = some z ∧ z.done = false) →
      ∃ u, (s.ackPart x k p).op? x.id = some u ∧ (∃ z, u.parts[k]? = some z ∧ z.done = true) ∧
        ∀ j, j ≠ k → u.parts[j]? = o.parts[j]?) ∧
    ((∀ (j : Nat) (z : Part), o.parts[j]? = some z → (j = k ∨ z.done = true) ∧ z.sysDone = true) →
      (s.ackPart x k p).op? x.id = none) := by
  have hk := (List.getElem?_eq_some_iff.1 hy).1
  have hset : x.parts.set k { p with done := true } = o.parts.set k { p with done := true } := by
    rw [hx, List.set_set]
  have hself := List.getElem?_set_self (a := ({ p with done := true } : Part)) hk
  have hother : ∀ j, j ≠ k → (o.parts.set k { p with done := true })[j]? = o.parts[j]? :=
    fun j hj => List.getElem?_set_ne (Ne.symm hj)
  constructor
  · rintro ⟨j, z', hj, hz', hd⟩
    have hopen : ¬∀ q ∈ x.parts.set k { p with done := true }, q.done = true := by
      rw [hset]
      exact fun hall => Bool.eq_false_iff.1 hd (hall z' (List.mem_of_getElem? ((hother j hj).trans hz')))
    obtain ⟨u, x', ht, hu, hid, hparts⟩ := State.ackPart_open (s := s) hopen
    refine ⟨x', ?_, ?_, ?_⟩
    · rw [ht, ← hid]
      exact State.op?_putOp_self (x := z) (by rw [hid, State.op?_of_ops hu, hz])
    · rw [hparts, hset]
      exact ⟨_, hself, rfl⟩
    · rwa [hparts, hset]
  · intro h
    have hlast : ∀ q ∈ x.parts.set k { p with done := true }, q.done = true ∧ q.sysDone = true := by
      rw [hset]
      intro q hq
      obtain ⟨j, hj⟩ := List.mem_iff_getElem?.1 hq
      by_cases hjk : j = k
      · subst hjk
        obtain rfl := Option.some.inj (hself.symm.trans hj)
        exact ⟨rfl, hp.trans (h j y hy).2⟩
      · obtain ⟨hd, hs⟩ := h j q ((hother j hjk).symm.trans hj)
        exact ⟨hd.resolve_left hjk, hs⟩
    obtain ⟨u, ht⟩ := State.ackPart_last (s := s) hlast
    rw [ht, State.op?_delOp_self]

theorem State.partReplied_of_back {s : State} {o : Op} {n k : Nat} (hid : o.id = n)
    (hback : ∀ r ∈ s.reqs, r.op = n → r.slice = 96 → k ∈ r.parts → r.back = true) : s.partReplied o k = true := by
  subst hid
  refine List.all_eq_true.2 fun r hr => ?_
  by_contra hn
  simp only [Bool.or_eq_true, bne_iff_ne, ne_eq, Bool.not_eq_true', List.contains_eq_mem, decide_eq_false_iff_not,
    not_or, not_not] at hn
  obtain ⟨⟨⟨hop, hs⟩, hm⟩, hb⟩ := hn
  exact hb (hback r hr hop hs hm)

section
variable {s : State} {n k : Nat} {o : Op} {y : Part} (ho : s.op? n = some o) (hk : o.kind = .store)
  (hy : o.parts[k]? = some y) (hd : y.done = false)
  (hback : ∀ r ∈ s.reqs, r.op = n → r.slice = 96 → k ∈ r.parts → r.back = true) (hturn : s.ackTurn o k y = true)
include ho hk hy hd hback hturn

/-- The acknowledgement of a store's part that its home has applied. -/
theorem execStoreAck_applied (hg : y.got.isSome = true) : exec (.storeAck n k) s = .next (s.ackPart o k y) := by
  have hopen : o.parts.all (·.done) = false :=
    List.all_eq_false.2 ⟨y, List.mem_of_getElem? hy, Bool.eq_false_iff.1 hd⟩
  have hrep := State.partReplied_of_back (State.op?_id ho) hback
  show execStoreAck n k s = _
  simp only [execStoreAck, ho, hy]
  simp [hk, OpKind.acked, hd, hrep, hturn, hopen, hg]

/-- The acknowledgement of a store's part in scratch SRAM, which applies it (log 11). -/
theorem execStoreAck_bank (hg : y.got = none) (hv : y.via = .bank) (hf : s.partFree o y = true) :
    exec (.storeAck n k) s = .next (((s.perform o.kind y).1.putOp
      { o with parts := o.parts.set k (s.perform o.kind y).2 }).ackPart
        { o with parts := o.parts.set k (s.perform o.kind y).2 } k (s.perform o.kind y).2) := by
  have hopen : o.parts.all (·.done) = false :=
    List.all_eq_false.2 ⟨y, List.mem_of_getElem? hy, Bool.eq_false_iff.1 hd⟩
  have hrep := State.partReplied_of_back (State.op?_id ho) hback
  have hl := (List.getElem?_eq_some_iff.1 hy).1
  show execStoreAck n k s = _
  simp only [execStoreAck, ho, hy]
  simp [hk, OpKind.acked, hd, hrep, hturn, hopen, hg, hv, hf, State.performParts_one hy hg hd, hl]

/-- The acknowledgement of a store's part writes its bytes where its home has not applied them, and ends the part. -/
theorem execStoreAck_acks (hb : y.got = none → y.via = .bank ∧ s.partFree o y = true) :
    ∃ t, exec (.storeAck n k) s = .next t ∧ (y.got = none → WroteBytes s t y.key y.size y.b) ∧
      (y.got.isSome = true → t.mem = s.mem) ∧
      ((∃ (j : Nat) (z : Part), j ≠ k ∧ o.parts[j]? = some z ∧ z.done = false) → ∃ x, t.op? n = some x ∧
        (∃ z, x.parts[k]? = some z ∧ z.done = true) ∧ ∀ j, j ≠ k → x.parts[j]? = o.parts[j]?) ∧
      ((∀ (j : Nat) (z : Part), o.parts[j]? = some z → (j = k ∨ z.done = true) ∧ z.sysDone = true) →
        t.op? n = none) := by
  have hid := State.op?_id ho
  cases hg : y.got with
  | some v =>
    have hs : y.got.isSome = true := by rw [hg]; rfl
    refine ⟨_, execStoreAck_applied ho hk hy hd hback hturn hs, nofun,
      fun _ => s.ackPart_mem o k y, ?_⟩
    subst hid
    obtain ⟨hl, he⟩ := List.getElem?_eq_some_iff.1 hy
    exact State.op?_ackPart ho hy (by rw [← he, List.set_getElem_self]) rfl
  | none =>
    obtain ⟨hv, hf⟩ := hb hg
    refine ⟨_, execStoreAck_bank ho hk hy hd hback hturn hg hv hf, fun _ => ?_, nofun, ?_⟩
    · rw [hk]
      exact (WroteBytes.applyStore { s with nextId := s.nextId + 1 } y.who y.key y.size y.b).of_mem rfl
        (State.ackPart_mem ..)
    · subst hid
      refine State.op?_ackPart (x := { o with parts := o.parts.set k (s.perform o.kind y).2 }) (z := _)
        (State.op?_putOp_self ((State.op?_of_ops (s.perform_ops o.kind y) o.id).trans ho)) hy rfl ?_
      rw [hk]
      rfl

end

/-! ### The parts of a load performed (R77, R82) -/

/-- What a part gives its lane's value: the lane, the place in it, and what was read. -/
def Part.datum (y : Part) : Nat × Nat × Option Nat := (y.lane, y.idx, y.got)

/-- A part that `sel` selects, as it is once storage has given it its bytes. -/
def State.readIf (s : State) (sel : Bool) (y : Part) : Part := if sel && !y.done then s.readPart y else y

theorem State.readIf_of_mem {s t : State} (h : t.mem = s.mem) (sel : Bool) (y : Part) :
    t.readIf sel y = s.readIf sel y := by
  unfold State.readIf State.readPart
  rw [State.read_of_mem h]

/-- A part that is not selected, or has its bytes, stays as it is. -/
theorem State.readIf_of_not {s : State} {sel : Bool} {y : Part} (h : ¬(sel && y.got.isNone && !y.done) = true) :
    s.readIf sel y = y := by
  unfold State.readIf State.readPart
  split
  · next hs => exact if_pos (by cases hg : y.got <;> simp_all)
  · rfl

theorem foldl_performStep_load {d : Dest} {c : List TileRef} {f : Nat → Part → Bool} (xs : List (Part × Nat)) :
    ∀ (s : State) (ps : List Part), ∃ m qs, xs.foldl (performStep (.load d c) f) (s, ps) =
      ({ s with nextId := m }, ps ++ qs) ∧ qs.map Part.datum = xs.map fun x => (s.readIf (f x.2 x.1) x.1).datum := by
  induction xs with
  | nil => exact fun s ps => ⟨s.nextId, [], by simp, rfl⟩
  | cons x xs ih =>
    intro s ps
    have hstep : ∃ m z, performStep (.load d c) f (s, ps) x = ({ s with nextId := m }, ps ++ [z]) ∧
        z.datum = (s.readIf (f x.2 x.1) x.1).datum := by
      by_cases h : (f x.2 x.1 && x.1.got.isNone && !x.1.done) = true
      · refine ⟨s.nextId + 1, _, if_pos h, ?_⟩
        obtain ⟨⟨hf, hg⟩, hd⟩ : (f x.2 x.1 = true ∧ x.1.got = none) ∧ x.1.done = false := by simpa using h
        have hr := State.read_of_mem (s := s) (t := { s with nextId := s.nextId + 1 }) rfl x.1.key x.1.size
        simp [State.perform, State.readIf, State.readPart, Part.datum, hf, hg, hd, hr]
      · exact ⟨s.nextId, x.1, if_neg h, by rw [State.readIf_of_not h]⟩
    obtain ⟨m, z, hz, hzd⟩ := hstep
    obtain ⟨k, qs, hq, hqd⟩ := ih { s with nextId := m } (ps ++ [z])
    refine ⟨k, z :: qs, ?_, ?_⟩
    · rw [List.foldl_cons, hz, hq]
      simp
    · simp [hzd, hqd, State.readIf_of_mem (s := s) (t := { s with nextId := m }) rfl]

/-- A load's parts are read: storage gives those that `f` selects their bytes, and nothing but the order number
moves. -/
theorem State.performParts_load (s : State) {o : Op} {d : Dest} {c : List TileRef} (hk : o.kind = .load d c)
    (f : Nat → Part → Bool) : ∃ m ps, s.performParts o f = ({ s with nextId := m }, { o with parts := ps }) ∧
      ps.map Part.datum = o.parts.zipIdx.map fun x => (s.readIf (f x.2 x.1) x.1).datum := by
  obtain ⟨m, ps, h, hd⟩ := foldl_performStep_load (d := d) (c := c) (f := f) o.parts.zipIdx s []
  refine ⟨m, ps, ?_, hd⟩
  rw [State.performParts_eq, hk, h]
  rfl

/-! ### A line written back leaves a load in flight (R62) -/

theorem State.performParts_ops (s : State) (o : Op) (f : Nat → Part → Bool) : (s.performParts o f).1.ops = s.ops := by
  have fold : ∀ (xs : List (Part × Nat)) (acc : State × List Part),
      (xs.foldl (performStep o.kind f) acc).1.ops = acc.1.ops := by
    intro xs
    induction xs with
    | nil => exact fun _ => rfl
    | cons x xs ih =>
      refine fun acc => (ih _).trans ?_
      unfold performStep
      split
      · exact acc.1.perform_ops o.kind x.1
      · rfl
  exact fold o.parts.zipIdx (s, [])

theorem State.op?_putOp_ne {s : State} {o : Op} {k : Nat} (h : k ≠ o.id) : (s.putOp o).op? k = s.op? k := by
  refine (find?_mapKey Op.id o.id k o rfl s.ops).trans ?_
  show (s.op? k).map _ = s.op? k
  cases hx : s.op? k with
  | none => rfl
  | some x =>
    have hne : x.id ≠ o.id := State.op?_id hx ▸ h
    simp [hne]

theorem State.op?_addOp {s : State} {k : Nat} {x : Op} (o : Op) (leases : List Nat) (h : s.op? k = some x) :
    (s.addOp o leases).op? k = some x := by
  show (s.ops ++ [o]).find? _ = some x
  rw [List.find?_append, show s.ops.find? (fun y => y.id == k) = some x from h]
  rfl

/-- What the L1 does with a served line: nothing, the private words of the line put in place, or a line installed,
with a record of its expiry where it is a lease. -/
theorem State.keepLine_cases (s : State) (r : Req) (ctx kid stamp : Nat) :
    s.keepLine r ctx kid stamp = s ∨ (∃ l, s.keepLine r ctx kid stamp = s.setL1 l) ∨
      ∃ l e, l.cluster = r.cluster ∧ l.core = r.core ∧ l.line = r.line ∧
        s.keepLine r ctx kid stamp = { s.installL1 l with expiry := e } := by
  unfold State.keepLine
  extract_lets old fresh
  split
  · exact .inl rfl
  · split
    · cases old with
      | some l => exact .inr (.inl ⟨_, rfl⟩)
      | none => exact .inr (.inr ⟨_, _, rfl, rfl, rfl, rfl⟩)
    · split
      · exact .inl rfl
      · split
        · exact .inr (.inr ⟨fresh, _, rfl, rfl, rfl, rfl⟩)
        · split
          · exact .inl rfl
          · exact .inr (.inr ⟨_, _, rfl, rfl, rfl, rfl⟩)

/-- Operation `k` of `s` is `x`, and no write-back bears its number. -/
def State.Holds (s : State) (k : Nat) (x : Op) : Prop :=
  s.op? k = some x ∧ ∀ y ∈ s.ops, y.id = k → y.kind ≠ .writeback

theorem State.Holds.of_ops {s t : State} {k : Nat} {x : Op} (h : s.Holds k x) (ht : t.ops = s.ops) : t.Holds k x := by
  obtain ⟨hx, hw⟩ := h
  exact ⟨(State.op?_of_ops ht k).trans hx, by rwa [ht]⟩

/-- An operation put in its place is what its number names; a load is no write-back. -/
theorem State.Holds.putOp {s : State} {o x : Op} (hx : s.op? o.id = some x) (hk : o.kind ≠ .writeback) :
    (s.putOp o).Holds o.id o := by
  refine ⟨State.op?_putOp_self hx, fun y hy hid => ?_⟩
  obtain ⟨z, -, rfl⟩ := List.mem_map.1 hy
  by_cases hz : z.id = o.id
  · simpa [hz] using hk
  · simp [hz] at hid

section
variable {s : State} {k : Nat} {x : Op} (h : s.Holds k x)
include h

theorem State.Holds.pullBacks (cluster core key n : Nat) : (s.pullBacks cluster core key n).op? k = some x := by
  obtain ⟨hx, hw⟩ := h
  have fold : ∀ (l : List Op) (t : State), (∀ y ∈ l, k ≠ y.id) → t.op? k = some x →
      (l.foldl (fun (t : State) o => (t.performParts o fun _ p => overlap key n p.key p.size).1.putOp
        (t.performParts o fun _ p => overlap key n p.key p.size).2) t).op? k = some x := by
    intro l
    induction l with
    | nil => exact fun _ _ h => h
    | cons y l ih =>
      refine fun t hl ht => ih _ (fun z hz => hl z (List.mem_cons_of_mem y hz)) ?_
      exact (State.op?_putOp_ne (o := (t.performParts y _).2) (hl y List.mem_cons_self)).trans
        ((State.op?_of_ops (t.performParts_ops y _) k).trans ht)
  refine fold _ s (fun y hy hid => ?_) hx
  obtain ⟨hm, hy⟩ := List.mem_filter.1 hy
  exact hw y hm hid.symm (by simpa using (Bool.and_eq_true_iff.1 (Bool.and_eq_true_iff.1 hy).1).1)

theorem State.Holds.writeBack (l : L1Line) (who : Nat → Owner) (mask : Nat) :
    (s.writeBack l who mask).op? k = some x := by
  unfold State.writeBack
  extract_lets parts back t rest
  have ht : t.op? k = some x := by
    unfold t
    split
    · exact h.1
    · exact State.op?_addOp _ _ (h.pullBacks ..)
  split <;> exact ht

theorem State.Holds.evictLine (l : L1Line) : (s.evictLine l).op? k = some x := by
  unfold State.evictLine
  split
  · exact h.writeBack l _ _
  · exact h.1

theorem State.Holds.installL1 (l : L1Line) : (s.installL1 l).op? k = some x := by
  unfold State.installL1
  split
  · exact (apply_ite (fun t : State => t.op? k) ..).trans (by split; exacts [h.1, h.evictLine _])
  · split
    · exact (apply_ite (fun t : State => t.op? k) ..).trans (by split; exacts [h.evictLine _, h.1])
    · exact h.1

theorem State.Holds.keepLine (r : Req) (ctx kid stamp : Nat) : (s.keepLine r ctx kid stamp).op? k = some x := by
  rcases s.keepLine_cases r ctx kid stamp with hr | ⟨l, hr⟩ | ⟨l, e, -, -, -, hr⟩ <;> rw [hr]
  · exact h.1
  · exact h.1
  · exact h.installL1 l

end

/-! ### A line brought into an L1 (R21, R62, R79) -/

/-- Where the L1 has room, a line is put in place and nothing is written back. -/
theorem State.installL1_room {s : State} {l : L1Line} (h : s.l1Room l.cluster l.core l.line) :
    s.installL1 l = s.setL1 l := by
  obtain ⟨hroom, hclean⟩ := h
  unfold State.installL1
  split
  · next old hold => exact if_pos (by simp [hclean old hold])
  · split
    · next first rest he =>
      rw [he, List.length_cons] at hroom
      exact if_neg (by omega)
    · rfl

theorem State.keepLine_mem {s : State} {r : Req} (ctx kid stamp : Nat) (h : s.l1Room r.cluster r.core r.line) :
    (s.keepLine r ctx kid stamp).mem = s.mem := by
  rcases s.keepLine_cases r ctx kid stamp with hr | ⟨l, hr⟩ | ⟨l, e, hcluster, hcore, hline, hr⟩ <;> rw [hr]
  · rfl
  · show (s.installL1 l).mem = s.mem
    rw [State.installL1_room (by rwa [hcluster, hcore, hline])]
    rfl

/-- A line that was put in place stands there. -/
theorem State.l1?_setL1 (s : State) (l : L1Line) : (s.setL1 l).l1? l.cluster l.core l.line = some l :=
  find?_upsert_self (by simp) s.l1

theorem State.l1?_installL1 (s : State) (l : L1Line) :
    (s.installL1 l).l1? l.cluster l.core l.line = some l := by
  have put : ∃ t : State, s.installL1 l = t.setL1 l := by
    unfold State.installL1
    (repeat' split) <;> exact ⟨_, rfl⟩
  obtain ⟨t, ht⟩ := put
  rw [ht, State.l1?_setL1]

theorem State.get_lineBytes (s : State) (line : Nat) {k : Nat} (hk : k < 128) :
    SMap.get 0 (s.lineBytes line) k = s.byte (line + k) := by
  have fold : ∀ n, SMap.get 0 ((List.range n).foldl (fun m k => SMap.set 0 m k (s.byte (line + k))) []) k =
      if k < n then s.byte (line + k) else 0 := by
    intro n
    induction n with
    | zero => rfl
    | succ n ih =>
      rw [List.range_succ, List.foldl_append, List.foldl_cons, List.foldl_nil, SMap.get_set, ih]
      by_cases h : k = n
      · simp [h]
      · rw [if_neg h]
        exact if_congr (by omega) rfl rfl
  exact (fold 128).trans (if_pos hk)

/-- A line of local storage served with a lease, where the core has none there, is installed as a copy granted now,
and the line's expiry record covers the lease (R79, R80). -/
theorem State.keepLine_leased {s : State} {r : Req} {ns : Nat} (ctx kid stamp : Nat) (hns : leaseTime r.lease = some ns)
    (hline : r.line < 2 ^ 49) (hnone : s.l1? r.cluster r.core r.line = none) :
    ∃ l e, s.keepLine r ctx kid stamp =
        { s.installL1 l with expiry := (s.installL1 l).expiry.put r.line e } ∧
      (l.cluster = r.cluster ∧ l.core = r.core ∧ l.line = r.line) ∧ l.kind = .leased (s.time + ns) s.time ∧
      l.bytes = s.lineBytes r.line ∧ s.time + ns ≤ e := by
  have h8 : r.lease ≠ 8 := fun h => by rw [h] at hns; cases hns
  have h6 : r.lease ≠ 6 := fun h => by rw [h] at hns; cases hns
  have hne : ¬r.line ≥ 2 ^ 49 := by omega
  unfold State.keepLine
  simp only [hne, h8, h6, hnone, hns, if_false, Option.filter_none, Option.isSome_none, Bool.false_eq_true]
  exact ⟨_, _, rfl, ⟨rfl, rfl, rfl⟩, rfl, rfl, Nat.le_max_left ..⟩

/-- It stands in the L1 with the line's bytes until the lease ends. -/
theorem State.keepLine_grants {s : State} {r : Req} {ns : Nat} (ctx kid stamp : Nat) (hns : leaseTime r.lease = some ns)
    (hline : r.line < 2 ^ 49) (hnone : s.l1? r.cluster r.core r.line = none) :
    (∃ l, (s.keepLine r ctx kid stamp).l1? r.cluster r.core r.line = some l ∧ l.kind = .leased (s.time + ns) s.time ∧
      ∀ k, k < 128 → SMap.get 0 l.bytes k = s.byte (r.line + k)) ∧
    ∃ e, (s.keepLine r ctx kid stamp).expiry.find? r.line = some e ∧ s.time + ns ≤ e := by
  obtain ⟨l, e, ht, ⟨hcluster, hcore, hplace⟩, hkind, hbytes, he⟩ :=
    State.keepLine_leased ctx kid stamp hns hline hnone
  rw [ht]
  refine ⟨⟨l, ?_, hkind, fun k hk => ?_⟩, e, SMap.find?_put_self .., he⟩
  · rw [← hcluster, ← hcore, ← hplace]
    exact s.l1?_installL1 l
  · rw [hbytes, State.get_lineBytes s r.line hk]

/-! ### A load request served (R77, R79, R82) -/

section
variable {s : State} {n : Nat} {q : Req} {o : Op} {d : Dest} {c : List TileRef} (hq : s.req? n = some q)
  (hsent : q.sent = true) (hs : q.slice < 96) (ho : s.op? q.op = some o) (hk : o.kind = .load d c)
  (hopen : ∃ i ∈ q.parts, ∃ y, o.parts[i]? = some y ∧ y.got = none)
  (hfree : ∀ i ∈ q.parts, ∀ y, o.parts[i]? = some y → y.done = false ∧ s.partFree o y = true)
  (hback : q.lease = 8 → s.backsDone q.cluster q.core q.line = true)
include hq hsent hs ho hk hopen hfree hback

/-- The slice reads the request's parts, and the core's L1 may keep the line. -/
theorem execSliceLoad_reads : ∃ (u : State) (ps : List Part) (stamp : Nat),
    exec (.sliceLoad n none) s = .next ((u.putOp { o with parts := ps }).keepLine q o.ctx o.kid stamp) ∧
    u.ops = s.ops ∧ u.mem = s.mem ∧ u.l1 = s.l1 ∧ u.time = s.time ∧
    ps.map Part.datum = o.parts.zipIdx.map fun x => (s.readIf (q.parts.contains x.2) x.1).datum := by
  obtain ⟨i, hi, y, hy, hg⟩ := hopen
  obtain ⟨l, hl⟩ := s.releaseIngress_eq q.line
  obtain ⟨m, ps, hp, hd⟩ := State.performParts_load { s with links := l } hk fun i _ => q.parts.contains i
  refine ⟨{ s with links := l, nextId := m + 1 }, ps, m, ?_, rfl, rfl, rfl, rfl, ?_⟩
  · show execSliceLoad n none s = _
    unfold execSliceLoad
    rw [hq]
    dsimp only
    rw [ho]
    dsimp only
    refine (if_neg ?_).trans ?_
    · rw [hsent]
      simp only [Bool.not_true, Bool.false_or, Bool.or_eq_true, decide_eq_true_eq, not_or, Bool.not_eq_true',
        Bool.not_eq_false, List.any_eq_true]
      exact ⟨by omega, i, hi, by simp [hy, hg]⟩
    · rw [hk] at hp ⊢
      simp only [State.dropRecord, hl, hp]
      refine (if_neg ?_).trans rfl
      simp only [Bool.not_eq_true', Bool.not_eq_false, Bool.and_eq_true, List.all_eq_true]
      refine ⟨fun j hj => ?_, ?_⟩
      · cases hz : o.parts[j]? with
        | none => rfl
        | some z => exact (hfree j hj z hz).2
      · by_cases h : q.lease = 8
        · exact Bool.or_eq_true_iff.2 (.inr (hback h))
        · simp [h]
  · simp only [hd, State.readIf_of_mem (s := s) (t := { s with links := l }) rfl]

end

/-- Where two lists of parts give the same data, the data of a place are the same. -/
theorem getElem?_got_of_datum {ps qs : List Part} {f : Part × Nat → Part}
    (h : ps.map Part.datum = qs.zipIdx.map fun x => (f x).datum) {i : Nat} {y : Part} (hy : qs[i]? = some y) :
    ∃ z, ps[i]? = some z ∧ z.got = (f (y, i)).got := by
  have hi : (ps.map Part.datum)[i]? = some (f (y, i)).datum := by
    rw [h, List.getElem?_map, List.getElem?_zipIdx, hy]
    simp
  rw [List.getElem?_map] at hi
  obtain ⟨z, hz, hd⟩ := Option.map_eq_some_iff.1 hi
  exact ⟨z, hz, congrArg (fun d : Nat × Nat × Option Nat => d.2.2) hd⟩

section
variable {s : State} {n : Nat} {q : Req} {o : Op} {d : Dest} {c : List TileRef} (hq : s.req? n = some q)
  (hsent : q.sent = true) (hs : q.slice < 96) (ho : s.op? q.op = some o) (hk : o.kind = .load d c)
  (hopen : ∃ i ∈ q.parts, ∃ y, o.parts[i]? = some y ∧ y.got = none)
  (hfree : ∀ i ∈ q.parts, ∀ y, o.parts[i]? = some y → y.done = false ∧ s.partFree o y = true)
  (hback : q.lease = 8 → s.backsDone q.cluster q.core q.line = true)
include hq hsent hs ho hk hopen hfree hback

/-- A slice serves a load with the bytes of its line; storage changes only where a full L1 writes back, and a lease
stands in the L1 and in the line's expiry record (R77, R79, R82). -/
theorem execSliceLoad_served : ∃ t x, exec (.sliceLoad n none) s = .next t ∧ t.op? q.op = some x ∧ x.kind = o.kind ∧
    (s.l1Room q.cluster q.core q.line → t.mem = s.mem) ∧
    (∀ (i : Nat) (y : Part), o.parts[i]? = some y → ∃ z, x.parts[i]? = some z ∧
      z.got = if i ∈ q.parts then (s.readPart y).got else y.got) ∧
    (∀ ns, leaseTime q.lease = some ns → q.line < 2 ^ 49 → s.l1? q.cluster q.core q.line = none →
      (∃ l, t.l1? q.cluster q.core q.line = some l ∧ l.kind = .leased (s.time + ns) s.time ∧
        ∀ k, k < 128 → SMap.get 0 l.bytes k = s.byte (q.line + k)) ∧
      ∃ e, t.expiry.find? q.line = some e ∧ s.time + ns ≤ e) := by
  obtain ⟨u, ps, stamp, ht, hops, hmem, hl1, htime, hps⟩ := execSliceLoad_reads hq hsent hs ho hk hopen hfree hback
  have hid : o.id = q.op := State.op?_id ho
  have holds : (u.putOp { o with parts := ps }).Holds q.op { o with parts := ps } := by
    have hu : u.op? o.id = some o := by rw [hid, State.op?_of_ops hops, ho]
    exact hid ▸ State.Holds.putOp (o := { o with parts := ps }) hu (by simp [hk])
  refine ⟨_, _, ht, holds.keepLine q o.ctx o.kid stamp, rfl, fun hroom => ?_, fun i y hy => ?_, fun ns hns hline hnone => ?_⟩
  · have hput : (u.putOp { o with parts := ps }).l1Room q.cluster q.core q.line := by
      unfold State.l1Room State.l1? at hroom ⊢
      rwa [show (u.putOp { o with parts := ps }).l1 = s.l1 from hl1]
    exact (State.keepLine_mem _ _ _ hput).trans hmem
  · obtain ⟨z, hz, hgot⟩ := getElem?_got_of_datum hps hy
    refine ⟨z, hz, hgot.trans ?_⟩
    unfold State.readIf
    by_cases hi : i ∈ q.parts
    · simp [hi, (hfree i hi y hy).1]
    · simp [hi]
  · have hnone' : (u.putOp { o with parts := ps }).l1? q.cluster q.core q.line = none := by
      unfold State.l1? at hnone ⊢
      rwa [show (u.putOp { o with parts := ps }).l1 = s.l1 from hl1]
    obtain ⟨⟨l, hl, hkind, hbytes⟩, e, he, hle⟩ := State.keepLine_grants o.ctx o.kid stamp hns hline hnone'
    rw [show (u.putOp { o with parts := ps }).time = s.time from htime] at hkind hle
    refine ⟨⟨l, hl, hkind, fun k hk => (hbytes k hk).trans ?_⟩, e, he, hle⟩
    exact State.byte_congr hmem _

end

/-! ### A loaded value in its registers (R169) -/

/-- A value of fewer than 32 bits as its register word: the two ways to write its extension agree. -/
theorem ofNat_extend (w v : Nat) (sext : Bool) (h0 : 0 < w) (h4 : w < 4) :
    BitVec.ofNat 32 (if sext ∧ v % 256 ^ w ≥ 256 ^ w / 2 then v % 256 ^ w + 2 ^ 32 - 256 ^ w else v % 256 ^ w) =
      if sext then (BitVec.ofNat (8 * w) v).signExtend 32 else (BitVec.ofNat (8 * w) v).zeroExtend 32 := by
  apply BitVec.eq_of_toNat_eq
  cases sext with
  | false =>
    interval_cases w <;> simp
  | true =>
    interval_cases w <;> simp [BitVec.toNat_signExtend, BitVec.msb_eq_decide] <;> split <;> omega

/-- A lane's value goes word by word into the run of registers. -/
theorem Dest.write_eq {d : Dest} (hw : 0 < d.width) (g : Group) (lane v : Nat) : d.write g lane v =
    (List.range d.regs).foldl (fun g i => g.setReg (d.reg + i) lane (d.word v i)) g := by
  unfold Dest.write Dest.word
  by_cases h : d.regs = 1 ∧ d.width < 4
  · simp only [if_pos h]
    rw [h.1, ofNat_extend d.width v d.sext hw h.2]
    rfl
  · simp only [if_neg h]

theorem Group.reg_foldl_setReg (r lane : Nat) (f : Nat → Word) (hlane : lane < 32) {c l : Nat} (hl : l < 32)
    (g : Group) (n : Nat) : ((List.range n).foldl (fun g i => g.setReg (r + i) lane (f i)) g).reg c l =
      if r ≤ c ∧ c < r + n ∧ (c < 192 → l = lane) then f (c - r) else g.reg c l := by
  induction n with
  | zero => rw [if_neg (by omega)]; rfl
  | succ n ih =>
    rw [List.range_succ, List.foldl_append, List.foldl_cons, List.foldl_nil, Group.reg_setReg _ _ _ _ _ _ hlane hl, ih]
    by_cases h : c = r + n
    · subst h
      rw [if_neg (by omega : ¬(r ≤ r + n ∧ r + n < r + n ∧ (r + n < 192 → l = lane)))]
      exact if_congr (by simp) (by simp) rfl
    · rw [if_neg (by tauto)]
      exact if_congr (by omega) rfl rfl

/-- What a lane's write leaves: its words in the run, in the lane alone where the registers are vector ones. -/
theorem Dest.reg_write {d : Dest} (hw : 0 < d.width) (g : Group) {lane l : Nat} (v c : Nat) (hlane : lane < 32)
    (hl : l < 32) : (d.write g lane v).reg c l =
      if d.reg ≤ c ∧ c < d.reg + d.regs ∧ (c < 192 → l = lane) then d.word v (c - d.reg) else g.reg c l := by
  rw [Dest.write_eq hw, Group.reg_foldl_setReg _ _ _ hlane hl]

/-- The lanes of `ls` written: a lane's register holds its own value's word. -/
theorem Dest.reg_foldl_write {d : Dest} (hw : 0 < d.width) (f : Nat → Nat) {k l : Nat} (hk : k < d.regs) (hl : l < 32)
    (ls : List Nat) : ∀ g : Group, (∀ a ∈ ls, a < 32) → (d.reg + k < 192 ∨ ∀ a ∈ ls, a = l) →
      (ls.foldl (fun g a => d.write g a (f a)) g).reg (d.reg + k) l =
        if l ∈ ls then d.word (f l) k else g.reg (d.reg + k) l := by
  induction ls with
  | nil => exact fun _ _ _ => rfl
  | cons a ls ih =>
    intro g hls hfile
    rw [List.foldl_cons, ih _ (fun b hb => hls b (List.mem_cons_of_mem a hb))
      (hfile.imp_right fun h b hb => h b (List.mem_cons_of_mem a hb)), Dest.reg_write hw _ _ _ (hls a (by simp)) hl]
    by_cases ha : l = a
    · simp [ha, hk]
    · have hc : ¬(d.reg + k < 192 → l = a) := fun h => ha (hfile.elim h fun h => (h a (by simp)).symm)
      have hno : ¬(d.reg ≤ d.reg + k ∧ d.reg + k < d.reg + d.regs ∧ (d.reg + k < 192 → l = a)) := fun h => hc h.2.2
      rw [if_neg hno]
      simp [ha]

/-- No other register changes, and of a vector register no other lane. -/
theorem Dest.reg_foldl_write_other {d : Dest} (hw : 0 < d.width) (f : Nat → Nat) {c l : Nat} (hl : l < 32)
    (ls : List Nat) : ∀ g : Group, (∀ a ∈ ls, a < 32) → (c < d.reg ∨ d.reg + d.regs ≤ c ∨ (c < 192 ∧ l ∉ ls)) →
      (ls.foldl (fun g a => d.write g a (f a)) g).reg c l = g.reg c l := by
  induction ls with
  | nil => exact fun _ _ _ => rfl
  | cons a ls ih =>
    intro g hls hout
    have hrest : c < d.reg ∨ d.reg + d.regs ≤ c ∨ (c < 192 ∧ l ∉ ls) :=
      hout.imp_right (.imp_right fun h => ⟨h.1, fun hm => h.2 (List.mem_cons_of_mem a hm)⟩)
    rw [List.foldl_cons, ih _ (fun b hb => hls b (List.mem_cons_of_mem a hb)) hrest,
      Dest.reg_write hw _ _ _ (hls a (by simp)) hl, if_neg]
    rintro ⟨hlo, hhi, hlane⟩
    rcases hout with h | h | ⟨hv, hl⟩
    · omega
    · omega
    · exact hl (hlane hv ▸ List.mem_cons_self)

theorem Dest.laneList_lt {d : Dest} {l : Nat} (h : l ∈ d.laneList) : l < 32 := by
  unfold Dest.laneList at h
  split at h
  · simp_all
  · exact lanesOf_lt h

/-- A destination of the encodings has vector registers, or lane 0 for all. -/
theorem Dest.ok.file {d : Dest} (hd : d.ok) {k l : Nat} (hk : k < d.regs) (hl : l ∈ d.laneList) :
    d.reg + k < 192 ∨ ∀ a ∈ d.laneList, a = l := by
  obtain ⟨-, ⟨hg, -, -⟩ | ⟨-, hfile⟩⟩ := hd
  · simp_all [Dest.laneList]
  · exact .inl (by omega)

theorem Dest.reg_writeAll {d : Dest} (hd : d.ok) (g : Group) (ps : List Part) {k l : Nat} (hk : k < d.regs)
    (hl : l ∈ d.laneList) : (d.writeAll g ps).reg (d.reg + k) l = d.word (laneValue ps l) k :=
  (Dest.reg_foldl_write hd.1 (laneValue ps) hk (Dest.laneList_lt hl) _ g (fun _ => Dest.laneList_lt)
    (hd.file hk hl)).trans (if_pos hl)

theorem Dest.reg_writeAll_other {d : Dest} (hd : d.ok) (g : Group) (ps : List Part) {c l : Nat} (hl : l < 32)
    (h : c < d.reg ∨ d.reg + d.regs ≤ c ∨ (c < 192 ∧ l ∉ d.laneList)) :
    (d.writeAll g ps).reg c l = g.reg c l :=
  Dest.reg_foldl_write_other hd.1 (laneValue ps) hl _ g (fun _ => Dest.laneList_lt) h

theorem PredsSame.trans {a b c : Group} (h : PredsSame a b) (k : PredsSame b c) : PredsSame a c :=
  ⟨fun n => (k.p n).trans (h.p n), fun n => (k.q n).trans (h.q n)⟩

theorem PredsSame.foldl {α : Type} (f : Group → α → Group) (hf : ∀ g a, PredsSame g (f g a)) (xs : List α) (g : Group) :
    PredsSame g (xs.foldl f g) := by
  induction xs generalizing g with
  | nil => exact ⟨fun _ => rfl, fun _ => rfl⟩
  | cons x xs ih => exact (hf g x).trans (ih (f g x))

theorem Dest.predsSame_writeAll {d : Dest} (hw : 0 < d.width) (g : Group) (ps : List Part) :
    PredsSame g (d.writeAll g ps) := by
  refine PredsSame.foldl _ (fun g l => ?_) _ g
  rw [Dest.write_eq hw]
  exact PredsSame.foldl _ (fun g i => ⟨g.setReg_pred _ _ _, g.setReg_qpred _ _ _⟩) _ g

theorem Dest.onlyFile_writeAll {d : Dest} (hw : 0 < d.width) (g : Group) (ps : List Part) :
    OnlyFile g (d.writeAll g ps) := by
  refine OnlyFile.foldl _ (fun g l => ?_) _ g
  rw [Dest.write_eq hw]
  exact OnlyFile.foldl _ (fun g i => .setReg g _ _ _) _ g

/-- A lane's value depends on its parts' data alone. -/
theorem laneValue_congr {ps qs : List Part} (h : ps.map Part.datum = qs.map Part.datum) (l : Nat) :
    laneValue ps l = laneValue qs l := by
  have byDatum : ∀ xs : List Part, laneValue xs l = sumNat (((xs.map Part.datum).filter fun x => x.1 == l).map
      fun x => x.2.2.getD 0 * 256 ^ x.2.1) := by
    intro xs
    rw [List.filter_map, List.map_map]
    rfl
  rw [byDatum, byDatum, h]

/-! ### An access completes on its paths (R70) -/

theorem mem_of_mem_dropDone {f : Flight} (fs : List Flight) : ∀ busy, f ∈ dropDone fs busy → f ∈ fs := by
  induction fs with
  | nil => exact fun _ h => h
  | cons x fs ih =>
    intro busy h
    unfold dropDone at h
    split at h
    · exact List.mem_cons_of_mem x (ih _ h)
    · rcases List.mem_cons.1 h with rfl | h
      · exact List.mem_cons_self
      · exact List.mem_cons_of_mem x (ih _ h)

/-- What stands in a group's counters after a completion on one path stood there before, and has completed where it
is the access named. -/
theorem Group.complete_flights {g : Group} {op k : Nat} {f : Flight} (h : f ∈ (g.complete op k).flights) :
    (f.op = op → f.path = k → f.done = true) ∧
      ∃ x ∈ g.flights, f.op = x.op ∧ f.path = x.path ∧ (x.done = true → f.done = true) := by
  obtain ⟨x, hx, rfl⟩ := List.mem_map.1 (mem_of_mem_dropDone _ _ h)
  by_cases hm : x.op = op ∧ x.path = k
  · simp only [hm, beq_self_eq_true, Bool.and_self, if_true]
    exact ⟨fun _ _ => trivial, x, hx, hm.1.symm, hm.2.symm, fun _ => trivial⟩
  · have hm' : ¬(x.op == op && x.path == k) = true := by simpa using hm
    simp only [if_neg hm']
    exact ⟨fun ho hp => absurd ⟨ho, hp⟩ hm, x, hx, rfl, rfl, fun h => h⟩

/-- A completion on some paths leaves the counters with the access complete on them, and what else stood there. -/
theorem Group.completeAll_flights (op : Nat) (ks : List Nat) : ∀ (g : Group), ∀ f ∈ (g.completeAll op ks).flights,
    (f.op = op → f.path ∈ ks → f.done = true) ∧
      ∃ x ∈ g.flights, f.op = x.op ∧ f.path = x.path ∧ (x.done = true → f.done = true) := by
  induction ks with
  | nil => exact fun g f hf => ⟨fun _ h => absurd h (by simp), f, hf, rfl, rfl, fun h => h⟩
  | cons k ks ih =>
    intro g f hf
    obtain ⟨hrest, x, hx, hop, hpath, hdone⟩ := ih (g.complete op k) f hf
    obtain ⟨hk, y, hy, hop', hpath', hdone'⟩ := Group.complete_flights hx
    refine ⟨fun ho hp => ?_, y, hy, hop.trans hop', hpath.trans hpath', fun h => hdone (hdone' h)⟩
    rcases List.mem_cons.1 hp with hp | hp
    · exact hdone (hk (hop ▸ ho) (hpath ▸ hp))
    · exact hrest ho hp

/-- It changes nothing else of the group. -/
theorem Group.completeAll_eq (op : Nat) (ks : List Nat) : ∀ g : Group, ∃ fs,
    g.completeAll op ks = { g with flights := fs } := by
  induction ks with
  | nil => exact fun g => ⟨g.flights, rfl⟩
  | cons k ks ih => exact fun g => ih (g.complete op k)

theorem Group.completeAll_id (g : Group) (op : Nat) (ks : List Nat) : (g.completeAll op ks).id = g.id := by
  obtain ⟨fs, h⟩ := Group.completeAll_eq op ks g
  rw [h]

theorem FileSame.completeAll (g : Group) (op : Nat) (ks : List Nat) : FileSame g (g.completeAll op ks) := by
  obtain ⟨fs, h⟩ := Group.completeAll_eq op ks g
  rw [h]
  exact ⟨rfl, rfl, rfl, rfl⟩

theorem FileSame.settle (g : Group) (op : Nat) : FileSame g (g.settle op) := ⟨rfl, rfl, rfl, rfl⟩

theorem State.opGroup_some {s : State} {o : Op} {g : Group} (h : s.opGroup o = some g) :
    s.group? o.gid = some g ∧ g.gval = o.gval ∧ g.kid = o.kid := by
  unfold State.opGroup at h
  simpa using Option.filter_eq_some_iff.1 h

theorem State.opGroup_of_groups {s t : State} (h : t.groups = s.groups) (o : Op) : t.opGroup o = s.opGroup o := by
  rw [State.opGroup, State.group?_of_groups h, State.opGroup]

/-- An operation's group is still its own after an update that leaves what names it. -/
theorem State.opGroup_setGroup {s : State} {o : Op} {g h : Group} (hg : s.opGroup o = some g)
    (hh : SpecialSame g h) : (s.setGroup h).opGroup o = some h := by
  obtain ⟨hg, hval, hkid⟩ := State.opGroup_some hg
  have hid : o.gid = h.id := (State.group?_id hg).symm.trans hh.id.symm
  unfold State.opGroup
  rw [hid, State.group?_setGroup_self (g' := g) (hid ▸ hg)]
  simp [hh.gval, hh.kid, hval, hkid]

theorem State.group?_opGroup {s : State} {o : Op} {g : Group} (h : s.opGroup o = some g) : s.group? g.id = some g := by
  obtain ⟨hg, -, -⟩ := State.opGroup_some h
  rwa [State.group?_id hg]

/-! ### Delivery of a load (R70, R169) -/

@[simp] theorem State.updateCopy_groups (s : State) (o : Op) (p : Part) : (s.updateCopy o p).groups = s.groups := by
  unfold State.updateCopy
  split
  · rfl
  · split <;> rfl

@[simp] theorem State.updateCopies_groups (s : State) (o : Op) (ps : List Part) :
    (s.updateCopies o ps).groups = s.groups :=
  foldl_same State.groups (fun _ p => by
    split
    · split <;> simp
    · split <;> simp) ps s

@[simp] theorem State.releaseTiles_groups (s : State) (ts : List TileRef) : (s.releaseTiles ts).groups = s.groups :=
  foldl_same State.groups (fun _ _ => by simp) _ _

/-- No line comes from abroad to an operation whose requests all go to slices. -/
theorem State.keepAbroad_local {s : State} {o : Op} (h : ∀ r ∈ s.reqs, r.op = o.id → r.slice < 96) :
    s.keepAbroad o = s := by
  have hnone : s.reqs.filter (fun r => r.op == o.id && decide (r.slice ≥ 96) && r.lease == 6) = [] := by
    refine List.filter_eq_nil_iff.2 fun r hr hc => ?_
    simp only [Bool.and_eq_true, beq_iff_eq, decide_eq_true_eq] at hc
    have := h r hr hc.1.1
    omega
  unfold State.keepAbroad
  rw [hnone]
  rfl

theorem State.repliedTo_local {s : State} {o : Op} (h : ∀ r ∈ s.reqs, r.op = o.id → r.slice < 96) :
    s.repliedTo o = true := by
  refine List.all_eq_true.2 fun r hr => ?_
  by_cases hop : r.op = o.id
  · have := h r hr hop
    simp [show r.slice ≠ 96 by omega]
  · simp [hop]

/-- A load `x` delivered, as its parts are then: its group has the values and the completion on every path, the
operation goes, and storage stays. -/
theorem State.deliver_load {s : State} {o x : Op} {g : Group} {d : Dest} {m : Nat}
    (hp : s.performParts o (fun _ _ => true) = ({ s with nextId := m }, x)) (hk : x.kind = .load d [])
    (hg : s.opGroup x = some g) (hd : d.ok) (hlocal : ∀ r ∈ s.reqs, r.op = x.id → r.slice < 96) :
    (s.deliver o).groups = ((s.setGroup ((d.writeAll g x.parts).settle x.id)).setGroup
      (((d.writeAll g x.parts).settle x.id).completeAll x.id x.paths)).groups ∧
    (s.deliver o).mem = s.mem ∧ (s.deliver o).op? x.id = none := by
  have hspecial : SpecialSame g ((d.writeAll g x.parts).settle x.id) :=
    (Dest.onlyFile_writeAll hd.1 g x.parts).special.trans (by constructor <;> rfl)
  have hstore : x.kind.isStore = false := by rw [hk]; rfl
  unfold State.deliver
  rw [hp]
  dsimp -zeta only
  extract_lets written noted copied done consume released settled dropped ps
  have hwritten : written = ({ s with nextId := m } : State).setGroup ((d.writeAll g x.parts).settle x.id) := by
    have hg' : ({ s with nextId := m } : State).opGroup x = some g := hg
    unfold written
    rw [hg', hk]
    rfl
  have hnoted : noted = written := if_neg (by simp [hstore])
  have hcopied : copied = written.updateCopies x x.parts := by
    have hreqs : ∀ r ∈ written.reqs, r.op = x.id → r.slice < 96 := by rw [hwritten]; exact hlocal
    unfold copied
    rw [hnoted, State.keepAbroad_local hreqs]
  have hdone : done = copied.setGroup (((d.writeAll g x.parts).settle x.id).completeAll x.id x.paths) := by
    have hgroup : copied.opGroup x = some ((d.writeAll g x.parts).settle x.id) := by
      rw [hcopied, State.opGroup_of_groups (State.updateCopies_groups ..), hwritten]
      exact State.opGroup_setGroup hg hspecial
    unfold done State.completeOp
    rw [hgroup]
  have hconsume : consume = [] := by
    unfold consume
    rw [hk]
  have hsettled : settled = done.releaseTiles x.admitted := by
    unfold settled released
    rw [hconsume]
    rfl
  rw [if_neg (by simp [hstore])]
  refine ⟨?_, ?_, State.op?_delOp_self ..⟩
  · have hgroups : written.groups = (s.setGroup ((d.writeAll g x.parts).settle x.id)).groups := by
      rw [hwritten]
      rfl
    calc settled.groups
      _ = done.groups := by rw [hsettled, State.releaseTiles_groups]
      _ = _ := by
        rw [hdone, hcopied]
        exact congrArg (List.map _) ((State.updateCopies_groups ..).trans hgroups)
  · show settled.mem = s.mem
    rw [hsettled, hdone, hcopied, hwritten]
    simp [State.setGroup]

/-- A load is delivered: each lane's registers get its bytes, extended, its access completes on every path, and no
storage changes (R70, R169). -/
theorem execLoadDelivered_whole {n : Nat} {s : State} {o : Op} {g : Group} {d : Dest} (ho : s.op? n = some o)
    (hk : o.kind = .load d []) (hg : s.opGroup o = some g) (hd : d.ok)
    (hparts : ∀ y ∈ o.parts, y.got.isSome = true ∨ (y.via = .bank ∧ y.done = false ∧ s.partFree o y = true))
    (hlocal : ∀ r ∈ s.reqs, r.op = n → r.slice < 96) :
    ∃ t h, exec (.loadDelivered (.whole n)) s = .next t ∧ t.group? g.id = some h ∧
      (∀ l ∈ d.laneList, ∀ k, k < d.regs → h.reg (d.reg + k) l = d.word (laneValue (o.parts.map s.readPart) l) k) ∧
      (∀ c l, l < 32 → (c < d.reg ∨ d.reg + d.regs ≤ c ∨ (c < 192 ∧ l ∉ d.laneList)) → h.reg c l = g.reg c l) ∧
      PredsSame g h ∧ (∀ x ∈ h.flights, x.op = n → x.path ∈ o.paths → x.done = true) ∧ t.op? n = none ∧
      t.mem = s.mem ∧ OthersSame g.id s t := by
  obtain rfl := State.op?_id ho
  obtain ⟨m, ps, hp, hdata⟩ := s.performParts_load hk fun _ _ => true
  obtain ⟨hgroups, hmem, hop⟩ := State.deliver_load hp hk hg hd hlocal
  have hid : ((d.writeAll g ps).settle o.id).id = g.id := (Dest.onlyFile_writeAll hd.1 g ps).special.id
  have hid' := (Group.completeAll_id ((d.writeAll g ps).settle o.id) o.id o.paths).trans hid
  have hfile : FileSame (d.writeAll g ps) (((d.writeAll g ps).settle o.id).completeAll o.id o.paths) :=
    (FileSame.settle _ o.id).trans (.completeAll _ o.id o.paths)
  have hread : ps.map Part.datum = (o.parts.map s.readPart).map Part.datum := by
    have hpart : ∀ y ∈ o.parts, (s.readIf true y).datum = (s.readPart y).datum := by
      intro y hy
      unfold State.readIf
      rcases hparts y hy with hgot | ⟨-, hdone, -⟩
      · have hsame : s.readPart y = y := if_pos hgot
        rw [hsame, ite_self]
      · simp [hdone]
    rw [hdata, List.map_map, ← List.map_congr_left (g := Part.datum ∘ s.readPart) hpart]
    conv_rhs => rw [← List.zipIdx_map_fst 0 o.parts, List.map_map]
    rfl
  refine ⟨s.deliver o, _, ?_, ?_, fun l hl k hk => ?_, fun c l hl hout => ?_,
    hfile.predsSame (Dest.predsSame_writeAll hd.1 g ps), fun x hx => (Group.completeAll_flights _ _ _ x hx).1, hop, hmem, ?_⟩
  · show execLoadDelivered (.whole o.id) s = _
    unfold execLoadDelivered
    dsimp only
    rw [ho]
    refine congrArg Host.Outcome.next (if_pos ?_)
    have hdest : o.kind.dest.isSome = true := by rw [hk]; rfl
    have heats : o.kind.eats = [] := by rw [hk]; rfl
    have hready : s.ready o = true := by
      refine Bool.and_eq_true_iff.2 ⟨State.repliedTo_local hlocal, List.all_eq_true.2 fun y hy => ?_⟩
      rcases hparts y hy with hgot | ⟨hvia, -, hfree⟩
      · simp [hgot]
      · simp [hvia, hfree]
    simp [hdest, heats, hready, State.tileBusy]
  · have hset : (s.setGroup ((d.writeAll g ps).settle o.id)).group? g.id = some ((d.writeAll g ps).settle o.id) := by
      rw [← hid]
      exact State.group?_setGroup_self (g' := g) (by rw [hid, State.group?_opGroup hg])
    rw [State.group?_of_groups hgroups, ← hid']
    exact State.group?_setGroup_self (by rw [hid', hset])
  · rw [hfile.reg, ← laneValue_congr hread]
    exact Dest.reg_writeAll hd g ps hk hl
  · rw [hfile.reg]
    exact Dest.reg_writeAll_other hd g ps hl hout
  · have hfirst := OthersSame.setGroup (s := s) ((d.writeAll g ps).settle o.id)
    have hsecond := OthersSame.setGroup (s := s.setGroup ((d.writeAll g ps).settle o.id))
      (((d.writeAll g ps).settle o.id).completeAll o.id o.paths)
    rw [hid] at hfirst
    rw [hid'] at hsecond
    exact (hfirst.trans hsecond).trans (.of_groups hgroups)

/-! ### The part of a load on one of its paths (R70) -/

/-- The lanes of the parts that lie on path `k`. -/
def lanesOn (k : Nat) (ps : List Part) : Mask :=
  ps.foldl (fun (m : Mask) p => if p.path == k then m ||| laneBit p.lane else m) 0

theorem getLsbD_lanesOn (k : Nat) {l : Nat} (hl : l < 32) (ps : List Part) :
    (lanesOn k ps).getLsbD l = true ↔ ∃ y ∈ ps, y.path = k ∧ y.lane = l := by
  have bit : ∀ a, (laneBit a).getLsbD l = true ↔ a = l := fun a => by
    unfold laneBit
    rw [BitVec.getLsbD_ofNat, Nat.testBit_two_pow]
    simp [hl]
  have fold : ∀ m : Mask, (ps.foldl (fun (m : Mask) p => if p.path == k then m ||| laneBit p.lane else m) m).getLsbD l =
      true ↔ m.getLsbD l = true ∨ ∃ y ∈ ps, y.path = k ∧ y.lane = l := by
    induction ps with
    | nil => simp
    | cons y ps ih =>
      intro m
      rw [List.foldl_cons, ih]
      by_cases hy : y.path = k
      · simp [hy, bit, or_assoc]
      · simp [hy]
  exact (fold 0).trans (by simp)

/-- A destination with only the lanes of a mask. -/
def Dest.only (d : Dest) (m : Mask) : Dest := { d with lanes := d.lanes &&& m }

theorem Dest.ok.only {d : Dest} (h : d.ok) (m : Mask) : (d.only m).ok := h

theorem Dest.mem_laneList_only {d : Dest} {m : Mask} {l : Nat} (h : l ∈ d.laneList) (hm : m.getLsbD l = true) :
    l ∈ (d.only m).laneList := by
  unfold Dest.laneList at h ⊢
  unfold Dest.only
  split at h
  · next hg => simpa [hg] using h
  · next hg =>
    obtain ⟨hl, hd⟩ := mem_lanesOf.1 h
    simpa [hg, mem_lanesOf, hm] using ⟨hl, hd⟩

/-- A lane of vector registers outside the mask is none of the destination's. -/
theorem Dest.not_mem_laneList_only {d : Dest} {m : Mask} {l : Nat} (hg : d.g = false) (hm : m.getLsbD l = false) :
    l ∉ (d.only m).laneList := by
  unfold Dest.laneList Dest.only
  simp [hg, mem_lanesOf, hm]

/-- The part of a load on path `k` delivered: the group has its lanes' values and the completion on the path, and the
operation stays without the path. -/
theorem State.deliverPath_load {s : State} {o : Op} {g : Group} {d : Dest} {c : List TileRef} {k : Nat}
    (hk : o.kind = .load d c) (hg : s.opGroup o = some g) (hgot : ∀ y ∈ o.parts, y.path = k → y.got.isSome = true) :
    ∃ x, x.id = o.id ∧ x.paths = o.paths.filter (· != k) ∧ s.deliverPath o k =
      (s.setGroup (((d.only (lanesOn k o.parts)).writeAll g o.parts).completeAll o.id [k])).putOp x := by
  have hskip : s.performParts o (fun _ p => p.path == k) = (s, o) :=
    State.performParts_skip fun i y hy hp => .inl (hgot y (List.mem_of_getElem? hy) (by simpa using hp))
  unfold State.deliverPath
  rw [hskip]
  dsimp only
  rw [hk, hg]
  refine ⟨_, ?_, ?_, rfl⟩ <;> rfl

/-- Of a load on several paths the accesses of one are delivered apart, to their lanes alone (R70) (log 11). -/
theorem execLoadDelivered_onPath {n k : Nat} {s : State} {o : Op} {g : Group} {d : Dest} (ho : s.op? n = some o)
    (hk : o.kind = .load d []) (hg : s.opGroup o = some g) (hd : d.ok) (htwo : 2 ≤ o.paths.length) (hpath : k ∈ o.paths)
    (hgot : ∀ y ∈ o.parts, y.path = k → y.got.isSome = true) (hlocal : ∀ r ∈ s.reqs, r.op = n → r.slice < 96) :
    ∃ t h x, exec (.loadDelivered (.onPath n k)) s = .next t ∧ t.group? g.id = some h ∧
      (∀ l ∈ d.laneList, (∃ y ∈ o.parts, y.path = k ∧ y.lane = l) → ∀ j, j < d.regs →
        h.reg (d.reg + j) l = d.word (laneValue o.parts l) j) ∧
      (∀ c l, l < 32 → (c < d.reg ∨ d.reg + d.regs ≤ c ∨ (c < 192 ∧ ∀ y ∈ o.parts, y.path = k → y.lane ≠ l)) →
        h.reg c l = g.reg c l) ∧
      PredsSame g h ∧ (∀ f ∈ h.flights, f.op = n → f.path = k → f.done = true) ∧ t.op? n = some x ∧
      x.paths = o.paths.filter (· != k) ∧ t.mem = s.mem ∧ OthersSame g.id s t := by
  obtain rfl := State.op?_id ho
  have hd' : (d.only (lanesOn k o.parts)).ok := hd.only _
  have hfile := FileSame.completeAll ((d.only (lanesOn k o.parts)).writeAll g o.parts) o.id [k]
  have hid : (((d.only (lanesOn k o.parts)).writeAll g o.parts).completeAll o.id [k]).id = g.id :=
    (Group.completeAll_id ..).trans (Dest.onlyFile_writeAll hd'.1 g o.parts).special.id
  obtain ⟨x, hxid, hxpaths, ht⟩ := State.deliverPath_load hk hg hgot
  refine ⟨s.deliverPath o k, _, x, ?_, ?_, fun l hl hon j hj => ?_, fun c l hl hout => ?_,
    hfile.predsSame (Dest.predsSame_writeAll hd'.1 g o.parts),
    fun f hf hop hp => (Group.completeAll_flights _ _ _ f hf).1 hop (by simp [hp]), ?_, hxpaths, ?_, ?_⟩
  · show execLoadDelivered (.onPath o.id k) s = _
    unfold execLoadDelivered
    dsimp only
    rw [ho]
    refine congrArg Host.Outcome.next (if_pos ?_)
    have hready : s.ready { o with parts := o.parts.filter fun p => p.path == k } = true := by
      refine Bool.and_eq_true_iff.2 ⟨State.repliedTo_local hlocal, List.all_eq_true.2 fun y hy => ?_⟩
      obtain ⟨hy, hon⟩ := List.mem_filter.1 hy
      simp [hgot y hy (by simpa using hon)]
    simp [htwo, hpath, hready]
  · rw [ht, ← hid]
    exact State.group?_setGroup_self (g' := g) (by rw [hid, State.group?_opGroup hg])
  · rw [hfile.reg]
    exact Dest.reg_writeAll hd' g o.parts hj
      (Dest.mem_laneList_only hl ((getLsbD_lanesOn k (Dest.laneList_lt hl) o.parts).2 hon))
  · rw [hfile.reg]
    refine Dest.reg_writeAll_other hd' g o.parts hl ?_
    rcases hout with h | h | ⟨hvec, hnone⟩
    · exact .inl h
    · exact .inr (.inl h)
    · have hoff : (lanesOn k o.parts).getLsbD l = false :=
        Bool.eq_false_iff.2 fun h => by
          obtain ⟨y, hy, hp, hlane⟩ := (getLsbD_lanesOn k hl o.parts).1 h
          exact hnone y hy hp hlane
      rcases hd.2 with ⟨-, hlo, -⟩ | ⟨hg, -⟩
      · exact .inl (Nat.lt_of_lt_of_le hvec hlo)
      · exact .inr (.inr ⟨hvec, Dest.not_mem_laneList_only hg hoff⟩)
  · rw [ht, ← hxid]
    exact State.op?_putOp_self (x := o) (by rw [hxid]; exact ho)
  · rw [ht]
    rfl
  · have hset := OthersSame.setGroup (s := s) (((d.only (lanesOn k o.parts)).writeAll g o.parts).completeAll o.id [k])
    rw [hid] at hset
    exact hset.trans (.of_groups (by rw [ht]; rfl))

theorem State.time_le_writeTime (s : State) (key : Nat) : s.time ≤ s.writeTime key := by
  unfold State.writeTime
  split
  · exact le_rfl
  · split <;> exact Nat.le_max_left ..

/-- A store's effects at its slice, with what T_w and the reservations left are bounded by. -/
theorem execSliceStore_bounds {s : State} {n : Nat} {q : Req} {o : Op} {i : Nat} {y : Part} (h : Served s n q o i y)
    (hs : q.slice < 96) (hk : o.kind = .store ∨ o.kind = .writeback) :
    ∃ t, exec (.sliceStore n none) s = .next t ∧ WroteBytes s t y.key y.size y.b ∧ PartGot t q.op i 0 ∧
      (∃ x z, t.op? q.op = some x ∧ x.parts[i]? = some z ∧ z.tw = s.writeTime y.key ∧ s.time ≤ z.tw) ∧
      ∀ r ∈ t.resv, r ∈ s.resv ∧
        (r.owner = y.who ∨ overlap y.key y.size r.key (if r.w64 then 8 else 4) = false) := by
  obtain ⟨t, ht, hwrote, hgot, ⟨x, z, hx, hz, htw⟩, hresv⟩ := execSliceStore_served h hs hk
  refine ⟨t, ht, hwrote, hgot, ⟨x, z, hx, hz, htw, htw ▸ s.time_le_writeTime y.key⟩, fun r hr => ?_⟩
  rw [hresv] at hr
  simpa using List.mem_filter.1 hr

/-- Settles O24: each delivery, acknowledgement and service by the lemma of its event. That a load is read at its
delivery in scratch SRAM, a store written there at its acknowledgement, and each path served apart is log 11's
choice; the order of a group's acknowledgements is log 55's, what a full L1 writes back is log 7's, and a store's end of the
reservations of its own group's other threads is log 53's. -/
theorem accessService : Obligations.AccessService := by
  unfold Obligations.AccessService
  refine ⟨⟨?_, ?_, ?_⟩, ?_, ?_, ?_, ?_, ?_, ?_⟩
  · exact fun n s o g d ho hk hg hd hparts hlocal => execLoadDelivered_whole ho hk hg hd hparts hlocal
  · exact fun n k s o g d ho hk hg hd htwo hpath hgot hlocal =>
      execLoadDelivered_onPath ho hk hg hd htwo hpath hgot hlocal
  · exact fun n k s o y ho hk hy hd hback hturn hb => execStoreAck_acks ho hk hy hd hback hturn hb
  · exact fun n q s o d c hq hsent hs ho hk hopen hfree hback =>
      execSliceLoad_served hq hsent hs ho hk hopen hfree hback
  · exact fun n q s o i y h hs hk => execSliceStore_bounds h hs hk
  · exact fun n q s o i y op w64 d h hs hk => execSliceAtomic_atom h hs hk
  · exact fun n q s o i y d w h hs hk => execSliceAtomic_ldr h hs hk
  · exact fun n q s o i y d w h hs hk => execSliceAtomic_stc h hs hk
  · exact fun n q s o i y set v hq h hk => execTimelineSignal_served hq h hk

end Sys2Proof.Machine

/-! ## Accesses off the device and from outside it (O39) -/

namespace Sys2Proof.Machine

/-! ### Atomics and stores off the device (R83, R407) -/

section
variable {s : State} {n : Nat} {q : Req} {o : Op} {i : Nat} {y : Part}

/-- An atomic off the device, served: its operation is applied to the bytes that it finds. -/
theorem Served.serve_atomic {op : AtomOp} {w64 : Bool} {d : Option Dest} {place : Req → Bool}
    (h : Served s n q o i y) (hk : o.kind = .atom op w64 d ∨ o.kind = .ratom op w64 d) (hp : place q = true) :
    WroteBytes s (s.serve n OpKind.atomic place none) y.key y.size (op.apply w64 (s.read y.key y.size) y.b y.c) ∧
      PartGot (s.serve n OpKind.atomic place none) q.op i (s.read y.key y.size) := by
  obtain ⟨l, x, z, hz, ht, hx, hi⟩ :=
    h.serve (kind := OpKind.atomic) (by rcases hk with hk | hk <;> rw [hk] <;> rfl) hp
  let u : State := { s with links := l, nextId := s.nextId + 1 }
  have hr : u.read y.key y.size = s.read y.key y.size := State.read_of_mem (s := s) (t := u) rfl ..
  have hperform : ({ s with links := l } : State).perform o.kind y =
      (u.applyStore y.who y.key y.size (op.apply w64 (u.read y.key y.size) y.b y.c),
        { y with stamp := u.nextId, got := some (u.read y.key y.size), tw := s.writeTime y.key }) := by
    rcases hk with hk | hk <;> rw [hk] <;> rfl
  rw [hperform] at hz ht hx
  rw [ht, ← hr]
  exact ⟨(WroteBytes.applyStore u _ _ _ _).of_mem rfl rfl, x, z, hx, hi, by rw [hz]⟩

/-- The peer's port serves our atomic unless it is a `ratom` that the peer refuses (R405, R406). -/
theorem execPeerIngressAtomic_outbound (h : Served s n q o i y)
    (hr : ∀ op w64 d, o.kind = .ratom op w64 d → s.remoteRefusal y = none) :
    exec (.peerIngressAtomic (.outbound n)) s = .next (s.serve n OpKind.atomic (fun r => r.slice == 96) none) := by
  obtain ⟨hreq, hsent, hop, hnext, -, -⟩ := h
  show execPeerIngressAtomic (.outbound n) s = _
  unfold execPeerIngressAtomic
  simp only [hreq, hop, hnext, hsent, Option.bind_some, Option.map_some]
  cases hk : o.kind with
  | ratom op w64 d => simp [hr op w64 d hk]
  | _ => rfl

/-- An atomic is performed at the peer's port or at the adapter, whichever holds its request. -/
theorem execAtomic_offDevice {op : AtomOp} {w64 : Bool} {d : Option Dest} (h : Served s n q o i y)
    (hk : (q.slice = 96 ∧ (o.kind = .atom op w64 d ∨ (o.kind = .ratom op w64 d ∧ s.remoteRefusal y = none))) ∨
      (q.slice = 97 ∧ o.kind = .atom op w64 d)) :
    ∃ t, exec (if q.slice = 96 then .peerIngressAtomic (.outbound n) else .hostAtomic n) s = .next t ∧
      WroteBytes s t y.key y.size (op.apply w64 (s.read y.key y.size) y.b y.c) ∧
      PartGot t q.op i (s.read y.key y.size) := by
  rcases hk with ⟨hs, hk⟩ | ⟨hs, hk⟩
  · have hr : ∀ op w64 d, o.kind = .ratom op w64 d → s.remoteRefusal y = none := by
      rcases hk with hk | ⟨-, hr⟩
      · intro _ _ _ h
        cases hk.symm.trans h
      · exact fun _ _ _ _ => hr
    rw [if_pos hs]
    exact ⟨_, execPeerIngressAtomic_outbound h hr, h.serve_atomic (hk.imp_right And.left) (beq_iff_eq.2 hs)⟩
  · rw [if_neg (by omega)]
    exact ⟨_, rfl, h.serve_atomic (.inl hk) (beq_iff_eq.2 hs)⟩

/-- A store off the device is performed where its port or the adapter accepts it (R83). -/
theorem execIngressWrite_outbound (h : Served s n q o i y) (hs : 96 ≤ q.slice) (hk : o.kind = .store) :
    ∃ t, exec (.ingressWrite (.outbound n)) s = .next t ∧ WroteBytes s t y.key y.size y.b ∧ PartGot t q.op i 0 := by
  obtain ⟨l, x, z, hz, ht, hx, hi⟩ := h.serve (place := fun r => decide (r.slice ≥ 96))
    (kind := fun k => match k with | .store | .writeback => true | _ => false) (by rw [hk]) (decide_eq_true hs)
  rw [hk] at hz ht hx
  let u : State := { s with links := l, nextId := s.nextId + 1 }
  exact ⟨_, congrArg Host.Outcome.next ht, (WroteBytes.applyStore u _ _ _ _).of_mem rfl rfl,
    x, z, hx, hi, by rw [hz]; rfl⟩

end

/-! ### Words that the ingress controllers hold (R406) -/

/-- Nothing but the words that the ingress controllers hold differs. -/
def OnlyIngress (s t : State) : Prop := ∃ c, t = { s with links := { s.links with icache := c } }

section
variable {s t : State} (h : OnlyIngress s t)
include h

theorem OnlyIngress.mem : t.mem = s.mem := by obtain ⟨c, rfl⟩ := h; rfl
theorem OnlyIngress.groups : t.groups = s.groups := by obtain ⟨c, rfl⟩ := h; rfl
theorem OnlyIngress.ops : t.ops = s.ops := by obtain ⟨c, rfl⟩ := h; rfl
theorem OnlyIngress.held : t.links.held = s.links.held := by obtain ⟨c, rfl⟩ := h; rfl

end

theorem State.releaseIngress_onlyIngress (s : State) (line : Nat) : OnlyIngress s (s.releaseIngress line) := by
  unfold State.releaseIngress
  split
  · exact ⟨_, rfl⟩
  · exact ⟨s.links.icache, rfl⟩

theorem State.releaseLines_onlyIngress (ls : List Nat) :
    ∀ s : State, OnlyIngress s (ls.foldl (fun s l => s.releaseIngress l) s) := by
  induction ls with
  | nil => exact fun s => ⟨s.links.icache, rfl⟩
  | cons l ls ih =>
    intro s
    obtain ⟨c, hc⟩ := s.releaseIngress_onlyIngress l
    obtain ⟨c', hc'⟩ := ih (s.releaseIngress l)
    exact ⟨c', by rw [List.foldl_cons, hc', hc]⟩

/-! ### Writes from outside (R99, R126) -/

theorem le_foldl_max (l : List Nat) : ∀ m, m ≤ l.foldl Nat.max m ∧ ∀ x ∈ l, x ≤ l.foldl Nat.max m := by
  induction l with
  | nil => simp
  | cons y l ih =>
    intro m
    obtain ⟨hm, hl⟩ := ih (Nat.max m y)
    refine ⟨(Nat.le_max_left m y).trans hm, fun x hx => ?_⟩
    rcases List.mem_cons.1 hx with rfl | hx
    · exact (Nat.le_max_right m x).trans hm
    · exact hl x hx

theorem le_maxNat {l : List Nat} {x : Nat} (h : x ∈ l) : x ≤ maxNat l := (le_foldl_max l 0).2 x h

section
variable {s : State} {pa size : Nat}

theorem outside_inRange (h0 : 0 < size) (hend : pa + size ≤ localEnd) :
    (size = 0 || pa + size > localEnd) = false := by simp; omega

/-- A write from outside that meets live text changes no storage (log 40, DEDUCED). -/
theorem State.outsideWrite_onText (src data : Nat) (h0 : 0 < size) (hend : pa + size ≤ localEnd) {c : Nat}
    (hc : s.textHit pa size = some c) : s.outsideWrite src pa size data = (s.discardWrite c src pa, 0) := by
  unfold State.outsideWrite
  rw [outside_inRange h0 hend, if_neg Bool.false_ne_true, hc]

/-- Any other is applied, with the largest T_w of its lines. -/
theorem State.outsideWrite_applied (src data : Nat) (h0 : 0 < size) (hend : pa + size ≤ localEnd)
    (ht : s.textHit pa size = none) : ∃ u, OnlyIngress s u ∧ s.outsideWrite src pa size data =
      (u.applyStore outsider pa size data, maxNat ((linesIn pa size).map s.writeTime)) := by
  refine ⟨_, s.releaseLines_onlyIngress (linesIn pa size), ?_⟩
  unfold State.outsideWrite
  rw [outside_inRange h0 hend, if_neg Bool.false_ne_true, ht]

/-- A write from outside takes effect byte for byte, but for one that meets live text. -/
theorem State.outsideWrite_bytes (s : State) (src data : Nat) (h0 : 0 < size) (hend : pa + size ≤ localEnd) :
    (s.textHit pa size = none → WroteBytes s (s.outsideWrite src pa size data).1 pa size data) ∧
      (s.textHit pa size ≠ none → (s.outsideWrite src pa size data).1.mem = s.mem) := by
  constructor
  · intro ht
    obtain ⟨u, hu, hw⟩ := State.outsideWrite_applied src data h0 hend ht
    rw [hw]
    exact (WroteBytes.applyStore u outsider pa size data).of_mem hu.mem.symm rfl
  · intro ht
    obtain ⟨c, hc⟩ := Option.ne_none_iff_exists'.1 ht
    rw [State.outsideWrite_onText src data h0 hend hc]
    exact s.discardWrite_mem c src pa

/-- A peer's store is written as any from outside, and answered (R83). -/
theorem execIngressWrite_inbound {i : Nat} {k : PktHeader} (hk : s.peerPacket i 2 = some k)
    (hb : k.body = .addr pa size) : ∃ t, exec (.ingressWrite (.inbound i)) s = .next t ∧
      t.mem = ((s.dropHeld i).outsideWrite 1 pa size (leNat k.payload)).1.mem := by
  let x := (s.dropHeld i).outsideWrite 1 pa size (leNat k.payload)
  refine ⟨(x.1.answer k 4 [] 0 0).answer k 5 [] 0 x.2, ?_, rfl⟩
  show execIngressWrite (.inbound i) s = _
  unfold execIngressWrite
  simp only [hk, hb]
  rfl

/-- A host's write is written as any from outside, and its T_w counts for its link (R99). -/
theorem execHostWrite_eq (s : State) (link pa size data : Nat) :
    ∃ t, exec (.hostWrite link pa size data) s = .next t ∧ t.mem = (s.outsideWrite 0 pa size data).1.mem ∧
      (s.outsideWrite 0 pa size data).2 ≤ pairGet 0 t.links.linkTw link := by
  refine ⟨_, rfl, rfl, ?_⟩
  show _ ≤ pairGet 0 (pairSet _ link _) link
  rw [pairGet_pairSet_self]
  exact Nat.le_max_left ..

end

/-! ### A peer's atomics and reads (R391, R405, R406) -/

theorem execPeerIngressAtomic_inbound {s : State} {i : Nat} {k : PktHeader} {share : Bool} {a : Nat} {w64 : Bool}
    {op : AtomOp} {b c : Nat} (hk : s.peerPacket i 3 = some k) (hb : k.body = .atomic share a w64 op b c) :
    exec (.peerIngressAtomic (.inbound i)) s = .next ((s.dropHeld i).peerAtomic k share a w64 op b c) := by
  show execPeerIngressAtomic (.inbound i) s = _
  unfold execPeerIngressAtomic
  simp only [hk, hb]

theorem State.read_dropHeld (s : State) (i key n : Nat) : (s.dropHeld i).read key n = s.read key n :=
  State.read_of_mem (s := s) (t := s.dropHeld i) rfl key n

theorem State.rangeTw_dropHeld (s : State) (i key n : Nat) : (s.dropHeld i).rangeTw key n = s.rangeTw key n := rfl

section
variable {s : State} {k : PktHeader} {share : Bool} {a key n : Nat} {w64 : Bool}

/-- An atomic whose word the peer may not name is refused with the code. -/
theorem State.peerAtomic_refused (op : AtomOp) (b c : Nat) (hn : n = if w64 then 8 else 4) {e : Code}
    (he : s.peerWord k share a n = .error e) : s.peerAtomic k share a w64 op b c = s.answer k 4 [] e.num 0 := by
  subst hn
  unfold State.peerAtomic
  simp only [he]

/-- An atomic on a word that holds no live text is applied; its reply brings the old value, and its completion the
T_w. -/
theorem State.peerAtomic_applied (op : AtomOp) (b c : Nat) (hn : n = if w64 then 8 else 4)
    (hkey : s.peerWord k share a n = .ok key) (ha : a % n = 0) (ht : s.textHit key n = none) :
    ∃ u, WroteBytes s u key n (op.apply w64 (s.read key n) b c) ∧ u.links.held = s.links.held ∧
      s.peerAtomic k share a w64 op b c =
        (u.answer k 4 ((List.range n).map (fun j => BitVec.ofNat 8 (s.read key n / 256 ^ j))) 0 0).answer k 5 [] 0
          (s.rangeTw key n) := by
  have hline := s.releaseIngress_onlyIngress (lineOf key)
  let v := (s.releaseIngress (lineOf key)).applyStore outsider key n (op.apply w64 (s.read key n) b c)
  refine ⟨{ v with links := v.links.cacheWord key (v.read (key / 8 * 8) 8) v.nextId, nextId := v.nextId + 1 }, ?_, ?_, ?_⟩
  · exact (WroteBytes.applyStore (s.releaseIngress (lineOf key)) outsider key n _).of_mem hline.mem.symm rfl
  · obtain ⟨d, m, -, hv⟩ := (s.releaseIngress (lineOf key)).applyStore_eq outsider key n (op.apply w64 (s.read key n) b c)
    show v.links.held = _
    rw [show v = _ from hv]
    exact hline.held
  · subst hn
    unfold State.peerAtomic
    simp only [hkey, ha, ht, bne_self_eq_false, Bool.false_eq_true, if_false]
    rfl

end

section
variable {s : State} {i : Nat} {k : PktHeader} {share : Bool} {a key n : Nat} {w64 : Bool} {op : AtomOp} {b c : Nat}
  (hk : s.peerPacket i 3 = some k) (hb : k.body = .atomic share a w64 op b c) (hn : n = if w64 then 8 else 4)
include hk hb hn

/-- A peer's atomic that is applied is answered twice: with the old value, and with its T_w. -/
theorem execPeerIngressAtomic_applied (hkey : s.peerWord k share a n = .ok key) (ha : a % n = 0)
    (ht : s.textHit key n = none) : ∃ t x y, exec (.peerIngressAtomic (.inbound i)) s = .next t ∧
      WroteBytes s t key n (op.apply w64 (s.read key n) b c) ∧ t.links.held = s.links.held.eraseIdx i ++ [x, y] ∧
      x.pkt.typ = 4 ∧ x.pkt.payload = (List.range n).map (fun j => BitVec.ofNat 8 (s.read key n / 256 ^ j)) ∧
      y.pkt.typ = 5 ∧ y.pkt.body = .reply 0 (s.rangeTw key n) := by
  have hx := execPeerIngressAtomic_inbound hk hb
  obtain ⟨u, hw, hheld, hu⟩ := State.peerAtomic_applied (s := s.dropHeld i) op b c hn hkey ha ht
  rw [hu, State.rangeTw_dropHeld] at hx
  rw [State.read_dropHeld] at hx hw
  exact ⟨_, _, _, hx, hw.of_mem rfl rfl,
    (congrArg (· ++ [_] ++ [_]) hheld).trans (List.append_assoc ..), rfl, rfl, rfl, rfl⟩

/-- One that is refused is answered with the code, and storage is as before. -/
theorem execPeerIngressAtomic_refused {e : Code} (he : s.peerWord k share a n = .error e) :
    ∃ t x, exec (.peerIngressAtomic (.inbound i)) s = .next t ∧ t.mem = s.mem ∧
      t.links.held = s.links.held.eraseIdx i ++ [x] ∧ x.pkt.body = .reply e.num 0 := by
  have hx := execPeerIngressAtomic_inbound hk hb
  rw [State.peerAtomic_refused (s := s.dropHeld i) op b c hn he] at hx
  exact ⟨_, _, hx, rfl, rfl, rfl⟩

end

/-- What our ingress controller does with a peer's read. -/
theorem execIngressRead_inbound {s : State} {i pa size : Nat} {k : PktHeader} (hk : s.peerPacket i 1 = some k)
    (hb : k.body = .addr pa size) (h0 : 0 < size) (hsize : size ≤ 2048) (hend : pa + size ≤ localEnd) :
    ∃ u, OnlyIngress (s.dropHeld i) u ∧ exec (.ingressRead (.inbound i)) s =
      .next (u.answer k 4 ((List.range size).map (fun j => s.byte (pa + j))) 0 0) := by
  have hu := State.releaseLines_onlyIngress (linesIn pa size) (s.dropHeld i)
  refine ⟨_, hu, ?_⟩
  have hin : (size = 0 || size > 2048 || pa + size > localEnd) = false := by simp; omega
  show execIngressRead (.inbound i) s = _
  unfold execIngressRead
  simp only [hk, hb, hin, Bool.false_eq_true, if_false]
  simp only [fun a => State.byte_congr (a := a) hu.mem]
  rfl

/-- A peer's read changes no storage, group or operation. -/
theorem execIngressRead_leaves (i : Nat) (s : State) : ∃ t, exec (.ingressRead (.inbound i)) s = .next t ∧
    t.mem = s.mem ∧ t.groups = s.groups ∧ t.ops = s.ops := by
  show ∃ t, execIngressRead (.inbound i) s = _ ∧ _
  unfold execIngressRead
  dsimp only
  split
  · exact ⟨s, rfl, rfl, rfl, rfl⟩
  · split
    · next pa size hb =>
      split
      · exact ⟨_, rfl, rfl, rfl, rfl⟩
      · have hu := State.releaseLines_onlyIngress (linesIn pa size) (s.dropHeld i)
        exact ⟨_, rfl, hu.mem, hu.groups, hu.ops⟩
    · exact ⟨_, rfl, rfl, rfl, rfl⟩

/-! ### Reads by the host (R65, R99) -/

theorem bits_of_local {pa : Nat} (h : pa ≤ localEnd) : bits pa 51 49 = 0 := by
  unfold bits localEnd at *
  omega

theorem execHostRead_local {pa size : Nat} (link : Nat) (s : State) (h0 : 0 < size) (hend : pa + size ≤ localEnd) :
    ∃ u, OnlyIngress s u ∧ exec (.hostRead link pa size) s =
      .next { u with links := { u.links with hostData := (List.range size).map (fun j => s.byte (pa + j)) } } := by
  have hu := State.releaseLines_onlyIngress (linesIn pa size) s
  refine ⟨_, hu, ?_⟩
  show execHostRead link pa size s = _
  unfold execHostRead
  rw [if_neg (by omega), bits_of_local (by omega), if_neg (by decide), if_neg (by omega)]
  simp only [State.bytes, fun a => State.byte_congr (a := a) hu.mem]

theorem execHostRead_space {pa size : Nat} (link : Nat) (s : State) (h0 : size ≠ 0) (hs : bits pa 51 49 = 3) :
    exec (.hostRead link pa size) s =
      .next { s with links := { s.links with hostData := s.hostSpace (pa % 2 ^ 49) size } } := by
  show execHostRead link pa size s = _
  unfold execHostRead
  rw [if_neg h0, if_pos hs]

theorem execHostRead_leaves (link pa size : Nat) (s : State) : ∃ t, exec (.hostRead link pa size) s = .next t ∧
    t.mem = s.mem ∧ t.groups = s.groups ∧ t.ops = s.ops := by
  show ∃ t, execHostRead link pa size s = _ ∧ _
  unfold execHostRead
  dsimp only
  have hu := State.releaseLines_onlyIngress (linesIn pa size) s
  split
  · exact ⟨s, rfl, rfl, rfl, rfl⟩
  · split
    · exact ⟨_, rfl, rfl, rfl, rfl⟩
    · split
      · exact ⟨s, rfl, rfl, rfl, rfl⟩
      · exact ⟨_, rfl, hu.mem, hu.groups, hu.ops⟩

theorem State.hostSpace_zero (s : State) (off : Nat) {size : Nat} (h : size = 1 ∨ size = 2 ∨ size = 16) :
    s.hostSpace off size = List.replicate size 0 := by
  unfold State.hostSpace
  rcases h with rfl | rfl | rfl <;> rfl

/-- Whole doublewords are 8-byte reads (R65). -/
theorem State.hostSpace_doublewords (s : State) {off n : Nat} (hn : 0 < n) (h16 : 8 * n ≠ 16) (ho : off % 8 = 0) :
    s.hostSpace off (8 * n) = (List.range (8 * n)).map (fun k =>
      BitVec.ofNat 8 (s.readSpace ((off + k) / 8 * 8) 8 / 256 ^ ((off + k) % 8))) := by
  have hzero : (8 * n == 1 || 8 * n == 2 || 8 * n == 16) = false := by simp; omega
  unfold State.hostSpace
  rw [hzero, if_neg Bool.false_ne_true]
  by_cases h8 : n = 1
  · subst h8
    rw [if_pos (by simp [spaceAccess, ho])]
    refine List.map_congr_left fun k hk => ?_
    have hk := List.mem_range.1 hk
    rw [show (off + k) / 8 * 8 = off by omega, show (off + k) % 8 = k by omega]
  · rw [if_neg]
    simp [spaceAccess]
    omega

/-- Settles O39: each access by the lemma above about its event. That a write which touches live kernel text is
discarded whole is log 40's choice (DEDUCED), that peers' packets are served at ingress log 39's. -/
theorem outsideAccesses : Obligations.OutsideAccesses := by
  unfold Obligations.OutsideAccesses
  refine ⟨?_, ?_, ?_, ?_, ?_, ?_, ?_, ?_⟩
  · exact fun n q s o i y op w64 d h hk => execAtomic_offDevice h hk
  · exact fun n q s o i y h hs hk => execIngressWrite_outbound h hs hk
  · exact fun i k share a w64 op b c s hk hb =>
      ⟨fun key hkey ha ht => execPeerIngressAtomic_applied hk hb rfl hkey ha ht,
        fun e he => execPeerIngressAtomic_refused hk hb rfl he⟩
  · intro i k pa size s hk hb h0 hend
    obtain ⟨t, ht, hmem⟩ := execIngressWrite_inbound hk hb
    obtain ⟨happly, htext⟩ := (s.dropHeld i).outsideWrite_bytes 1 (leNat k.payload) h0 hend
    exact ⟨t, ht, fun h => (happly h).of_mem rfl hmem, fun h => hmem.trans (htext h)⟩
  · intro link pa size data s h0 hend
    obtain ⟨t, ht, hmem, -⟩ := execHostWrite_eq s link pa size data
    obtain ⟨happly, htext⟩ := s.outsideWrite_bytes 0 data h0 hend
    exact ⟨t, ht, fun h => (happly h).of_mem rfl hmem, fun h => hmem.trans (htext h)⟩
  · intro link pa size data s h0 hend htext
    obtain ⟨t, ht, -, htw⟩ := execHostWrite_eq s link pa size data
    obtain ⟨u, -, hw⟩ := State.outsideWrite_applied 0 data h0 hend htext
    rw [hw] at htw
    exact ⟨t, ht, fun l hl => (le_maxNat (List.mem_map_of_mem hl)).trans htw⟩
  · intro i s
    obtain ⟨t, ht, hmem, hgroups, hops⟩ := execIngressRead_leaves i s
    refine ⟨t, ht, hmem, hgroups, hops, fun k pa size hk hb h0 hsize hend => ?_⟩
    obtain ⟨u, hu, hu'⟩ := execIngressRead_inbound hk hb h0 hsize hend
    obtain rfl := Host.Outcome.next.inj (ht.symm.trans hu')
    exact ⟨_, congrArg (· ++ [_]) hu.held, rfl, rfl⟩
  · intro link pa size s
    obtain ⟨t, ht, hmem, hgroups, hops⟩ := execHostRead_leaves link pa size s
    refine ⟨t, ht, hmem, hgroups, hops, fun h0 hend => ?_, fun hreg hsize => ?_, fun hreg n hn hsize h16 hpa => ?_⟩
    · obtain ⟨u, -, hu⟩ := execHostRead_local link s h0 hend
      obtain rfl := Host.Outcome.next.inj (ht.symm.trans hu)
      rfl
    · obtain rfl := Host.Outcome.next.inj (ht.symm.trans (execHostRead_space link s (by omega) hreg))
      exact s.hostSpace_zero _ hsize
    · subst hsize
      obtain rfl := Host.Outcome.next.inj (ht.symm.trans (execHostRead_space link s (by omega) hreg))
      exact s.hostSpace_doublewords hn h16 (by omega)

end Sys2Proof.Machine

/-! ## Copies and block compress (O27) -/

namespace Sys2Proof.Machine

/-! ### Cells as they are stored (R204) -/

/-- Every field is within its width. -/
structure Cell.Fits (c : Cell) : Prop where
  packed : c.packed < 2 ^ 32
  bitmap : c.bitmap < 2 ^ 64
  chunkBase : c.chunkBase < 2 ^ 32
  armCore : c.armCore < 2 ^ 5
  armSlot : c.armSlot < 2 ^ 6
  fault : c.fault < 2 ^ 8
  arrived : c.arrived < 2 ^ 16
  target : c.target < 2 ^ 16
  count : c.count < 2 ^ 32

theorem bits_lt (x hi lo : Nat) : bits x hi lo < 2 ^ (hi + 1 - lo) := Nat.mod_lt _ (Nat.two_pow_pos _)

theorem State.fits_cell (s : State) (r : CellRef) : (s.cell r).Fits := by
  constructor <;> exact bits_lt ..

theorem bit01_le (b : Bool) : bit01 b ≤ 1 := by cases b <;> decide

theorem Cell.toNat_lt {c : Cell} (h : c.Fits) : c.toNat < 256 ^ 32 := by
  obtain ⟨h1, h2, h3, h4, h5, h6, h7, h8, h9⟩ := h
  have := bit01_le c.phase
  have := bit01_le c.arm
  have := bit01_le c.track
  unfold Cell.toNat
  omega

theorem decide_bit01 (b : Bool) : decide (bit01 b = 1) = b := by cases b <;> rfl

theorem Cell.ofNat_toNat {c : Cell} (h : c.Fits) : Cell.ofNat c.toNat = c := by
  obtain ⟨packed, bitmap, chunkBase, armCore, armSlot, fault, track, arm, phase, arrived, target, count⟩ := c
  obtain ⟨h1, h2, h3, h4, h5, h6, h7, h8, h9⟩ := h
  have hp := bit01_le phase
  have ha := bit01_le arm
  have ht := bit01_le track
  dsimp only at *
  have hbit : ∀ (b : Bool) (x k : Nat), x / 2 ^ k % 2 = bit01 b → x.testBit k = b := fun b x k hx => by
    rw [Nat.testBit_eq_decide_div_mod_eq, hx, decide_bit01]
  simp only [Cell.ofNat, Cell.toNat, Cell.mk.injEq, bits]
  refine ⟨?_, ?_, ?_, ?_, ?_, ?_, hbit _ _ _ ?_, hbit _ _ _ ?_, hbit _ _ _ ?_, ?_, ?_, ?_⟩ <;> omega

/-- A cell that is stored is read back. -/
theorem State.cell_setCell (s : State) (r : CellRef) {c : Cell} (h : c.Fits) : (s.setCell r c).cell r = c := by
  unfold State.cell State.setCell
  rw [State.read_write, Nat.mod_eq_of_lt (Cell.toNat_lt h), Cell.ofNat_toNat h]

theorem State.cell_of_mem {s t : State} (h : t.mem = s.mem) (r : CellRef) : t.cell r = s.cell r :=
  congrArg Cell.ofNat (State.read_of_mem h r.key 32)

theorem State.byte_setCell (s : State) (r : CellRef) (c : Cell) {a : Nat} (h : a < r.key ∨ r.key + 32 ≤ a) :
    (s.setCell r c).byte a = s.byte a := by
  unfold State.setCell
  rw [State.byte_write 32, if_neg (by omega)]

/-! ### Steps on a cell (R205) -/

/-- The cell after a step: its phase is complete when every arrival is made and COUNT is zero. -/
def Cell.stepped (c : Cell) : Cell :=
  if c.arrived == c.target && c.count == 0 then { c with phase := !c.phase, arrived := 0, bitmap := 0, arm := false }
  else c

theorem Cell.Fits.stepped {c : Cell} (h : c.Fits) : c.stepped.Fits := by
  unfold Cell.stepped
  split
  · exact ⟨h.packed, by simp, h.chunkBase, h.armCore, h.armSlot, h.fault, by simp, h.target, h.count⟩
  · exact h

@[simp] theorem Cell.stepped_packed (c : Cell) : c.stepped.packed = c.packed := by unfold Cell.stepped; split <;> rfl
@[simp] theorem Cell.stepped_fault (c : Cell) : c.stepped.fault = c.fault := by unfold Cell.stepped; split <;> rfl
@[simp] theorem Cell.stepped_count (c : Cell) : c.stepped.count = c.count := by unfold Cell.stepped; split <;> rfl

theorem Cell.stepped_complete {c : Cell} (h : c.arrived = c.target) (h0 : c.count = 0) :
    c.stepped.phase = !c.phase ∧ c.stepped.arrived = 0 := by
  simp [Cell.stepped, h, h0]

theorem Cell.stepped_open {c : Cell} (h : ¬(c.count = 0 ∧ c.arrived = c.target)) : c.stepped = c := by
  unfold Cell.stepped
  rw [if_neg]
  simpa using fun ha h0 => h ⟨h0, ha⟩

theorem State.cellStep_mem (s : State) (r : CellRef) (c : Cell) :
    (s.cellStep r c).mem = (s.setCell r c.stepped).mem := by
  unfold State.cellStep Cell.stepped
  split
  · dsimp only
    split
    · simp
    · simp
  · rfl

theorem State.cell_cellStep (s : State) (r : CellRef) {c : Cell} (h : c.Fits) :
    (s.cellStep r c).cell r = c.stepped :=
  (State.cell_of_mem (s.cellStep_mem r c) r).trans (s.cell_setCell r h.stepped)

theorem State.byte_cellStep (s : State) (r : CellRef) (c : Cell) {a : Nat} (h : a < r.key ∨ r.key + 32 ≤ a) :
    (s.cellStep r c).byte a = s.byte a :=
  (State.byte_congr (s.cellStep_mem r c) a).trans (s.byte_setCell r _ h)

/-- A delivery to a chunk changes the cell's BITMAP at most. -/
theorem State.chunkAdd_cell (s : State) (r : CellRef) (c : Cell) (i n : Nat) :
    ∃ b, (c.bitmap < 2 ^ 64 → b < 2 ^ 64) ∧ (s.chunkAdd r c i n).2 = { c with bitmap := b } := by
  unfold State.chunkAdd
  split
  · exact ⟨c.bitmap, id, rfl⟩
  · next hi =>
    split
    · exact ⟨c.bitmap, id, rfl⟩
    · dsimp only
      split
      · refine ⟨_, fun h => ?_, rfl⟩
        have hi : i < 64 := by simp at hi; exact hi.2
        exact Nat.or_lt_two_pow h (Nat.pow_lt_pow_right (by omega) hi)
      · exact ⟨c.bitmap, id, rfl⟩

theorem Cell.addCount_lt {c : Cell} {d : Int} {k : Nat} (h : c.addCount d = some k) : k < 2 ^ 32 := by
  unfold Cell.addCount at h
  dsimp only at h
  split at h
  · cases h
  · obtain rfl := Option.some.inj h
    unfold countNat
    omega

/-- A transfer of one lane, delivered: COUNT falls by its bytes, BITMAP may rise, and the cell takes its step
(R203, R205). -/
theorem State.cellDeliver_one (s : State) (r : CellRef) (c : Copy) {k : Nat}
    (hk : (s.cell r).addCount (-(c.size : Int)) = some k) :
    ∃ (u : State) (b : Nat), u.mem = s.mem ∧ b < 2 ^ 64 ∧
      s.cellDeliver r [c] false = u.cellStep r { s.cell r with count := k, bitmap := b } := by
  have hsum : sumNat ([c].map (·.size)) = c.size := by simp [sumNat]
  unfold State.cellDeliver
  simp only [Bool.false_eq_true, if_false, hsum, hk, List.foldl_cons, List.foldl_nil]
  generalize (if c.chunkOff then c.chunkAddr / 512 else if c.chunkAddr < (s.cell r).chunkBase then 64 else
    (c.chunkAddr - (s.cell r).chunkBase) / 512) = i
  obtain ⟨b, hb, hcell⟩ := s.chunkAdd_cell r { s.cell r with count := k } i c.size
  refine ⟨_, b, s.chunkAdd_mem r { s.cell r with count := k } i c.size, hb (s.fits_cell r).bitmap, ?_⟩
  rw [hcell]


/-! ### What stores change (R77, R80, R214) -/

/-- Two states that differ at most in what stores change: storage and its free values, reservations, the waits of
paths on timelines, and the granules marked. -/
def OnlyStores (s t : State) : Prop :=
  t = { s with mem := t.mem, freeCtr := t.freeCtr, resv := t.resv, groups := t.groups, dirty := t.dirty }

theorem OnlyStores.refl (s : State) : OnlyStores s s := rfl

theorem OnlyStores.trans {s t u : State} (h : OnlyStores s t) (k : OnlyStores t u) : OnlyStores s u := by
  unfold OnlyStores at *
  rw [k, h]

theorem OnlyMem.onlyStores {s t : State} (h : OnlyMem s t) : OnlyStores s t := by
  unfold OnlyMem at h
  rw [h]
  rfl

theorem OnlyStores.foldl {α : Type} {f : State → α → State} (hf : ∀ s a, OnlyStores s (f s a)) (l : List α) :
    ∀ s, OnlyStores s (l.foldl f s) := by
  induction l with
  | nil => exact .refl
  | cons a l ih => exact fun s => (hf s a).trans (ih _)

section
variable {s t : State} (h : OnlyStores s t)
include h

theorem OnlyStores.time : t.time = s.time := Eq.trans (congrArg State.time h) rfl
theorem OnlyStores.ops : t.ops = s.ops := Eq.trans (congrArg State.ops h) rfl
theorem OnlyStores.engines : t.engines = s.engines := Eq.trans (congrArg State.engines h) rfl

end

theorem OnlyStores.applyStore (s : State) (who : Owner) (key size v : Nat) :
    OnlyStores s (s.applyStore who key size v) := by
  obtain ⟨d, m, -, ht⟩ := s.applyStore_eq who key size v
  rw [ht]
  rfl

theorem OnlyStores.breakResv (s : State) (who : Owner) (key size : Nat) : OnlyStores s (s.breakResv who key size) := rfl

theorem OnlyStores.wakeTimelines (s : State) (key size : Nat) : OnlyStores s (s.wakeTimelines key size) := rfl

theorem OnlyStores.markDirty (s : State) (ctx key : Nat) : OnlyStores s (s.markDirty ctx key) := by
  obtain ⟨d, hd⟩ := s.markDirty_eq ctx key
  rw [hd]
  rfl

theorem OnlyMem.writeMasked (n : Nat) : ∀ (s : State) (key mask v : Nat), OnlyMem s (s.writeMasked key mask n v) := by
  induction n with
  | zero => exact fun s _ _ _ => .refl s
  | succ n ih =>
    intro s key mask v
    rw [State.writeMasked]
    split
    · have first : OnlyMem s (s.setByte key (BitVec.ofNat 8 v)) := rfl
      exact first.trans (ih ..)
    · exact ih ..

theorem OnlyStores.freeBytes (n : Nat) : ∀ (s : State) (key : Nat), OnlyStores s (s.freeBytes key n) := by
  induction n with
  | zero => exact fun s _ => .refl s
  | succ n ih =>
    intro s key
    have first : OnlyStores s { s.setByte key (Config.freeByte s.freeCtr) with freeCtr := s.freeCtr + 1 } := rfl
    exact first.trans (ih ..)

/-! ### Masked writes -/

/-- A byte of a number that was read is the byte of its place (R3). -/
theorem State.ofNat_read_div (n : Nat) : ∀ (s : State) (key j : Nat), j < n →
    BitVec.ofNat 8 (s.read key n / 256 ^ j) = s.byte (key + j) := by
  induction n with
  | zero => exact fun s key j h => absurd h (Nat.not_lt_zero j)
  | succ n ih =>
    intro s key j h
    have hb := (s.byte key).isLt
    rw [State.read]
    cases j with
    | zero =>
      apply BitVec.eq_of_toNat_eq
      simp only [BitVec.toNat_ofNat, Nat.pow_zero, Nat.div_one, Nat.add_zero]
      omega
    | succ j =>
      rw [Nat.pow_succ', ← Nat.div_div_eq_div_mul, show ((s.byte key).toNat + 256 * s.read (key + 1) n) / 256 =
        s.read (key + 1) n by omega, ih s (key + 1) j (by omega), Nat.add_right_comm]
      rfl

/-- A byte after a write of the bytes that a mask names. -/
theorem State.byte_writeMasked (n : Nat) : ∀ (s : State) (key mask v a : Nat),
    (s.writeMasked key mask n v).byte a =
      if key ≤ a ∧ a < key + n ∧ mask.testBit (a - key) then BitVec.ofNat 8 (v / 256 ^ (a - key)) else s.byte a := by
  induction n with
  | zero =>
    intro s key mask v a
    rw [State.writeMasked, if_neg (by omega)]
  | succ n ih =>
    intro s key mask v a
    rw [State.writeMasked, ih]
    by_cases h : a = key
    · subst h
      rw [if_neg (by omega), Nat.sub_self, Nat.testBit_zero]
      by_cases hm : mask % 2 = 1
      · rw [if_pos hm, State.byte_setByte, if_pos rfl, if_pos ⟨le_rfl, by omega, by simp [hm]⟩]
        simp
      · rw [if_neg hm, if_neg (by simp [hm])]
    · have hother : (if mask % 2 = 1 then s.setByte key (BitVec.ofNat 8 v) else s).byte a = s.byte a := by
        split
        · rw [State.byte_setByte, if_neg h]
        · rfl
      rw [hother]
      by_cases hr : key < a
      · have hsub : a - key = (a - (key + 1)) + 1 := by omega
        rw [hsub, Nat.testBit_succ, Nat.pow_succ', ← Nat.div_div_eq_div_mul]
        congr 1
        exact propext ⟨fun ⟨_, _, h⟩ => ⟨by omega, by omega, h⟩, fun ⟨_, _, h⟩ => ⟨by omega, by omega, h⟩⟩
      · rw [if_neg (by omega), if_neg (by omega)]

theorem sumNat_two_pow_range (n : Nat) : sumNat ((List.range n).map (2 ^ ·)) = 2 ^ n - 1 := by
  induction n with
  | zero => rfl
  | succ n ih =>
    unfold sumNat at *
    rw [List.range_succ, List.map_append, List.foldl_append, ih]
    have := Nat.two_pow_pos n
    simp only [List.map_cons, List.map_nil, List.foldl_cons, List.foldl_nil, Nat.pow_succ]
    omega

/-! ### Transfers of a copy (R53, R203) -/

theorem State.copyWrite_onlyStores (s : State) (ctx : Nat) (cs : List Copy) (c : Copy) (key v : Nat) :
    OnlyStores s (s.copyWrite ctx cs c key v) := by
  unfold State.copyWrite
  exact (OnlyMem.writeMasked c.size s key _ v).onlyStores.trans
    ((OnlyStores.breakResv ..).trans ((OnlyStores.wakeTimelines ..).trans (OnlyStores.markDirty ..)))

/-- Bytes that no higher lane of the copy writes are all written. -/
theorem WroteBytes.copyWrite (s : State) (ctx : Nat) {cs : List Copy} {c : Copy} {key : Nat} (v : Nat)
    (h : ∀ x ∈ cs, c.lane < x.lane → ∀ d ∈ x.dst, overlap key c.size d x.size = false) :
    WroteBytes s (s.copyWrite ctx cs c key v) key c.size v := by
  have hcover : (List.range c.size).map (fun k => if cs.any (fun x => decide (x.lane > c.lane) &&
      x.dst.any (fun d => decide (d ≤ key + k ∧ key + k < d + x.size))) then 0 else 2 ^ k) =
        (List.range c.size).map (2 ^ ·) := by
    refine List.map_congr_left fun k hk => if_neg fun hany => ?_
    obtain ⟨x, hx, hlane⟩ := List.any_eq_true.1 hany
    obtain ⟨hlane, hdst⟩ := Bool.and_eq_true_iff.1 hlane
    obtain ⟨d, hd, hin⟩ := List.any_eq_true.1 hdst
    have := h x hx (of_decide_eq_true hlane) d hd
    have hin := of_decide_eq_true hin
    have hk := List.mem_range.1 hk
    simp [overlap] at this
    omega
  intro a
  have hmem : (s.copyWrite ctx cs c key v).mem = (s.writeMasked key (2 ^ c.size - 1) c.size v).mem := by
    rw [← sumNat_two_pow_range, ← hcover]
    simp [State.copyWrite]
  rw [State.byte_congr hmem, State.byte_writeMasked]
  congr 1
  rw [Nat.testBit_two_pow_sub_one]
  exact propext ⟨fun ⟨h1, h2, _⟩ => ⟨h1, h2⟩, fun ⟨h1, h2⟩ => ⟨h1, h2, by simp; omega⟩⟩

/-- A copy that is read first keeps its lane, its destinations and its size. -/
theorem State.readFirst_keeps (s : State) (mine : List Copy) (c : Copy) :
    (s.readFirst mine c).lane = c.lane ∧ (s.readFirst mine c).dst = c.dst ∧ (s.readFirst mine c).size = c.size ∧
      (s.readFirst mine c).xfer = c.xfer := by
  unfold State.readFirst
  (repeat' split) <;> exact ⟨rfl, rfl, rfl, rfl⟩

/-! ### Ends of operations -/

theorem State.op?_endOp_self (s : State) (o : Op) : (s.endOp o).op? o.id = none := State.op?_delOp_self _ o.id

@[simp] theorem State.noteTw_time (s : State) (o : Op) (tw : Nat) : (s.noteTw o tw).time = s.time := by
  unfold State.noteTw
  split <;> simp

@[simp] theorem State.noteTw_engines (s : State) (o : Op) (tw : Nat) : (s.noteTw o tw).engines = s.engines := by
  unfold State.noteTw
  split <;> simp

@[simp] theorem State.completeOp_engines (s : State) (o : Op) : (s.completeOp o).engines = s.engines := by
  unfold State.completeOp
  split <;> rfl

@[simp] theorem State.endOp_engines (s : State) (o : Op) : (s.endOp o).engines = s.engines :=
  s.completeOp_engines o

/-! ### CPA_TRANSFER (R92, R203) -/

section
variable {n x : Nat} {s : State} {o : Op} {cell : CellRef} {cs : List Copy} {left : List Nat} {c : Copy} {d k : Nat}
  (ho : s.op? n = some o) (hk : o.kind = .cpa cell cs left []) (hleft : x ∈ left)
  (hmine : cs.filter (fun c => c.xfer == x) = [c]) (hgot : c.got = none) (hdst : c.dst = [d])
  (hsrc : c.tileSrc = none) (htile : c.tileDst = none) (hfork : s.forkReady o = true)
  (hsent : s.carried n [c.src, d] = true) (htime : s.writeTime d ≤ s.time)
include ho hk hleft hmine hgot hdst hsrc htile hfork hsent htime

/-- A transfer of one lane whose time has come writes what it reads, and is reported to its cell. -/
theorem execCpaTransfer_one (hhigh : ∀ y ∈ cs, c.lane < y.lane → ∀ e ∈ y.dst, overlap d c.size e y.size = false) :
    ∃ v, WroteBytes s v d c.size (s.read c.src c.size) ∧ exec (.cpaTransfer n x) s = .next
      (if (left.filter (· != x)).isEmpty then (v.cellDeliver cell [c] false).endOp o
       else (v.cellDeliver cell [c] false).putOp { o with kind := .cpa cell cs (left.filter (· != x)) [] }) := by
  have hsent' : s.carried o.id [c.src, d] = true := (State.op?_id ho).symm ▸ hsent
  obtain ⟨cs', hcs'⟩ : ∃ cs', cs.map (s.readFirst [c]) = cs' := ⟨_, rfl⟩
  obtain ⟨w, hw⟩ : ∃ w, s.read c.src c.size = w := ⟨_, rfl⟩
  let c' : Copy := { c with got := some w }
  have hmine' : cs'.filter (fun c => c.xfer == x) = [c'] := by
    have hf : (fun c : Copy => c.xfer == x) ∘ s.readFirst [c] = fun c => c.xfer == x :=
      funext fun y => by simp [(s.readFirst_keeps [c] y).2.2.2]
    have hread : s.readFirst [c] c = c' := by simp [State.readFirst, hgot, c', hw]
    rw [← hcs', List.filter_map, hf, hmine, List.map_singleton, hread]
  have hkeys : transferKeys cs x = ([c.src], [d]) := by simp [transferKeys, hmine, hdst]
  have hmax : maxNat ([d].map s.writeTime) = s.writeTime d := Nat.max_eq_right (Nat.zero_le _)
  have hcopy : s.copyAll o.ctx cs' [c'] = s.copyWrite o.ctx cs' c' d w := by simp [State.copyAll, c', hdst]
  have hwrote : WroteBytes s (s.copyWrite o.ctx cs' c' d w) d c.size w := by
    refine WroteBytes.copyWrite s o.ctx (c := c') _ fun y hy hlane e he => ?_
    obtain ⟨y, hy', rfl⟩ := List.mem_map.1 (hcs' ▸ hy)
    obtain ⟨hl, hd', hs, -⟩ := s.readFirst_keeps [c] y
    rw [hl] at hlane
    rw [hd'] at he
    rw [hs]
    exact hhigh y hy' hlane e he
  let v := (((s.copyWrite o.ctx cs' c' d w).noteTw o (s.writeTime d)).servedAbroad o.id [c.src, d]
    ((left.filter (· != x)).flatMap fun y => (transferKeys cs y).1 ++ (transferKeys cs y).2)).putOp
      { o with kind := .cpa cell cs' (left.filter (· != x)) [] }
  have hv : s.writeTime d ≤ v.time := by
    show _ ≤ ((s.copyWrite o.ctx cs' c' d w).noteTw o (s.writeTime d)).time
    rw [State.noteTw_time, (s.copyWrite_onlyStores o.ctx cs' c' d w).time]
    exact htime
  rw [hw]
  refine ⟨v, hwrote.of_mem rfl (State.noteTw_mem (s.copyWrite o.ctx cs' c' d w) o (s.writeTime d)), ?_⟩
  show execCpaTransfer n x s = _
  unfold execCpaTransfer
  simp only [ho, hk, hmine, hmine', hcs', hcopy, hkeys, hsent', hmax, hdst, hsrc, htile, hfork,
    List.contains_iff_mem.2 hleft, if_true, List.cons_append, List.nil_append, Bool.not_true, Bool.or_false,
    Bool.false_eq_true, if_false, List.any_cons, List.any_nil, Option.any_none, List.flatMap_cons, List.flatMap_nil,
    List.append_nil, List.isEmpty_nil, Bool.and_true]
  exact if_pos hv

end

/-- What a transfer of one lane leaves in storage and in its cell. -/
theorem State.cellDeliver_wrote {s v t : State} {cell : CellRef} {c : Copy} {d k : Nat}
    (ht : t.mem = (v.cellDeliver cell [c] false).mem) (hw : WroteBytes s v d c.size (s.read c.src c.size))
    (hcell : overlap cell.key 32 d c.size = false) (hk : (s.cell cell).addCount (-(c.size : Int)) = some k) :
    (∀ j, j < c.size → t.byte (d + j) = s.byte (c.src + j)) ∧
    (∀ a, (a < d ∨ d + c.size ≤ a) → (a < cell.key ∨ cell.key + 32 ≤ a) → t.byte a = s.byte a) ∧
    ∃ b, t.cell cell = ({ s.cell cell with count := k, bitmap := b } : Cell).stepped := by
  have hapart : ∀ a, cell.key ≤ a → a < cell.key + 32 → ¬(d ≤ a ∧ a < d + c.size) := by
    simp only [overlap, Bool.and_eq_false_iff, decide_eq_false_iff_not] at hcell
    omega
  have hsame : v.cell cell = s.cell cell := congrArg Cell.ofNat (State.read_congr 32 s v cell.key fun a h1 h2 => by
    rw [hw, if_neg (hapart a h1 h2)])
  obtain ⟨u, b, hu, hb, hstep⟩ := v.cellDeliver_one cell c (hsame.symm ▸ hk)
  rw [hsame] at hstep
  have hfits : ({ s.cell cell with count := k, bitmap := b } : Cell).Fits :=
    { s.fits_cell cell with count := Cell.addCount_lt hk, bitmap := hb }
  rw [hstep] at ht
  have hout : ∀ a, (a < cell.key ∨ cell.key + 32 ≤ a) → t.byte a = v.byte a := fun a ha =>
    (State.byte_congr ht a).trans ((u.byte_cellStep cell _ ha).trans (State.byte_congr hu a))
  refine ⟨fun j hj => ?_, fun a ha hc => ?_, b, (State.cell_of_mem ht cell).trans (u.cell_cellStep cell hfits)⟩
  · rw [hout _ (by have := hapart (d + j); omega), hw, if_pos (by omega), Nat.add_sub_cancel_left,
      State.ofNat_read_div _ _ _ _ hj]
  · rw [hout a hc, hw, if_neg (by omega)]


/-! ### The codes of a run's faults (R218, R265) -/

theorem Code.num_lt (c : Code) : c.num < 2 ^ 8 := by
  cases c <;> simp only [Code.num] <;> omega

theorem State.through_error {s : State} {ctx : Nat} {k : Acc} {window : Bool} {e pbits va size : Nat} {c : Code}
    (h : s.through ctx k window e pbits va size = .error c) : c.num ≠ 0 := by
  unfold State.through at h
  dsimp only at h
  (repeat' split at h) <;> cases h <;> decide

theorem State.devXlate_error {s : State} {ctx : Nat} {k : Acc} {va size : Nat} {c : Code}
    (h : s.devXlate ctx k va size = .error c) : c.num ≠ 0 := by
  unfold State.devXlate at h
  split at h
  · cases h
    decide
  · split at h
    · cases h
      decide
    · exact State.through_error h

theorem State.regionPart_error {s : State} {o : Op} {k : Acc} {r : Region} {off : Nat} {c : Code}
    (h : s.regionPart o k r off = .error c) : c.num ≠ 0 := by
  unfold State.regionPart at h
  dsimp only at h
  split at h
  · split at h
    · next hx =>
      cases h
      split
      · decide
      · exact State.devXlate_error hx
    · split at h <;> cases h
      decide
  all_goals (repeat' split at h) <;> cases h <;> decide

theorem State.readParts_error {s : State} {o : Op} {r : Region} {c : Code} :
    ∀ {l : List Nat}, s.readParts o r l = .error c → c.num ≠ 0 := by
  intro l
  induction l with
  | nil => exact nofun
  | cons off l ih =>
    intro h
    rw [State.readParts] at h
    split at h
    · next hp =>
      cases h
      exact State.regionPart_error hp
    · split at h
      · next hr =>
        cases h
        exact ih hr
      · cases h

/-! ### What a run changes (R217) -/

/-- The state that writing parts leaves, whether it faults or not, and the code of its fault. -/
theorem State.writeParts_onlyStores {o : Op} {r : Region} (l : List Nat) : ∀ (s : State) (off tw : Nat),
    match s.writeParts o r off tw l with
    | .error (t, c) => OnlyStores s t ∧ c.num ≠ 0
    | .ok (t, _) => OnlyStores s t := by
  induction l with
  | nil => exact fun s off tw => .refl s
  | cons v l ih =>
    intro s off tw
    rw [State.writeParts]
    cases hp : s.regionPart o .store r off with
    | error c => exact ⟨.refl s, State.regionPart_error hp⟩
    | ok key =>
      have first := OnlyStores.applyStore s (engineOwner o.ctx) key 16 v
      have next := ih (s.applyStore (engineOwner o.ctx) key 16 v) (off + 16) (Nat.max tw (s.writeTime key))
      dsimp only
      split <;> rename_i hw <;> rw [hw] at next
      · exact ⟨first.trans next.1, next.2⟩
      · exact first.trans next

/-- A run from `s`: it has only stored, and its fault has a code. -/
def Pack.RunOf (s : State) (x : Pack) : Prop := OnlyStores s x.s ∧ ∀ c, x.code = some c → c.num ≠ 0

theorem Pack.RunOf.block {s : State} {x : Pack} (h : x.RunOf s) (o : Op) (src dst : Region) (kb e bs t row c : Nat) :
    (x.block o src dst kb e bs t row c).RunOf s := by
  obtain ⟨hs, hc⟩ := h
  unfold Pack.block
  split
  · exact ⟨hs, hc⟩
  · split
    · next hr => exact ⟨hs, fun c h => Option.some.inj h ▸ State.readParts_error hr⟩
    · next vs hr =>
      split
      · exact ⟨hs, hc⟩
      · have hw := x.s.writeParts_onlyStores (o := o) (r := dst) vs x.off x.tw
        dsimp only
        split <;> rename_i hp <;> rw [hp] at hw
        · exact ⟨hs.trans hw.1, fun c h => Option.some.inj h ▸ hw.2⟩
        · exact ⟨hs.trans hw, hc⟩

theorem State.pack_runOf (s : State) (o : Op) (src dst : Region) (steps : Nat) (big two : Bool) :
    (s.pack o src dst steps big two).RunOf s := by
  unfold State.pack
  refine List.foldlRecOn _ _ ⟨.refl s, nofun⟩ fun x h t _ => ?_
  refine List.foldlRecOn _ _ h fun x h row _ => ?_
  exact List.foldlRecOn _ _ h fun x h c _ => h.block o src dst _ _ _ t row c

theorem State.spoil_onlyStores (s : State) (o : Op) (dst : Region) (n : Nat) : OnlyStores s (s.spoil o dst n) := by
  refine OnlyStores.foldl (fun s j => ?_) _ s
  split
  · exact OnlyStores.freeBytes ..
  · exact .refl s

/-! ### Metadata queues (R237) -/

theorem Engine.queue_setQueue (e : Engine) (m : MetaQ) : (e.setQueue m).queue m.kid m.q = m := by
  unfold Engine.queue Engine.setQueue
  dsimp only
  rw [find?_upsert_self (by simp)]

theorem Engine.queue_names (e : Engine) (kid q : Nat) : (e.queue kid q).kid = kid ∧ (e.queue kid q).q = q := by
  unfold Engine.queue
  split
  · next hm => simpa using List.find?_some hm
  · exact ⟨rfl, rfl⟩

theorem State.engine_setEngine (s : State) (n : Nat) (e : Engine) : (s.setEngine n e).engine n = e := by
  unfold State.engine State.setEngine
  dsimp only
  rw [find?_upsert_self (by simp)]

theorem State.engine_of_engines {s t : State} (h : t.engines = s.engines) (n : Nat) : t.engine n = s.engine n := by
  unfold State.engine
  rw [h]

/-- The queue that a `bcomp` fills. -/
def State.metaOf (s : State) (o : Op) (q : Nat) : List Nat := ((s.engine o.engineNum).queue o.kid q).entries

theorem State.mqinitOpen_of_ops {s t : State} (h : t.ops = s.ops) (o : Op) (q : Nat) :
    t.mqinitOpen o q = s.mqinitOpen o q := by
  unfold State.mqinitOpen
  rw [h]

/-- Two states that differ in the matrix engines at most. -/
def OnlyEngines (s t : State) : Prop := t = { s with engines := t.engines }

/-- Entries are pushed in order until the queue holds 64; the rest go on waiting. -/
theorem State.pushMeta_spec (o : Op) (q : Nat) (es : List Nat) : ∀ s : State, s.mqinitOpen o q = false →
    (s.pushMeta o q es).2 = es.drop (64 - (s.metaOf o q).length) ∧
      (s.pushMeta o q es).1.metaOf o q = s.metaOf o q ++ es.take (64 - (s.metaOf o q).length) ∧
      OnlyEngines s (s.pushMeta o q es).1 := by
  induction es with
  | nil => exact fun s _ => ⟨by simp [State.pushMeta], by simp [State.pushMeta], rfl⟩
  | cons v es ih =>
    intro s h
    rw [State.pushMeta]
    by_cases hfull : 64 ≤ (s.metaOf o q).length
    · rw [if_pos (by rw [h]; simpa [State.metaOf] using hfull), Nat.sub_eq_zero_of_le hfull]
      exact ⟨rfl, by simp, rfl⟩
    · let e := s.engine o.engineNum
      let m : MetaQ := { e.queue o.kid q with entries := (e.queue o.kid q).entries ++ [v] }
      let u := s.setEngine o.engineNum (e.setQueue m)
      have hu : u.metaOf o q = s.metaOf o q ++ [v] := by
        obtain ⟨hkid, hq⟩ := e.queue_names o.kid q
        have hm := e.queue_setQueue m
        rw [show m.kid = o.kid from hkid, show m.q = q from hq] at hm
        unfold State.metaOf
        rw [State.engine_setEngine, hm]
      rw [if_neg (by rw [h]; simpa [State.metaOf] using hfull)]
      obtain ⟨hrest, hentries, honly⟩ := ih u h
      rw [hu, List.length_append] at hrest hentries
      have hroom : 64 - (s.metaOf o q).length = (64 - ((s.metaOf o q).length + [v].length)) + 1 := by
        simp only [List.length_singleton]
        omega
      rw [hroom, List.drop_succ_cons, List.take_succ_cons]
      refine ⟨hrest, by rw [hentries]; simp, ?_⟩
      unfold OnlyEngines at *
      rw [honly]
      rfl

/-! ### The arrival that ends a run (R217, R218) -/

theorem Cell.Fits.setFault {c : Cell} (h : c.Fits) (code : Code) : (c.setFault code).Fits := by
  unfold Cell.setFault
  split
  · exact { h with fault := code.num_lt }
  · exact h

theorem Cell.setFault_fault {c : Cell} {code : Code} (h : c.fault ≠ 0 ∨ code.num ≠ 0) : (c.setFault code).fault ≠ 0 := by
  unfold Cell.setFault
  split
  · next h0 => exact h.resolve_left (absurd h0)
  · next h0 => exact h0

theorem Cell.setFault_arrived (c : Cell) (code : Code) :
    (c.setFault code).arrived = c.arrived ∧ (c.setFault code).target = c.target := by
  unfold Cell.setFault
  split <;> exact ⟨rfl, rfl⟩

@[simp] theorem State.pendInterrupt_engines (s : State) (r : CellRef) (c : Cell) :
    (s.pendInterrupt r c).engines = s.engines := by
  unfold State.pendInterrupt
  dsimp only
  split <;> simp

theorem State.clearChunks_engines (s : State) (key : Nat) : (s.clearChunks key).engines = s.engines := rfl

theorem State.setCell_onlyMem (s : State) (r : CellRef) (c : Cell) : OnlyMem s (s.setCell r c) :=
  OnlyMem.write 32 s r.key c.toNat

theorem State.setCell_engines (s : State) (r : CellRef) (c : Cell) : (s.setCell r c).engines = s.engines :=
  (s.setCell_onlyMem r c).onlyStores.engines

theorem State.cellStep_engines (s : State) (r : CellRef) (c : Cell) : (s.cellStep r c).engines = s.engines := by
  unfold State.cellStep
  dsimp only
  split
  · split
    · rw [State.pendInterrupt_engines, State.clearChunks_engines, State.setCell_engines]
    · rw [State.clearChunks_engines, State.setCell_engines]
  · exact s.setCell_engines r c

/-- The arrival stores the cell, with or without a step. -/
theorem State.bcompArrive_cases (s : State) (cell : CellRef) (pk : Nat) (code : Option Code) :
    ∃ c, s.bcompArrive cell pk code = s.setCell cell c ∨ s.bcompArrive cell pk code = s.cellStep cell c := by
  cases code <;> unfold State.bcompArrive <;> dsimp only <;> split
  · exact ⟨_, .inl rfl⟩
  · exact ⟨_, .inr rfl⟩
  · exact ⟨_, .inl rfl⟩
  · exact ⟨_, .inr rfl⟩

theorem State.bcompArrive_engines (s : State) (cell : CellRef) (pk : Nat) (code : Option Code) :
    (s.bcompArrive cell pk code).engines = s.engines := by
  obtain ⟨c, h | h⟩ := s.bcompArrive_cases cell pk code
  · rw [h, State.setCell_engines]
  · rw [h, State.cellStep_engines]

theorem State.byte_bcompArrive (s : State) (cell : CellRef) (pk : Nat) (code : Option Code) {a : Nat}
    (ha : a < cell.key ∨ cell.key + 32 ≤ a) : (s.bcompArrive cell pk code).byte a = s.byte a := by
  obtain ⟨c, h | h⟩ := s.bcompArrive_cases cell pk code
  · rw [h, State.byte_setCell _ _ _ ha]
  · rw [h, State.byte_cellStep _ _ _ ha]

/-- A run without a fault leaves PACKED. -/
theorem State.bcompArrive_packed {s : State} {cell : CellRef} (pk : Nat)
    (h : (s.cell cell).arrived + 1 ≤ (s.cell cell).target) :
    ((s.bcompArrive cell pk none).cell cell).packed = pk % 2 ^ 32 := by
  have hc := s.fits_cell cell
  unfold State.bcompArrive
  dsimp only
  rw [if_neg (by omega), State.cell_cellStep, Cell.stepped_packed]
  exact { hc with packed := Nat.mod_lt _ (by decide), arrived := h.trans_lt hc.target }

/-- A run with a fault leaves FAULT. -/
theorem State.bcompArrive_fault (s : State) (cell : CellRef) (pk : Nat) {code : Code} (h : code.num ≠ 0) :
    ((s.bcompArrive cell pk (some code)).cell cell).fault ≠ 0 := by
  have hc := (s.fits_cell cell).setFault code
  have hf : ((s.cell cell).setFault code).fault ≠ 0 := Cell.setFault_fault (.inr h)
  unfold State.bcompArrive
  dsimp only
  split
  · rw [State.cell_setCell _ _ (hc.setFault .cellOverflow)]
    exact Cell.setFault_fault (.inl hf)
  · next hroom =>
    have hfits : ({ (s.cell cell).setFault code with arrived := ((s.cell cell).setFault code).arrived + 1 } : Cell).Fits :=
      { hc with arrived := (Nat.le_of_not_lt hroom).trans_lt hc.target }
    rw [State.cell_cellStep _ _ hfits, Cell.stepped_fault]
    exact hf

/-! ### BCOMP_FINISH, BCOMP_FAULT and METADATA_PUSH (R217, R218, R237) -/

theorem State.metaOf_of_engines {s t : State} (h : t.engines = s.engines) (o : Op) (q : Nat) :
    t.metaOf o q = s.metaOf o q := by
  unfold State.metaOf
  rw [State.engine_of_engines h]

/-- A run whose entries all fit in the queue ends with its arrival. -/
theorem State.bcompEnd_pushed {v : State} {o : Op} {cell : CellRef} {src dst : Region} {steps : Nat} {big two : Bool}
    {q : Nat} {es : List Nat} {pk : Nat} {code : Option Code} {tw : Nat} (hopen : v.mqinitOpen o q = false)
    (hroom : (v.metaOf o q).length + es.length ≤ 64) (htw : tw ≤ v.time) :
    ∃ w : State, w.mem = v.mem ∧
      let t := (v.pushMeta o q es).1.bcompEnd { o with
        kind := .bcomp cell src dst steps big two q true (v.pushMeta o q es).2 pk code, tw := tw }
      t.op? o.id = none ∧ t.mem = (w.bcompArrive cell pk code).mem ∧ t.metaOf o q = v.metaOf o q ++ es := by
  obtain ⟨hrest, hentries, honly⟩ := v.pushMeta_spec o q es hopen
  have hmem : (v.pushMeta o q es).1.mem = v.mem := (congrArg State.mem honly).trans rfl
  have htime : tw ≤ (v.pushMeta o q es).1.time := htw.trans_eq (Eq.symm ((congrArg State.time honly).trans rfl))
  refine ⟨_, hmem, ?_⟩
  rw [List.drop_eq_nil_of_le (by omega)] at hrest
  rw [List.take_of_length_le (by omega)] at hentries
  rw [hrest]
  have hend : (v.pushMeta o q es).1.bcompEnd { o with kind := .bcomp cell src dst steps big two q true [] pk code, tw := tw } =
      ((v.pushMeta o q es).1.bcompArrive cell pk code).endOp
        { o with kind := .bcomp cell src dst steps big two q true [] pk code, tw := tw } := if_pos htime
  dsimp only
  rw [hend]
  refine ⟨State.op?_endOp_self _ _, State.endOp_mem _ _, ?_⟩
  rw [← hentries]
  exact State.metaOf_of_engines ((State.endOp_engines ..).trans (State.bcompArrive_engines ..)) o q

section
variable {n : Nat} {s : State} {o : Op} {cell : CellRef} {src dst : Region} {steps : Nat} {big two : Bool} {q : Nat}
  {es : List Nat} {pk : Nat} {code : Option Code} (ho : s.op? n = some o)
  (hk : o.kind = .bcomp cell src dst steps big two q false es pk code) (hfork : s.forkReady o = true)
include ho hk hfork

/-- A run that lacks requests makes them first (R19). -/
theorem execBcomp_asks {u : State}
    (hask : s.packAsk o src dst steps (if two then 2 else 1) (s.pack o src dst steps big two) = some u) :
    ((s.pack o src dst steps big two).code = none → exec (.bcompFinish n) s = .next u) ∧
      ((s.pack o src dst steps big two).code ≠ none → exec (.bcompFault n) s = .next u) := by
  constructor
  · intro hcode
    show execBcompFinish n s = _
    unfold execBcompFinish
    simp only [ho, hk, hfork, hcode, hask, Bool.not_true, Option.isSome_none, Bool.or_false, Bool.false_eq_true, if_false]
  · intro hcode
    obtain ⟨c, hcode⟩ := Option.ne_none_iff_exists'.1 hcode
    show execBcompFault n s = _
    unfold execBcompFault
    simp only [ho, hk, hfork, hcode, hask, Bool.not_true, Bool.false_eq_true, if_false]

/-- A run without a fault leaves its blocks, PACKED with an arrival, and an entry for each K step. -/
theorem execBcompFinish_ends (hcode : (s.pack o src dst steps big two).code = none)
    (hask : s.packAsk o src dst steps (if two then 2 else 1) (s.pack o src dst steps big two) = none)
    (htw : (s.pack o src dst steps big two).tw ≤ s.time) (hroom : (s.metaOf o q).length + steps ≤ 64)
    (hopen : s.mqinitOpen o q = false) :
    let x := s.pack o src dst steps big two
    ∃ t, exec (.bcompFinish n) s = .next t ∧ t.op? n = none ∧
      (∀ a, (a < cell.key ∨ cell.key + 32 ≤ a) → t.byte a = x.s.byte a) ∧
      ((x.s.cell cell).arrived + 1 ≤ (x.s.cell cell).target → (t.cell cell).packed = x.off % 2 ^ 32) ∧
      t.metaOf o q = s.metaOf o q ++ (List.range steps).map (fun j => SMap.get 0 x.maps j + bit01 big * 2 ^ 24) := by
  obtain ⟨hstores, -⟩ := s.pack_runOf o src dst steps big two
  generalize hx : s.pack o src dst steps big two = x at *
  let es' := (List.range steps).map (fun j => SMap.get 0 x.maps j + bit01 big * 2 ^ 24)
  let v := x.s.noteTw o x.tw
  have hmeta : v.metaOf o q = s.metaOf o q :=
    State.metaOf_of_engines ((x.s.noteTw_engines o x.tw).trans hstores.engines) o q
  obtain ⟨w, hw, hgone, hmem, hentries⟩ := State.bcompEnd_pushed (v := v) (cell := cell) (src := src) (dst := dst)
    (steps := steps) (big := big) (two := two) (es := es') (pk := x.off) (code := none) (tw := x.tw)
    ((State.mqinitOpen_of_ops ((x.s.noteTw_ops o x.tw).trans hstores.ops) o q).trans hopen)
    (by rw [hmeta]; simpa [es'] using hroom)
    (htw.trans_eq (Eq.symm ((x.s.noteTw_time o x.tw).trans hstores.time)))
  have hwx : w.mem = x.s.mem := hw.trans (x.s.noteTw_mem o x.tw)
  refine ⟨_, ?_, ?_, fun a ha => ?_, fun harr => ?_, hentries.trans (congrArg (· ++ es') hmeta)⟩
  · show execBcompFinish n s = _
    unfold execBcompFinish
    simp only [ho, hk, hx, hfork, hcode, hask, Bool.not_true, Option.isSome_none, Bool.or_false, Bool.false_eq_true,
      if_false]
    rfl
  · rw [← State.op?_id ho]
    exact hgone
  · rw [State.byte_congr hmem, State.byte_bcompArrive _ _ _ _ ha, State.byte_congr hwx]
  · rw [← State.cell_of_mem hwx] at harr
    rw [State.cell_of_mem hmem, State.bcompArrive_packed _ harr]

/-- A run with a fault leaves FAULT with an arrival, and a poison entry. -/
theorem execBcompFault_ends {c : Code} (hcode : (s.pack o src dst steps big two).code = some c)
    (hask : s.packAsk o src dst steps (if two then 2 else 1) (s.pack o src dst steps big two) = none)
    (htw : (s.pack o src dst steps big two).tw ≤ s.time) (hroom : (s.metaOf o q).length < 64)
    (hopen : s.mqinitOpen o q = false) :
    ∃ t, exec (.bcompFault n) s = .next t ∧ t.op? n = none ∧ (t.cell cell).fault ≠ 0 ∧
      t.metaOf o q = s.metaOf o q ++ [2 ^ 31] := by
  obtain ⟨hstores, hnum⟩ := s.pack_runOf o src dst steps big two
  generalize hx : s.pack o src dst steps big two = x at *
  let w := x.s.noteTw o x.tw
  let v := if !x.wrote then w else w.spoil o dst (64 * 96 * steps * (if two then 2 else 1))
  have hv : OnlyStores w v := by
    simp only [v]
    split
    · exact .refl w
    · exact w.spoil_onlyStores o dst _
  have hmeta : v.metaOf o q = s.metaOf o q :=
    State.metaOf_of_engines (hv.engines.trans ((x.s.noteTw_engines o x.tw).trans hstores.engines)) o q
  obtain ⟨u, -, hgone, hmem, hentries⟩ := State.bcompEnd_pushed (v := v) (cell := cell) (src := src) (dst := dst)
    (steps := steps) (big := big) (two := two) (es := [2 ^ 31]) (pk := 0) (code := some c) (tw := x.tw)
    ((State.mqinitOpen_of_ops (hv.ops.trans ((x.s.noteTw_ops o x.tw).trans hstores.ops)) o q).trans hopen)
    (by rw [hmeta]; exact hroom)
    (htw.trans_eq (Eq.symm (hv.time.trans ((x.s.noteTw_time o x.tw).trans hstores.time))))
  refine ⟨_, ?_, ?_, ?_, hentries.trans (congrArg (· ++ [2 ^ 31]) hmeta)⟩
  · show execBcompFault n s = _
    unfold execBcompFault
    simp only [ho, hk, hx, hfork, hcode, hask, Bool.not_true, Bool.false_eq_true, if_false]
    rfl
  · rw [← State.op?_id ho]
    exact hgone
  · rw [State.cell_of_mem hmem]
    exact State.bcompArrive_fault _ _ _ (hnum c hcode)

end

/-- Entries that wait enter the queue as far as it has room, and nothing but the queue and the run changes. -/
theorem execMetadataPush_pushes {n : Nat} {s : State} {o : Op} {cell : CellRef} {src dst : Region} {steps : Nat}
    {big two : Bool} {q : Nat} {es : List Nat} {pk : Nat} {code : Option Code} (ho : s.op? n = some o)
    (hk : o.kind = .bcomp cell src dst steps big two q true es pk code) (hopen : s.mqinitOpen o q = false) :
    ∃ t, exec (.metadataPush n) s = .next t ∧
      t.metaOf o q = s.metaOf o q ++ es.take (64 - (s.metaOf o q).length) ∧
      (∃ y, t.op? n = some y ∧
        y.kind = .bcomp cell src dst steps big two q true (es.drop (64 - (s.metaOf o q).length)) pk code) ∧
      t.mem = s.mem ∧ t.groups = s.groups := by
  obtain ⟨hrest, hentries, honly⟩ := s.pushMeta_spec o q es hopen
  have hid := State.op?_id ho
  let y : Op := { o with kind := .bcomp cell src dst steps big two q true (s.pushMeta o q es).2 pk code }
  have hops : (s.pushMeta o q es).1.op? y.id = some o :=
    (State.op?_of_ops ((congrArg State.ops honly).trans rfl) y.id).trans (hid.symm ▸ ho)
  refine ⟨(s.pushMeta o q es).1.putOp y, ?_, hentries, ⟨y, ?_, by rw [← hrest]⟩,
    (congrArg State.mem honly).trans rfl, (congrArg State.groups honly).trans rfl⟩
  · show execMetadataPush n s = _
    unfold execMetadataPush
    simp only [ho, hk]
    rfl
  · rw [← hid]
    exact State.op?_putOp_self (o := y) hops


/-! ### Operations that start at issue (R70, R90) -/

theorem State.recordMem_groups (s : State) (g : Group) (l : Loc) (path : Nat) (write : Bool) :
    (s.recordMem g l path write).groups = s.groups := rfl

theorem DeviceSame.recordMem (s : State) (g : Group) (l : Loc) (path : Nat) (write : Bool) :
    DeviceSame s (s.recordMem g l path write) := DeviceSame.recordG ..

/-- An operation that starts without admissions to tiles is counted on its paths by its group. -/
theorem State.startOp_eq {s : State} {g : Group} {o : Op} (hg : s.group? g.id = some g) (ho : o.admitted = []) :
    s.startOp g o [] [] = (s.addOp o []).setGroup
      { g with flights := g.flights ++ o.paths.map (fun k => { path := k, op := o.id, done := false }) } := by
  unfold State.startOp State.modGroup
  rw [ho]
  have hg' : (s.addOp o []).group? g.id = some g := hg
  dsimp only
  rw [hg']
  rfl

/-! ### Address checks do not read the recorder -/

/-- Two states that differ in the recorder at most. -/
def OnlyRecorder (s t : State) : Prop := t = { s with recorder := t.recorder }

theorem State.opened_onlyRecorder (s : State) (i : Instr) (g : Group) (p : Path) :
    OnlyRecorder s.begun (s.opened i g p) := by
  unfold State.opened
  split <;> rfl

section
variable {s t : State} (h : OnlyRecorder s t)
include h

theorem OnlyRecorder.mem : t.mem = s.mem := (congrArg State.mem h).trans rfl

theorem OnlyRecorder.cellCheck (g : Group) (k : Bool) (off : Nat) : t.cellCheck g k off = s.cellCheck g k off := by
  rw [h]
  rfl

theorem OnlyRecorder.cellRef (g : Group) (k : Bool) (off : Nat) : t.cellRef g k off = s.cellRef g k off := by
  rw [h]
  rfl

theorem OnlyRecorder.walkFrom (va fuel : Nat) : ∀ level table,
    t.walkFrom va fuel level table = s.walkFrom va fuel level table := by
  induction fuel with
  | zero => exact fun _ _ => rfl
  | succ n ih =>
    intro level table
    unfold State.walkFrom
    rw [State.read_of_mem h.mem]
    simp only [ih]

theorem OnlyRecorder.walk (ctx va : Nat) : t.walk ctx va = s.walk ctx va := by
  have hroot : t.desc ctx = s.desc ctx := by
    rw [h]
    rfl
  unfold State.walk
  rw [hroot, h.walkFrom]

theorem OnlyRecorder.through (ctx : Nat) (k : Acc) (window : Bool) (e pbits va size : Nat) :
    t.through ctx k window e pbits va size = s.through ctx k window e pbits va size := by
  rw [h]
  rfl

theorem OnlyRecorder.devXlate (ctx : Nat) (k : Acc) (va size : Nat) :
    t.devXlate ctx k va size = s.devXlate ctx k va size := by
  unfold State.devXlate
  simp only [h.walk, h.through]

theorem OnlyRecorder.devRead (ctx va n : Nat) : t.devRead ctx va n = s.devRead ctx va n := by
  unfold State.devRead
  simp only [h.devXlate, State.read_of_mem h.mem]

theorem OnlyRecorder.cutOff (ctx key : Nat) : t.cutOff ctx key = s.cutOff ctx key := by
  rw [h]
  rfl

theorem OnlyRecorder.targetVia (x : Target) : t.targetVia x = s.targetVia x := by
  rw [h]
  rfl

theorem OnlyRecorder.element (ctx : Nat) (kind : Acc) (w : WinBind) (idx o size : Nat) :
    t.element ctx kind w idx o size = s.element ctx kind w idx o size := by
  have hcut : t.cutOff ctx = s.cutOff ctx := funext (h.cutOff ctx)
  unfold State.element
  simp only [h.devXlate, h.devRead, hcut, h.targetVia]

theorem OnlyRecorder.windowPieces (ctx : Nat) (kind : Acc) (slot idx o size : Nat) :
    t.windowPieces ctx kind slot idx o size = s.windowPieces ctx kind slot idx o size := by
  have hctx : t.ctx? ctx = s.ctx? ctx := by
    rw [h]
    rfl
  unfold State.windowPieces
  simp only [hctx, h.element]

theorem OnlyRecorder.xlate (g : Group) (p : Path) (k : Acc) (window : Bool) (va size : Nat) :
    t.xlate g p k window va size = s.xlate g p k window va size := by
  have htlb : t.tlb? g.id.cluster g.ctx va = s.tlb? g.id.cluster g.ctx va := by
    rw [h]
    rfl
  unfold State.xlate
  simp only [htlb, h.through]

theorem OnlyRecorder.globalPiece (g : Group) (p : Path) (w : Want) (va idx size : Nat) :
    t.globalPiece g p w va idx size = s.globalPiece g p w va idx size := by
  unfold State.globalPiece State.nearPiece
  simp only [h.xlate, h.windowPieces, h.targetVia, h.cutOff]

theorem OnlyRecorder.laneAccess (g : Group) (p : Path) (w : Want) (lane : Nat) (l : Loc) :
    t.laneAccess g p w lane l = s.laneAccess g p w lane l := by
  have hpriv : ∀ k, t.privWord g lane k = s.privWord g lane k := fun k => by
    rw [h]
    rfl
  have hcur : ∀ x, t.current g.hdr g.kid g.crew x = s.current g.hdr g.kid g.crew x := fun x => by
    rw [h]
    rfl
  have hkeys : ∀ x off, t.tileKeys g.hdr g.kid g.crew x off = s.tileKeys g.hdr g.kid g.crew x off := fun x off => by
    rw [h]
    rfl
  have hsize : ∀ sp, t.regionSize g sp = s.regionSize g sp := fun sp => by
    rw [h]
    rfl
  have hlocal : ∀ sp off, t.localKey g w.wide lane sp off = s.localKey g w.wide lane sp off := fun sp off => by
    rw [h]
    rfl
  unfold State.laneAccess
  simp only [h.globalPiece, hpriv, hcur, hkeys, hsize, hlocal]

end

/-! ### Issue of `cpa` and `bcomp` (R202, R217) -/

section
variable {s : State} {i : Instr} {g : Group} {p : Path} {body : State → Group → Path → Res} {m : Mask} {kind : OpKind}
  {parts : List Part} {paths : List Nat} {l : Loc} {path : Nat} {write : Bool}

/-- An instruction whose own part starts an operation and writes its MEM record retires, and leaves the operation in
flight. -/
theorem issue_starts (hr : Ready s i g p) (he : i.info.ends = false) (hexec : exec i s = issue i s body)
    (hb : ∀ u, OnlyRecorder s.begun u → body u g p =
      .done ((u.startOp g (u.newOp g p m kind parts paths []) [] []).recordMem g l path write)) :
    Starts i s g p kind parts paths := by
  have hopen := s.opened_onlyRecorder i g p
  have hid : (s.opened i g p).nextId = s.nextId := (congrArg State.nextId hopen).trans rfl
  have hgroup : (s.opened i g p).group? g.id = some g := hr.group?_opened
  let o := (s.opened i g p).newOp g p m kind parts paths []
  let g' : Group := { g with flights := g.flights ++ paths.map (fun k => { path := k, op := o.id, done := false }) }
  let u := (s.opened i g p).startOp g o [] []
  have hu : u = ((s.opened i g p).addOp o []).setGroup g' := State.startOp_eq hgroup rfl
  have hug : (u.recordMem g l path write).group? g.id = some g' := by
    rw [State.group?_of_groups (u.recordMem_groups g l path write), hu]
    exact State.group?_setGroup_self (g := g') (g' := g) hgroup
  have hothers : OthersSame g.id s (u.recordMem g l path write) := by
    refine (OthersSame.opened s i g p g.id).trans (.trans ?_ (.of_groups (u.recordMem_groups g l path write)))
    rw [hu]
    exact (OthersSame.of_groups rfl).trans (OthersSame.setGroup g')
  obtain ⟨h, hth, hwent, hsp, hfile, ho, hd⟩ := State.finish_spec (s' := u.recordMem g l path write) (i := i) (g := g)
    (g' := g') (p := p) (p' := p) (fin := fun q => q.next i) (pc := p.following i) (stack := p.stack) rfl hug hr.path
    (fun _ _ => rfl) (fun q a b c d e => Path.next_movedTo i a b c d e)
  have hdev := (DeviceSame.recordMem u g l path write).trans hd
  refine ⟨_, h, o, ?_, hth, hdev.ops.trans ?_, rfl, hid, rfl, rfl, rfl, hsp.flights, hwent,
    ⟨hfile.v, hfile.s, hfile.p, hfile.q⟩, { hsp with flights := rfl }, hothers.trans ho, hdev.mem.trans ?_⟩
  · have hissues : (body s.begun g (p.reading i)).issues = true := by
      rw [Path.reading_of_ends p he, hb s.begun rfl]
      rfl
    rw [hexec, issue_issues hr hissues, Path.reading_of_ends p he, hb _ hopen]
    rfl
  · rw [hu]
    exact congrArg (· ++ [o]) (DeviceSame.opened s i g p).ops
  · rw [hu]
    exact (DeviceSame.opened s i g p).mem

end

theorem Group.full_eq_false {g : Group} (h : g.count 5 < 63) : g.full [5] = false := by
  simpa [Group.full] using h

/-- A mask that is not empty has a lane. -/
theorem lanesOf_ne_nil {m : Mask} (h : m ≠ 0) : lanesOf m ≠ [] := by
  intro hnil
  refine h (BitVec.eq_of_getLsbD_eq fun l hl => ?_)
  refine Eq.trans (Bool.eq_false_iff.2 ?_) BitVec.getLsbD_zero.symm
  intro hbit
  have hmem : l ∈ lanesOf m := mem_lanesOf.2 ⟨hl, hbit⟩
  simp [hnil] at hmem

section
variable {s : State} {g : Group} {p : Path}

/-- `cpa` whose addresses pass their checks forks its copies on path 5. -/
theorem execCpa_starts {f : CpaForm} {ps : List (Nat × Piece)} (hr : Ready s (.cpa f) g p) (hact : g.active p f.gd ≠ 0)
    (hcell : s.cellCheck g f.ck (g.rdS p f.c).toNat = none) (hcount : g.count 5 < 63) :
    let n := esizeBytes f.size
    let ls := (lanesOf (g.active p f.gd)).map (fun l => (l, copyLoc g p f.a f.dspace l, copyLoc g p f.b f.sspace l))
    joinLanes (ls.map (fun x => (x.1, pairRes (s.begun.laneAccess g p (copyWant .store n) x.1 x.2.1)
      (s.begun.laneAccess g p (copyWant .load n) x.1 x.2.2)))) = .ok ps →
    let cs := numberCopies (ls.map (fun x => laneCopy g x.1 x.2.1 x.2.2 n ((ps.filter (fun y => y.1 == x.1)).map (·.2))))
    Starts (.cpa f) s g p (.cpa (s.cellRef g f.ck (g.rdS p f.c).toNat) cs (cs.foldl (fun acc c => addNew c.xfer acc) []) [])
      [] [5] := by
  intro n ls hjoin
  obtain ⟨x, xs, hls⟩ : ∃ x xs, ls = x :: xs :=
    List.exists_cons_of_ne_nil fun h => lanesOf_ne_nil hact (List.map_eq_nil_iff.1 h)
  refine issue_starts (m := g.active p f.gd) (l := x.2.1) (path := 5) (write := true) hr rfl
    (Eq.trans (b := execCpa f s) rfl rfl) fun u hu => ?_
  have hcheck : u.cellCheck g f.ck (g.rdS p f.c).toNat = none := (hu.cellCheck ..).trans hcell
  have href : u.cellRef g f.ck (g.rdS p f.c).toNat = s.cellRef g f.ck (g.rdS p f.c).toNat := hu.cellRef ..
  simp only [ls, n] at hjoin hls
  simp only [if_neg hact, hcheck, href, hu.laneAccess, hjoin, Group.full_eq_false hcount, Bool.false_eq_true, if_false]
  split
  · next y ys hy =>
    obtain ⟨rfl, -⟩ := List.cons.inj (hls.symm.trans hy)
    rfl
  · next hy => cases hls.symm.trans hy

/-- `bcomp` whose addresses pass their checks forks its run on path 5. -/
theorem execBcomp_starts {f : BcompForm} (hr : Ready s (.bcomp f) g p) (hact : g.active p f.gd ≠ 0)
    (hcell : s.cellCheck g f.ck (g.rdS p f.c).toNat = none) (hsrc : (g.packRegion p f.a f.sspace).base % 16 = 0)
    (hdst : (g.packRegion p f.b f.dspace).base % 16 = 0) (hcount : g.count 5 < 63) :
    Starts (.bcomp f) s g p (.bcomp (s.cellRef g f.ck (g.rdS p f.c).toNat) (g.packRegion p f.a f.sspace)
      (g.packRegion p f.b f.dspace) (f.n.val + 1) f.big f.two f.q.val false [] 0 none) [] [5] := by
  refine issue_starts (m := g.active p f.gd) (l := { space := f.sspace, a := (g.packRegion p f.a f.sspace).base, handle := 0 })
    (path := 5) (write := false) hr rfl
    (Eq.trans (b := execBcomp f s) rfl rfl) fun u hu => ?_
  have hcheck : u.cellCheck g f.ck (g.rdS p f.c).toNat = none := (hu.cellCheck ..).trans hcell
  have href : u.cellRef g f.ck (g.rdS p f.c).toNat = s.cellRef g f.ck (g.rdS p f.c).toNat := hu.cellRef ..
  have haligned : ((g.packRegion p f.a f.sspace).base % 16 != 0 || (g.packRegion p f.b f.dspace).base % 16 != 0) = false := by
    simp [hsrc, hdst]
  unfold Group.packRegion at *
  simp only [if_neg hact, hcheck, href, haligned, Group.full_eq_false hcount, Bool.false_eq_true, if_false]

end

/-- CPA_TRANSFER of a transfer of one lane, with what it leaves of the operation (R203, R205). -/
theorem execCpaTransfer_completes {n x : Nat} {s : State} {o : Op} {cell : CellRef} {cs : List Copy} {left : List Nat}
    {c : Copy} {d k : Nat} (ho : s.op? n = some o) (hk : o.kind = .cpa cell cs left []) (hleft : x ∈ left)
    (hmine : cs.filter (fun c => c.xfer == x) = [c]) (hgot : c.got = none) (hdst : c.dst = [d])
    (hsrc : c.tileSrc = none) (htile : c.tileDst = none) (hfork : s.forkReady o = true)
    (hsent : s.carried n [c.src, d] = true) (htime : s.writeTime d ≤ s.time)
    (hhigh : ∀ y ∈ cs, c.lane < y.lane → ∀ e ∈ y.dst, overlap d c.size e y.size = false)
    (hcell : overlap cell.key 32 d c.size = false) (hcount : (s.cell cell).addCount (-(c.size : Int)) = some k) :
    ∃ t, exec (.cpaTransfer n x) s = .next t ∧
      (∀ j, j < c.size → t.byte (d + j) = s.byte (c.src + j)) ∧
      (∀ a, (a < d ∨ d + c.size ≤ a) → (a < cell.key ∨ cell.key + 32 ≤ a) → t.byte a = s.byte a) ∧
      (∃ b, t.cell cell = ({ s.cell cell with count := k, bitmap := b } : Cell).stepped) ∧
      (left = [x] → t.op? n = none) := by
  obtain ⟨v, hw, ht⟩ := execCpaTransfer_one ho hk hleft hmine hgot hdst hsrc htile hfork hsent htime hhigh
  refine ⟨_, ht, ?_⟩
  split
  · obtain ⟨hcopied, hkept, hstep⟩ := State.cellDeliver_wrote (State.endOp_mem _ o) hw hcell hcount
    refine ⟨hcopied, hkept, hstep, fun _ => ?_⟩
    rw [← State.op?_id ho]
    exact State.op?_endOp_self _ o
  · next hmore =>
    obtain ⟨hcopied, hkept, hstep⟩ := State.cellDeliver_wrote (State.putOp_mem _ _) hw hcell hcount
    exact ⟨hcopied, hkept, hstep, fun hl => absurd (by simp [hl]) hmore⟩

/-- Settles O27: issue, transfer, run and push each by the lemma above about its event. That a run of `bcomp` is one
step is log 23's choice. -/
theorem copiesAndCompression : Obligations.CopiesAndCompression := by
  unfold Obligations.CopiesAndCompression
  refine ⟨⟨?_, ?_⟩, ?_, ?_, ?_⟩
  · exact fun f s g p ps hr hact hcell hjoin hcount => execCpa_starts hr hact hcell hcount hjoin
  · intro n x s o cell cs left c d k ho hk hleft hmine hgot hdst hsrc htile hfork hsent htime hhigh hcell hcount
    obtain ⟨t, ht, hcopied, hkept, ⟨b, hstep⟩, hgone⟩ := execCpaTransfer_completes ho hk hleft hmine hgot hdst hsrc
      htile hfork hsent htime hhigh hcell hcount
    refine ⟨t, ht, hcopied, hkept, ?_, fun hdone => ?_, fun hopen => ?_, hgone⟩
    · rw [hstep, Cell.stepped_count]
    · rw [hstep]
      exact Cell.stepped_complete hdone.2 hdone.1
    · rw [hstep, Cell.stepped_open hopen]
      exact ⟨rfl, rfl⟩
  · exact fun f s g p hr hact hcell hsrc hdst hcount => execBcomp_starts hr hact hcell hsrc hdst hcount
  · intro n s o cell src dst steps big two q es pk code ho hk hfork
    exact ⟨fun u hu => execBcomp_asks ho hk hfork hu,
      fun hcode hask htw hroom hopen => execBcompFinish_ends ho hk hfork hcode hask htw hroom hopen,
      fun c hcode hask htw hroom hopen => execBcompFault_ends ho hk hfork hcode hask htw hroom hopen⟩
  · exact fun n s o cell src dst steps big two q es pk code ho hk hopen _ => execMetadataPush_pushes ho hk hopen

end Sys2Proof.Machine

/-! ## Safe points, yields and pad words (O16) -/

namespace Sys2Proof.Machine

theorem Path.reading_id (p : Path) (i : Instr) : (p.reading i).id = p.id := by
  unfold Path.reading
  split <;> rfl

/-! ### A path that waits behind its own instruction (R156, R158) -/

/-- Instruction `i` issues and its path waits in `k` behind it, with its lanes, place and return stack; registers,
predicates and the device are as before. -/
def ParksBehind (i : Instr) (s : State) (g : Group) (p : Path) (k : Park) : Prop :=
  ∃ t h q, exec i s = .next t ∧ t.group? g.id = some h ∧ h.path? p.id = some q ∧ q.park = some k ∧
    q.pc = p.following i ∧ q.mask = p.mask ∧ q.stack = p.stack ∧ q.place = p.place ∧ FileSame g h ∧ DeviceSame s t

section
variable {s : State} {i : Instr} {g : Group} {p : Path} {body : State → Group → Path → Res}
  {cont : State → Group → State} {k : Park}

theorem OnlyRecorder.refl (s : State) : OnlyRecorder s s := rfl

theorem OnlyRecorder.preempting {t : State} (h : OnlyRecorder s t) (c : Nat) : t.preempting c = s.preempting c := by
  rw [h]
  rfl

/-- An instruction that does nothing but go on, whatever stands in the recorder. -/
theorem issue_movesTo (hr : Ready s i g p) (hexec : exec i s = issue i s body)
    (hb : ∀ u, OnlyRecorder s.begun u → body u g (p.reading i) = .done u) :
    MovesTo i s g p (p.following i) p.stack := by
  rw [MovesTo, hexec]
  exact issue_done hr (by rw [hb _ (.refl _)]; rfl) (hb _ (s.opened_onlyRecorder i g p)) hr.group?_opened rfl (.refl g)
    (.refl _) (.refl _ _)

/-- An instruction that acts after its issue acts on the retired state and group. -/
theorem issue_after (hr : Ready s i g p)
    (hb : ∀ u, OnlyRecorder s.begun u → body u g (p.reading i) = .after u cont) :
    ∃ t h, issue i s body = .next (cont t h) ∧ Retired s t g h p (p.following i) p.stack ∧ FileSame g h := by
  obtain ⟨h, hret, hfile⟩ := State.finish_retired (i := i) (fin := fun q => q.next i) (DeviceSame.opened s i g p)
    (OthersSame.opened s i g p g.id) (.refl g) hr.group?_opened hr.path (fun _ _ => rfl)
    (fun q a b c d e => Path.next_movedTo i a b c d e)
  refine ⟨_, h, ?_, hret, hfile⟩
  rw [issue_issues hr (by rw [hb _ (.refl _)]; rfl), hb _ (s.opened_onlyRecorder i g p)]
  simp only [State.settle, hret.group]

/-- An instruction that acts after its issue by putting its path in a wait, and changes the recorder besides. -/
theorem issue_parksBehind (hr : Ready s i g p) (hexec : exec i s = issue i s body)
    (hb : ∀ u, OnlyRecorder s.begun u → body u g (p.reading i) = .after u cont)
    (hcont : ∀ t h q, t.group? g.id = some h → h.path? p.id = some q → t.clock = s.clock →
      ∃ u woken, u.groups = t.groups ∧ DeviceSame t u ∧
        cont t h = u.setGroup (h.setPath { q with park := some k, woken := woken })) :
    ParksBehind i s g p k := by
  obtain ⟨t, h, hnext, hret, hfile⟩ := issue_after hr hb
  obtain ⟨q, hq, hmoved⟩ := hret.went.path
  obtain ⟨u, woken, hgroups, hdev, heq⟩ := hcont t h q hret.group hq hret.device.clock
  have hu : u.group? h.id = some h := by
    rw [State.group?_of_groups hgroups, hret.special.id]
    exact hret.group
  let x : Path := { q with park := some k, woken := woken }
  have hset : (u.setGroup (h.setPath x)).group? h.id = some (h.setPath x) :=
    State.group?_setGroup_self (g := h.setPath x) hu
  have hpath : (h.setPath x).path? x.id = some x :=
    Group.path?_setPath_self (p := q) ((congrArg h.path? hmoved.id).trans hq)
  refine ⟨_, h.setPath x, x, hexec.trans (hnext.trans (congrArg _ heq)), hret.special.id ▸ hset, ?_, rfl, hmoved.pc,
    hmoved.mask, hmoved.stack, hmoved.place, hfile.trans ⟨rfl, rfl, rfl, rfl⟩,
    (hret.device.trans hdev).trans (DeviceSame.setGroup ..)⟩
  rw [← hmoved.id]
  exact hpath

/-! ### Safe points (R117, R156) -/

/-- Without a pre-emption of its context a safe point only goes on. -/
theorem safept_movesTo {live : Word} (hr : Ready s i g p) (hexec : exec i s = issue i s (safeptBody live))
    (hp : s.preempting g.ctx = false) : MovesTo i s g p (p.following i) p.stack :=
  issue_movesTo hr hexec fun u hu => by
    have hpre : u.preempting g.ctx = false := (hu.preempting _).trans hp
    simp [safeptBody, hpre]

/-- Under a pre-emption of its context a safe point parks its path behind it. -/
theorem safept_parksBehind {live : Word} (hr : Ready s i g p) (hexec : exec i s = issue i s (safeptBody live))
    (hp : s.preempting g.ctx = true) : ParksBehind i s g p (.safept live) := by
  refine issue_parksBehind hr hexec (fun u hu => if_pos ((hu.preempting _).trans hp)) fun t h q hg hq _ => ?_
  refine ⟨t.sched h 1 (p.reading i).mask (p.reading i).pc 15, false, rfl, DeviceSame.recordG .., ?_⟩
  have hself : (t.sched h 1 (p.reading i).mask (p.reading i).pc 15).group? h.id = some h := by
    rw [State.group?_id hg]
    exact hg
  simp only [State.modGroup, hself, Path.reading_id, hq]

/-! ### Yields (R158) -/

theorem yield_movesTo {gd : Guard} (hr : Ready s (.yield gd) g p) (hg : g.guard gd = false) :
    MovesTo (.yield gd) s g p (p.following (.yield gd)) p.stack := by
  have hexec : exec (.yield gd) s = execYield gd s := rfl
  exact issue_movesTo hr hexec fun _ _ => if_pos (by rw [hg]; rfl)

theorem yield_parksBehind {gd : Guard} (hr : Ready s (.yield gd) g p) (hg : g.guard gd = true) :
    ParksBehind (.yield gd) s g p (.yield (s.clock + 16)) := by
  have hexec : exec (.yield gd) s = execYield gd s := rfl
  refine issue_parksBehind hr hexec (fun _ _ => if_neg (by simp [hg])) fun t h q _ hq hclock => ?_
  refine ⟨t, q.woken, rfl, .refl t, ?_⟩
  simp only [Path.reading_id, hq, hclock]

end

/-! ### Pad words (R125) -/

section
variable {w : Word} {s : State} {g : Group} {p : Path}

theorem execPadWord_eq (hi : s.issuer = some (g.id, p.id)) (hg : s.group? g.id = some g) (hp : g.path? p.id = some p) :
    exec (.padWord w) s =
      if w = 3 then
        .next (s.begun.setGroup (g.setPath { p with pc := BitVec.ofNat 64 ((p.pc.toNat / 32 + 1) * 32) }))
      else .next (s.begun.trapAt g p .padNonzero 0) := by
  show execPadWord w s = _
  simp only [execPadWord, hi, hg, hp]
  rfl

/-- The pad word of R125 moves its path to the next 32-byte boundary and does nothing else. -/
theorem execPadWord_skips (hi : s.issuer = some (g.id, p.id)) (hg : s.group? g.id = some g)
    (hp : g.path? p.id = some p) : ∃ t h q, exec (.padWord 3) s = .next t ∧ t.group? g.id = some h ∧
      h.path? p.id = some q ∧ q.pc = BitVec.ofNat 64 ((p.pc.toNat / 32 + 1) * 32) ∧ q.mask = p.mask ∧
      q.stack = p.stack ∧ FileSame g h ∧ DeviceSame s t ∧ OthersSame g.id s t := by
  let q : Path := { p with pc := BitVec.ofNat 64 ((p.pc.toNat / 32 + 1) * 32) }
  have hgroup : (s.begun.setGroup (g.setPath q)).group? g.id = some (g.setPath q) :=
    State.group?_setGroup_self (g := g.setPath q) hg
  have hothers : OthersSame g.id s (s.begun.setGroup (g.setPath q)) :=
    (OthersSame.begun g.id s).trans (OthersSame.setGroup (g.setPath q))
  exact ⟨_, _, q, (execPadWord_eq hi hg hp).trans (if_pos rfl), hgroup, Group.path?_setPath_self (q := q) hp, rfl, rfl,
    rfl, ⟨rfl, rfl, rfl, rfl⟩, (DeviceSame.begun s).trans (DeviceSame.setGroup ..), hothers⟩

end

/-- Settles O16: safe points and yields go on or park by the lemmas above, a pad word skips or traps by its equation.
That the trap names the lowest lane of the path is log 12's choice. -/
theorem safePointsYieldsAndPads : Obligations.SafePointsYieldsAndPads := by
  unfold Obligations.SafePointsYieldsAndPads
  refine ⟨⟨?_, ?_, ?_⟩, ?_⟩
  · exact fun s g p hr => ⟨safept_movesTo hr rfl, safept_parksBehind hr rfl⟩
  · exact fun m s g p hr => ⟨safept_movesTo hr rfl, safept_parksBehind hr rfl⟩
  · intro gd s g p hr
    refine ⟨yield_movesTo hr, fun hg => ?_⟩
    obtain ⟨t, h, q, hexec, hgroup, hpath, hpark, hpc, hmask, hstack, -, hfile, hdev⟩ := yield_parksBehind hr hg
    exact ⟨t, h, q, hexec, hgroup, hpath, hpc, hmask, hstack, hpark, hfile, hdev⟩
  · intro w s g p hi hg hp
    refine ⟨fun hw => ?_, fun hw => (execPadWord_eq hi hg hp).trans (if_neg hw)⟩
    subst hw
    exact execPadWord_skips hi hg hp

end Sys2Proof.Machine

/-! ## Moves, selection, state registers and rinfo (O9) -/

namespace Sys2Proof.Machine

theorem wregs_cases (w64 : Bool) : wregs w64 = 1 ∨ wregs w64 = 2 := by
  cases w64
  · exact .inl rfl
  · exact .inr rfl

theorem SReg.regs_cases (r : SReg) : r.regs = 1 ∨ r.regs = 2 := by
  cases r <;> simp [SReg.regs]

/-! ### State registers and the reorder record do not read the recorder -/

theorem OnlyRecorder.sreg {s t : State} (h : OnlyRecorder s t) (g : Group) (r : SReg) (lane : Nat) :
    t.sreg g r lane = s.sreg g r lane := by
  rw [h]
  rfl

theorem OnlyRecorder.rinfo {s t : State} (h : OnlyRecorder s t) (g : Group) (sel : RSel) (lane : Nat) :
    t.rinfo g sel lane = s.rinfo g sel lane := by
  rw [h]
  rfl

/-- A read of the machine's state into registers: what is read does not depend on the recorder. -/
theorem stateRead_result {s : State} {i : Instr} {g : Group} {p : Path} {wide : Bool} {gd : Guard} {n : Nat} {d : Reg}
    {val : State → Group → Nat → DWord} (hr : Ready s i g p)
    (hx : exec i s = issue i s (fun u g p => .done (u.setGroup (g.setLanes n d (g.acting p wide gd) (val u g)))))
    (he : i.info.ends = false) (hval : ∀ u, OnlyRecorder s.begun u → val u g = val s g)
    (hd : Fits d n ∧ (192 ≤ d.code → wide = true)) :
    LaneResult i s g p n d (g.acting p wide gd) (val s g) := by
  obtain ⟨hfits, hwide⟩ := hd
  let g' := g.setLanes n d (g.acting p wide gd) (val s g)
  have ho : OnlyFile g g' := OnlyFile.setLanes ..
  have hid : g'.id = g.id := ho.special.id
  have hg' : ((s.opened i g p).setGroup g').group? g.id = some g' :=
    hid ▸ State.group?_setGroup_self (g := g') (hid.symm ▸ hr.group?_opened)
  obtain ⟨t, h, hn, hret, hf⟩ := issue_done hr
    (body := fun u g p => .done (u.setGroup (g.setLanes n d (g.acting p wide gd) (val u g)))) (g' := g') rfl
    (by rw [Path.reading_of_ends p he, hval _ (s.opened_onlyRecorder i g p)]) hg' ho.paths ho.special
    (DeviceSame.setGroup ..) (hid ▸ OthersSame.setGroup g')
  exact ⟨t, h, hx.trans hn, hret, hf.wrote (Wrote.setLanes hfits g _ _ (fun _ => Group.acting_lt) fun hc => by
    rw [hwide hc]
    exact Group.acting_wide ..), hf.predsSame (PredsSame.setLanes ..)⟩

/-- Settles O9: moves and `sel` are lane-wise, and `getsr` and `rinfo` read what the recorder does not touch. -/
theorem moveResults : Obligations.MoveResults := by
  unfold Obligations.MoveResults
  refine ⟨fun f s g p hr => ?_, fun f s g p hr => ?_, fun f s g p hr => ?_, fun f s g p hr => ?_,
    fun f s g p hr => ?_, fun f s g p hr => ?_⟩ <;> have hwf := hr.wf <;>
    simp only [Instr.wf, Bool.and_eq_true] at hwf
  · obtain ⟨⟨-, hdest⟩, -⟩ := hwf
    obtain ⟨hd, hw⟩ := Fits.of_ok (wregs_cases f.w64) hdest
    exact lanewise_result hr rfl rfl hd hw
  · obtain ⟨-, hdest⟩ := hwf
    obtain ⟨hd, hw⟩ := Fits.of_ok (.inl rfl) hdest
    exact lanewise_result hr rfl rfl hd hw
  · obtain ⟨-, hdest⟩ := hwf
    obtain ⟨hd, hw⟩ := Fits.of_ok (.inr rfl) hdest
    exact lanewise_result hr rfl rfl hd hw
  · obtain ⟨⟨⟨-, hdest⟩, -⟩, -⟩ := hwf
    obtain ⟨hd, hw⟩ := Fits.of_ok (wregs_cases f.w64) hdest
    exact lanewise_result hr rfl rfl hd hw
  · obtain ⟨⟨-, hdest⟩, -⟩ := hwf
    exact stateRead_result (val := fun u g l => u.sreg g f.sel l) hr rfl rfl
      (fun _ hu => funext fun l => hu.sreg g f.sel l) (Fits.of_ok (SReg.regs_cases f.sel) hdest)
  · obtain ⟨⟨-, hdest⟩, -⟩ := hwf
    exact stateRead_result (val := fun u g l => (u.rinfo g f.sel l).zeroExtend 64) hr rfl rfl
      (fun _ hu => funext fun l => congrArg (BitVec.zeroExtend 64) (hu.rinfo g f.sel l))
      (Fits.of_ok (.inl rfl) hdest)

end Sys2Proof.Machine

/-! ## Group predicates, votes, broadcasts and masks (O10) -/

namespace Sys2Proof.Machine

/-- A word written to a group-wide register is the low word of its 64-bit value. -/
theorem Group.setS_eq (g : Group) (d : Fin 64) (w : Word) : g.setS d w = g.wrN 1 (.s d) 0 (w.zeroExtend 64) := by
  have hw : (w.zeroExtend 64).extractLsb' 0 32 = w := by
    ext i hi
    simp [hi, show i < 64 by omega]
  show g.setReg (192 + d.val) 0 w = g.setReg (192 + d.val) 0 ((w.zeroExtend 64).extractLsb' 0 32)
  rw [hw]

/-- So is a number that is written to one. -/
theorem Group.setS_ofNat (g : Group) (d : Fin 64) (n : Nat) :
    g.setS d (BitVec.ofNat 32 n) = g.wrN 1 (.s d) 0 (BitVec.ofNat 64 n) := by
  have hw : (BitVec.ofNat 64 n).extractLsb' 0 32 = BitVec.ofNat 32 n := by
    apply BitVec.eq_of_toNat_eq
    simp
  show g.setReg (192 + d.val) 0 (BitVec.ofNat 32 n) =
    g.setReg (192 + d.val) 0 ((BitVec.ofNat 64 n).extractLsb' 0 32)
  rw [hw]

section
variable {s : State} {i : Instr} {g : Group} {p : Path} {gd : Guard} {d : Fin 64}

/-- An instruction that puts a word in a group-wide register, once. -/
theorem onceWord_result {w : Group → Path → Word} (hr : Ready s i g p) (he : i.info.ends = false)
    (hx : exec i s = issue i s (once gd (fun g p => g.setS d (w g p)))) :
    LaneResult i s g p 1 (.s d) (g.onceLanes gd) (fun _ => (w g p).zeroExtend 64) :=
  onceS_result (f := fun g p => (w g p).zeroExtend 64) hr he (.inl rfl) (by simpa only [Group.setS_eq] using hx)

/-- The same for a number. -/
theorem onceNumber_result {n : Group → Path → Nat} (hr : Ready s i g p) (he : i.info.ends = false)
    (hx : exec i s = issue i s (once gd (fun g p => g.setS d (BitVec.ofNat 32 (n g p))))) :
    LaneResult i s g p 1 (.s d) (g.onceLanes gd) (fun _ => BitVec.ofNat 64 (n g p)) :=
  onceS_result (f := fun g p => BitVec.ofNat 64 (n g p)) hr he (.inl rfl) (by simpa only [Group.setS_ofNat] using hx)

end

/-- The destination of a broadcast is one register or an even pair. -/
theorem Fits.of_bcast {w64 : Bool} {d : Fin 64} {gd : Guard} {even : Bool}
    (h : (gd.grp && (!w64 || (evenS d && even))) = true) : Fits (.s d) (wregs w64) := by
  cases w64 with
  | false => exact .inl rfl
  | true =>
    have hd : d.val % 2 = 0 := by simpa [evenS] using (show evenS d = true by simp_all)
    exact .inr ⟨rfl, by simp only [Reg.code]; omega⟩

theorem execFfs_eq (gd : Guard) (d a : Fin 64) (s : State) : execFfs gd d a s = issue (.ffs gd d a) s
    (once gd (fun g p => g.setS d (BitVec.ofNat 32 (((lanesOf (g.rdS p a)).head?).getD 32)))) := by
  unfold execFfs
  refine congrArg (fun f => issue (.ffs gd d a) s (once gd f)) (funext fun g => funext fun p => ?_)
  cases (lanesOf (g.rdS p a)).head? <;> rfl

/-- Settles O10: each instruction acts once under its guard, on a group predicate, a group-wide register or a pair. -/
theorem groupWideResults : Obligations.GroupWideResults := by
  unfold Obligations.GroupWideResults
  refine ⟨?_, ?_, ?_, ?_, ?_, ?_, ?_, ?_, ?_, ?_, ?_, ?_, ?_⟩
  · exact fun gd d a s g p hr => onceQ_result (b := fun g p => g.rdS p a != 0) hr rfl rfl
  · exact fun gd d a b s g p hr => onceQ_result (b := fun g _ => g.qpred a.val && g.qpred b.val) hr rfl rfl
  · exact fun gd d a b s g p hr => onceQ_result (b := fun g _ => g.qpred a.val || g.qpred b.val) hr rfl rfl
  · exact fun gd d a s g p hr => onceQ_result (b := fun g _ => !g.qpred a.val) hr rfl rfl
  · exact fun gd d b s g p hr => onceWord_result (w := fun g p => p.mask &&& g.pred b.val) hr rfl rfl
  · exact fun gd d b s g p hr => onceQ_result (b := fun g p => p.mask &&& g.pred b.val != 0) hr rfl rfl
  · exact fun gd d b s g p hr => onceQ_result (b := fun g p => p.mask &&& ~~~(g.pred b.val) == 0) hr rfl rfl
  · exact fun gd d a s g p hr => onceQ_result (b := fun g p =>
      (lanesOf p.mask).all (fun l => g.rd p a.val l == g.rd p a.val (lowLane p.mask))) hr rfl rfl
  · intro gd w64 d a b s g p hr
    cases b with
    | none =>
      exact onceS_result (f := fun g p => g.rdN p (wregs w64) (.v a) (lowLane p.mask)) hr rfl (.of_bcast hr.wf) rfl
    | some r =>
      exact onceS_result (f := fun g p => g.rdN p (wregs w64) (.v a) ((g.rdS p r).toNat % 32)) hr rfl
        (.of_bcast hr.wf) rfl
  · exact fun gd w64 d a l s g p hr =>
      onceS_result (f := fun g p => g.rdN p (wregs w64) (.v a) l.val) hr rfl (.of_bcast hr.wf) rfl
  · exact fun gd d s g p hr => onceWord_result (w := fun _ p => p.mask) hr rfl rfl
  · exact fun gd d a s g p hr => onceNumber_result (n := fun g p => (lanesOf (g.rdS p a)).length) hr rfl rfl
  · exact fun gd d a s g p hr => onceNumber_result hr rfl (execFfs_eq gd d a s)

end Sys2Proof.Machine

/-! ## Reconvergence where two paths share a number (O12)

The statement supposes `Ready` alone, which lets two paths of the group have one number. The `rcv` that completes its
token takes the parked paths off by number and then puts the issuing path back by number, so that the other path of
that number stands again where it was parked. -/

namespace Sys2Proof.Machine

/-- A path of one lane at address 0, in a slot. -/
def lonePath (mask : Mask) (slot : Fin 2) (park : Option Park) : Path where
  id := 0
  pc := 0
  mask := mask
  stack := []
  place := .slot slot
  dtime := 0
  park := park
  windows := []
  failed := []
  timedOut := false

/-- A group with two paths of number 0: token 0 expects lane 0, the lane of the first; the second is parked at it. -/
def twinGroup : Group :=
  { fetchGroup with tokE := [(0, 1)], paths := [lonePath 1 0 none, lonePath 2 1 (some (.rcv 0))] }

/-- The group is about to issue from path 0. -/
def twins : State := { State.reset with issuer := some (twinGroup.id, 0), groups := [twinGroup] }

/-- Number and park of each path of the groups after an instruction. -/
def parksAfter (r : Host.Outcome State Fault Refusal) : List (List (Nat × Option Park)) :=
  match r with
  | .next t => t.groups.map (fun (h : Group) => h.paths.map (fun (p : Path) => (p.id, p.park)))
  | _ => []

theorem twins_ready : Ready twins (.rcv 0) twinGroup (lonePath 1 0 none) :=
  ⟨rfl, rfl, by decide, by decide, by decide⟩

theorem twins_after : parksAfter (exec (.rcv 0) twins) = [[(0, none), (0, some (.rcv 0))]] := by decide

/-- Any group that the instruction leaves has a path parked at token 0. -/
theorem twins_still_parked {t : State} {h : Group} (ht : exec (.rcv 0) twins = .next t)
    (hg : t.group? twinGroup.id = some h) : ∃ r ∈ h.paths, r.park = some (.rcv 0) := by
  have hmem : h.paths.map (fun p => (p.id, p.park)) ∈ parksAfter (exec (.rcv 0) twins) := by
    rw [ht]
    exact List.mem_map_of_mem (List.mem_of_find?_eq_some hg)
  rw [twins_after, List.mem_singleton] at hmem
  have hr : (0, some (.rcv 0)) ∈ h.paths.map (fun p => (p.id, p.park)) := by simp [hmem]
  obtain ⟨r, hr, he⟩ := List.mem_map.mp hr
  exact ⟨r, hr, congrArg Prod.snd he⟩

/-- Refutes O12: `Ready` does not exclude two paths of one number, and in `twins` the second of them is still parked
at the token after the `rcv` that completes it. -/
theorem not_divergenceAndReconvergence : ¬ Obligations.DivergenceAndReconvergence := by
  unfold Obligations.DivergenceAndReconvergence
  intro hall
  obtain ⟨-, -, hrcv⟩ := hall
  obtain ⟨-, -, hcompletes, -⟩ := hrcv 0 twins twinGroup (lonePath 1 0 none) twins_ready
  obtain ⟨t, h, q, ht, hh, -, -, -, -, -, -, hnone, -⟩ :=
    hcompletes (by decide) (by decide) (by decide) (by decide)
  obtain ⟨r, hr, hpark⟩ := twins_still_parked ht hh
  exact hnone r hr hpark

end Sys2Proof.Machine

/-! ## A save whose written-back line ends another context's wait (O49)

The fourth clause says that the save's step which writes the private lines back leaves every group as it was. The step
first performs the write-backs in flight of the line (R62, log 17), and a word that is written releases the waits whose
threshold it meets, whatever the context of their groups (R276). -/

namespace Sys2Proof.Machine

/-- A private line of context 0 that holds a written byte. -/
def dirtyLine : L1Line where
  cluster := 0
  core := 0
  line := 0
  kind := .priv 0
  ctx := 0
  stamp := 0
  bytes := []
  valid := 1
  dirty := 1

/-- The part of a write-back that has yet to write 1 in the 8 bytes at key 0. -/
def linePart : Part where
  lane := 0
  who := .thread 0 0
  idx := 0
  path := 1
  key := 0
  size := 8
  via := .slice 0
  b := 1
  c := 0
  got := none
  fwdMask := 0
  fwd := 0
  done := false
  tw := 0
  sysDone := false
  stamp := 0

/-- A path that waits at the word of key 0 for the value 1. -/
def watchPath : Path where
  id := 0
  pc := 0
  mask := 1
  stack := []
  place := .slot 0
  dtime := 0
  park := some (.tlwait 0 0 1 false false none)
  windows := []
  failed := []
  timedOut := false

/-- A group of context 1 that watches. -/
def watchGroup : Group := { fetchGroup with id := ⟨0, 1, 0⟩, ctx := 1, paths := [watchPath] }

/-- Context 0 saves; a private line of its stands on core 0 of cluster 0, with a write-back of that core in flight. -/
def watched : State :=
  { State.reset with
    ctxs := [{ Ctx.blank 0 with st := .saving }]
    groups := [watchGroup]
    ops := [dirtyLine.backOp 0 [linePart]]
    l1 := [dirtyLine] }

/-- The parks of the paths of the groups after an instruction. -/
def waitsAfter (r : Host.Outcome State Fault Refusal) : List (List (Option Park)) :=
  match r with
  | .next t => t.groups.map (fun (h : Group) => h.paths.map (fun (p : Path) => p.park))
  | _ => []

/-- The wait is released: its threshold is 0. -/
theorem watched_after :
    waitsAfter (exec (.saveComplete 0) watched) = [[some (.tlwait 0 0 0 false false none)]] := by decide

/-- Refutes O49: in `watched` the completion of context 0's save changes the group of context 1. -/
theorem not_savesAndContainment : ¬ Obligations.SavesAndContainment := by
  unfold Obligations.SavesAndContainment
  intro hall
  obtain ⟨-, -, -, hwritesBack, -⟩ := hall
  obtain ⟨t, ht, -, -, hgroups, -⟩ :=
    hwritesBack 0 watched { Ctx.blank 0 with st := .saving } (by decide) rfl (by decide) ⟨dirtyLine, by decide, rfl⟩
  have hafter := watched_after
  rw [ht] at hafter
  simp only [waitsAfter, hgroups] at hafter
  exact absurd hafter (by decide)

end Sys2Proof.Machine

/-! ## Transfers and traps at issue (O11, O17)

What an instruction's own part that traps, jumps, or changes the group alone comes to, once the issue has settled it. -/

namespace Sys2Proof.Machine

/-! ### Doublewords written in order (R3) -/

theorem WroteWords.of_mem {s s' t t' : State} {key : Nat} {ws : List Nat} (h : WroteWords s t key ws)
    (hs : s'.mem = s.mem) (ht : t'.mem = t.mem) : WroteWords s' t' key ws := by
  intro a
  rw [State.byte_congr ht, State.byte_congr hs]
  exact h a

theorem WroteWords.writeWords (ws : List Nat) : ∀ (s : State) (key : Nat),
    WroteWords s (s.writeWords key ws) key ws := by
  induction ws with
  | nil =>
    intro s key a
    exact (if_neg (by simp)).symm
  | cons w ws ih =>
    intro s key a
    have hlen : (w :: ws).length = ws.length + 1 := rfl
    rw [State.writeWords_cons, ih (s.write key 8 w) (key + 8) a, State.byte_write 8 s key w a, hlen]
    by_cases hlow : key ≤ a ∧ a < key + 8
    · rw [if_neg (by omega), if_pos hlow, if_pos (by omega), show (a - key) / 8 = 0 by omega,
        show (a - key) % 8 = a - key by omega]
      rfl
    · by_cases hhigh : key + 8 ≤ a ∧ a < key + 8 + 8 * ws.length
      · rw [if_pos hhigh, if_pos (by omega), show (a - key) / 8 = (a - (key + 8)) / 8 + 1 by omega,
          show (a - key) % 8 = (a - (key + 8)) % 8 by omega]
        rfl
      · rw [if_neg hhigh, if_neg hlow, if_neg (by omega)]

theorem OnlyMem.writeWords (ws : List Nat) : ∀ (s : State) (key : Nat), OnlyMem s (s.writeWords key ws) := by
  induction ws with
  | nil => exact fun s _ => .refl s
  | cons w ws ih =>
    intro s key
    rw [State.writeWords_cons]
    exact (OnlyMem.write 8 s key w).trans (ih _ (key + 8))

theorem OnlyMem.keepDeep (s : State) (g : Group) (p : Path) : OnlyMem s (s.keepDeep g p) := .writeWords ..

/-! ### Settling beside storage -/

/-- The end of an issue neither reads nor changes storage. -/
theorem State.finish_withMem (s : State) (m : SMap Byte) (i : Instr) (g : Group) (p : Path) (fin : Path → Path) :
    ({ s with mem := m } : State).finish i g p fin = { s.finish i g p fin with mem := m } := by
  have hctx : ∀ f : Ctx → Ctx,
      ({ s with mem := m } : State).modCtx g.ctx f = { s.modCtx g.ctx f with mem := m } := by
    intro f
    simp only [State.modCtx, State.ctx?]
    split <;> rfl
  have hgroup : ∀ (u : State) (f : Group → Group),
      ({ u with mem := m } : State).modGroup g.id f = { u.modGroup g.id f with mem := m } := by
    intro u f
    simp only [State.modGroup, State.group?]
    split <;> rfl
  let v := s.modCtx g.ctx (fun c => { c with watchStart := none })
  let u := ((v.endYields g.id p.id).slot g.kid (quadOf g.id.cluster g.id.core)).countIssue g
  unfold State.finish
  rw [hctx]
  exact hgroup u (fun h => h.closeIssue p u.clock i.info.ends fin)

theorem OnlyMem.finish {s t : State} (h : OnlyMem s t) (i : Instr) (g : Group) (p : Path) (fin : Path → Path) :
    t.finish i g p fin = { s.finish i g p fin with mem := t.mem } := by
  conv => lhs; rw [h]
  exact s.finish_withMem t.mem i g p fin

theorem OnlyRecorder.desc {s t : State} (h : OnlyRecorder s t) (c : Nat) : t.desc c = s.desc c := by
  rw [h]
  rfl

theorem OnlyRecorder.deepKey {s t : State} (h : OnlyRecorder s t) (g : Group) (p : Path) :
    t.deepKey g p = s.deepKey g p := by
  simp only [State.deepKey, h.desc]

/-! ### An issue by what its own part answers -/

section
variable {s : State} {i : Instr} {g : Group} {p : Path} {body : State → Group → Path → Res}

/-- An own part that traps makes the instruction trap at its own address. -/
theorem issue_trapsIn {c : Code} {lane : Nat} (hr : Ready s i g p) (hexec : exec i s = issue i s body)
    (hb : body s.begun g (p.reading i) = .trap c lane 0 0) : TrapsIn i s g p c lane := by
  rw [TrapsIn, hexec, issue_ready hr, hb]
  simp only [Res.issues, Bool.and_false, Bool.false_eq_true, if_false]
  rfl

/-- An own part that only jumps moves the path. -/
theorem issue_jumpsTo {pc : DWord} (hr : Ready s i g p) (hexec : exec i s = issue i s body)
    (hb : ∀ u, body u g (p.reading i) = .jump u pc) : MovesTo i s g p pc p.stack := by
  rw [MovesTo, hexec]
  exact issue_jump hr (by rw [hb]; rfl) (hb _) hr.group?_opened hr.path rfl rfl (fun _ _ => rfl) (.refl g) (.refl _)
    (.refl _ _)

theorem SpecialSame.setPath (g : Group) (q : Path) : SpecialSame g (g.setPath q) := by
  constructor <;> rfl

/-- An own part that jumps with another return stack moves the path and its stack. -/
theorem issue_popsTo {pc : DWord} {rest : List DWord} (hr : Ready s i g p) (hexec : exec i s = issue i s body)
    (hb : ∀ u : State, body u g (p.reading i) = .jump (u.setGroup (g.setPath { p with stack := rest })) pc) :
    MovesTo i s g p pc rest := by
  let q : Path := { p with stack := rest }
  have hpath : (g.setPath q).path? p.id = some q := Group.path?_setPath_self (q := q) hr.path
  rw [MovesTo, hexec]
  obtain ⟨t, h, hnext, hret, hfile⟩ := issue_jump (s' := (s.opened i g p).setGroup (g.setPath q)) hr
    (by rw [hb]; rfl) (hb _) (State.group?_setGroup_self (g := g.setPath q) hr.group?_opened) hpath rfl rfl
    (fun k hk => Group.path?_setPath_ne hk) (.setPath g q) (.setGroup ..) (OthersSame.setGroup (g.setPath q))
  exact ⟨t, h, hnext, hret, ⟨hfile.v, hfile.s, hfile.p, hfile.q⟩⟩

/-- An own part that calls moves the path, pushes the address after the instruction, and keeps the addresses below
the top eight. -/
theorem issue_callsTo {pc : DWord} (hr : Ready s i g p) (hexec : exec i s = issue i s body)
    (hb : ∀ u : State, body u g (p.reading i) = callTo i pc u g p) (hroom : p.stack.length < 256) :
    CallsTo i s g p pc := by
  let q : Path := { p with stack := p.following i :: p.stack }
  let v : State := (s.opened i g p).setGroup (g.setPath q)
  let fin : Path → Path := fun x => { x.next i with pc := pc }
  have hcall : ∀ u : State, body u g (p.reading i) = .jump ((u.setGroup (g.setPath q)).keepDeep g q) pc := fun u =>
    (hb u).trans (if_neg (by omega))
  have hmem : v.mem = s.mem := (State.setGroup_mem ..).trans (DeviceSame.opened s i g p).mem
  obtain ⟨h, hret, hfile⟩ := State.finish_retired (i := i) (g := g) (p := p) (s' := v) (g' := g.setPath q) (p' := q)
    (fin := fin)
    ((DeviceSame.opened s i g p).trans (.setGroup ..))
    ((OthersSame.opened s i g p g.id).trans (OthersSame.setGroup (g.setPath q))) (.setPath g q)
    (State.group?_setGroup_self (g := g.setPath q) hr.group?_opened) (Group.path?_setPath_self (q := q) hr.path)
    (fun k hk => congrArg _ (Group.path?_setPath_ne (q := q) hk))
    (stack := q.stack) (fun x hid _ hmask hstack hplace => ⟨hid, rfl, hmask, hplace, hstack, rfl⟩)
  have hfin := (OnlyMem.keepDeep v g q).finish i g p fin
  refine ⟨(v.keepDeep g q).finish i g p fin, h, ?_, ?_, ⟨hfile.v, hfile.s, hfile.p, hfile.q⟩, ?_⟩
  · rw [hexec, issue_issues hr (by rw [hcall]; rfl), hcall]
    rfl
  · have hsame : ({ (v.keepDeep g q).finish i g p fin with mem := s.mem } : State) = v.finish i g p fin := by
      rw [hfin, ← hret.device.mem]
    rw [hsame]
    exact hret
  · have hkey : v.deepKey g q = s.deepKey g p := (s.opened_onlyRecorder i g p).deepKey g p
    have hwrote : WroteWords v (v.keepDeep g q) (v.deepKey g q) q.deep := .writeWords q.deep v _
    rw [hkey] at hwrote
    exact hwrote.of_mem hmem.symm (State.finish_mem ..)

/-- An own part that calls with a full return stack raises SPACE_BOUNDS. -/
theorem issue_callTraps {pc : DWord} (hr : Ready s i g p) (hexec : exec i s = issue i s body)
    (hb : ∀ u : State, body u g (p.reading i) = callTo i pc u g p) (hfull : 256 ≤ p.stack.length) :
    Traps i s g p .spaceBounds :=
  issue_trapsIn hr hexec ((hb _).trans (if_pos hfull))

end

theorem oddTarget_false {t : DWord} (h : t.toNat % 4 = 0) : oddTarget t = false := by
  simp [oddTarget, h]

theorem oddTarget_true {t : DWord} (h : t.toNat % 4 ≠ 0) : oddTarget t = true := by
  simp [oddTarget, h]

end Sys2Proof.Machine

/-! ## setsr (O17) -/

namespace Sys2Proof.Machine

section
variable {s : State} {g : Group} {p : Path} {gd : Guard} {a : Fin 64}

/-- The address that `setsr` reads, with the path's windows ended (R139). -/
def setsrValue (g : Group) (p : Path) (a : Fin 64) : DWord := g.rd64 { p with windows := [] } (192 + a.val) 0

/-- The own part of `setsr`. -/
def setsrBody (gd : Guard) (a : Fin 64) (s : State) (g : Group) (p : Path) : Res :=
  let v := g.rd64 p (192 + a.val) 0
  if !g.guard gd then .done s
  else if oddTarget v then .trap .misalignedTarget (lowLane p.mask) 0 0
  else .done (s.setGroup { g with handler := v })

theorem exec_setsr (gd : Guard) (a : Fin 64) (s : State) :
    exec (.setsr gd a) s = issue (.setsr gd a) s (setsrBody gd a) := rfl

theorem setsrBody_writes (u : State) (hg : g.guard gd = true) (hv : (setsrValue g p a).toNat % 4 = 0) :
    setsrBody gd a u g (p.reading (.setsr gd a)) = .done (u.setGroup { g with handler := setsrValue g p a }) := by
  have hodd : oddTarget (setsrValue g p a) = false := oddTarget_false hv
  unfold setsrBody
  dsimp only
  rw [if_neg (by simp [hg])]
  exact if_neg (by rw [← Bool.not_eq_true] at hodd; exact hodd)

theorem setsrBody_traps (u : State) (hg : g.guard gd = true) (hv : (setsrValue g p a).toNat % 4 ≠ 0) :
    setsrBody gd a u g (p.reading (.setsr gd a)) = .trap .misalignedTarget (lowLane p.mask) 0 0 := by
  unfold setsrBody
  dsimp only
  rw [if_neg (by simp [hg])]
  exact if_pos (oddTarget_true hv)

end

/-- Settles O17, by the three answers of `setsr`'s own part; the lane of the trap is log 12's choice. -/
theorem handlerRegisterWrites : Obligations.HandlerRegisterWrites := by
  unfold Obligations.HandlerRegisterWrites
  intro gd a s g p hr v
  refine ⟨fun hg hv => ?_, fun hg => ?_, fun hg hv => ?_⟩
  · let g' : Group := { g with handler := v }
    have hb : ∀ u, setsrBody gd a u g (p.reading (.setsr gd a)) = .done (u.setGroup g') := fun u =>
      setsrBody_writes u hg hv
    obtain ⟨h, hgroup, hwent, hspecial, hfile, hothers, hdev⟩ := State.finish_spec (g := g) (p := p) (p' := p)
      (i := .setsr gd a) (g' := g') (fin := fun q => q.next (.setsr gd a))
      (s' := (s.opened (.setsr gd a) g p).setGroup g')
      rfl (State.group?_setGroup_self (g := g') hr.group?_opened) hr.path (fun _ _ => rfl)
      (fun q hid hpc hmask hstack hplace => Path.next_movedTo _ hid hpc hmask hstack hplace)
    have hnext : exec (.setsr gd a) s = .next (((s.opened (.setsr gd a) g p).setGroup g').finish (.setsr gd a) g p
        (fun q => q.next (.setsr gd a))) := by
      rw [exec_setsr, issue_issues hr (by rw [hb]; rfl), hb]
      rfl
    exact ⟨_, h, hnext, hgroup, hspecial.handler, hspecial.trapinfo, hspecial.tokE, hspecial.tokW, hspecial.frame,
      hwent, ⟨hfile.v, hfile.s, hfile.p, hfile.q⟩, ((DeviceSame.opened ..).trans (.setGroup ..)).trans hdev,
      ((OthersSame.opened s _ g p g.id).trans (OthersSame.setGroup g')).trans hothers⟩
  · exact issue_movesTo hr (exec_setsr gd a s) fun u _ => if_pos (by rw [hg]; rfl)
  · exact issue_trapsIn hr (exec_setsr gd a s) (setsrBody_traps _ hg hv)

end Sys2Proof.Machine

/-! ## The paths of a group after an issue -/

namespace Sys2Proof.Machine

/-- Path `y` of a group after instruction `i` has issued from path `pid`, for `x` before it: the number and the lanes
are the same, and an instruction that ends windows has ended those of its own path alone (R139). -/
structure Path.Issued (i : Instr) (pid : Nat) (x y : Path) : Prop where
  id : y.id = x.id
  mask : y.mask = x.mask
  windows : i.info.ends = true → y.windows = x.windows ∨ (x.id = pid ∧ y.windows = [])

theorem Group.live_of_forall₂ {i : Instr} {pid : Nat} {g h : Group}
    (hpaths : List.Forall₂ (Path.Issued i pid) g.paths h.paths) : h.live = g.live := by
  have key : ∀ {xs ys : List Path} (a : Mask), List.Forall₂ (Path.Issued i pid) xs ys →
      ys.foldl (fun m p => m ||| p.mask) a = xs.foldl (fun m p => m ||| p.mask) a := by
    intro xs ys a hxy
    induction hxy generalizing a with
    | nil => rfl
    | cons hissued _ ih => rw [List.foldl_cons, List.foldl_cons, hissued.mask, ih]
  exact key 0 hpaths

/-- What follows for a path after the issue from the path that it was. -/
theorem exists_issued {i : Instr} {pid : Nat} {xs ys : List Path} (hxy : List.Forall₂ (Path.Issued i pid) xs ys)
    {y : Path} (hy : y ∈ ys) : ∃ x ∈ xs, Path.Issued i pid x y := by
  induction hxy with
  | nil => cases hy
  | cons hissued _ ih =>
    cases hy with
    | head => exact ⟨_, List.mem_cons_self, hissued⟩
    | tail _ hy =>
      obtain ⟨x, hx, hxy⟩ := ih hy
      exact ⟨x, List.mem_cons_of_mem _ hx, hxy⟩

theorem exists_issued_of_mem {i : Instr} {pid : Nat} {xs ys : List Path}
    (hxy : List.Forall₂ (Path.Issued i pid) xs ys) {x : Path} (hx : x ∈ xs) : ∃ y ∈ ys, Path.Issued i pid x y := by
  induction hxy with
  | nil => cases hx
  | cons hissued _ ih =>
    cases hx with
    | head => exact ⟨_, List.mem_cons_self, hissued⟩
    | tail _ hx =>
      obtain ⟨y, hy, hxy⟩ := ih hx
      exact ⟨y, List.mem_cons_of_mem _ hy, hxy⟩

/-- The first entry of a key replaced in a list whose entries have changed. -/
theorem forall₂_updFirst_map {α : Type} {R : α → α → Prop} {P : α → Bool} {f : α → α} {x y : α} {l : List α}
    (hP : ∀ z, P (f z) = P z) (hf : ∀ z, R z (f z)) (hfind : l.find? P = some y) (hy : R y x) :
    List.Forall₂ R l (updFirst P (fun _ => x) (l.map f)) := by
  induction l with
  | nil => cases hfind
  | cons z l ih =>
    rw [List.map_cons, updFirst, hP]
    rw [List.find?_cons] at hfind
    cases hz : P z with
    | true =>
      rw [hz] at hfind
      cases hfind
      rw [if_pos rfl]
      exact .cons hy (List.forall₂_map_right_iff.2 (List.forall₂_same.2 fun z _ => hf z))
    | false =>
      rw [hz] at hfind
      rw [if_neg (by simp)]
      exact .cons (hf z) (ih hfind)

/-- Ending yields changes waits alone. -/
theorem Group.stirred_paths (h : Group) (g : GroupId) (pid clock : Nat) :
    ∃ f : Path → Path, (h.stirred g pid clock).paths = h.paths.map f ∧
      ∀ q, (f q).id = q.id ∧ (f q).mask = q.mask ∧ (f q).windows = q.windows := by
  unfold Group.stirred
  split
  · refine ⟨_, rfl, fun q => ?_⟩
    split
    · split <;> exact ⟨rfl, rfl, rfl⟩
    · exact ⟨rfl, rfl, rfl⟩
  · exact ⟨_, (List.map_id _).symm, fun q => ⟨rfl, rfl, rfl⟩⟩

theorem Group.stirred_trapping (h : Group) (g : GroupId) (pid clock : Nat) :
    (h.stirred g pid clock).trapping = h.trapping := by
  unfold Group.stirred
  split <;> rfl

theorem Group.issuedFrom_trapping (g : Group) (p : Path) (c : Nat) : (g.issuedFrom p c).trapping = g.trapping := by
  unfold Group.issuedFrom
  dsimp only
  split
  · split <;> rfl
  · rfl

/-- The paths and the pending trap of the group at the end of an issue, where `fin` settles the path in its
number, lanes and windows as it was. -/
theorem State.finish_issued {s : State} {i : Instr} {g h : Group} {p : Path} {fin : Path → Path}
    (hg : s.group? g.id = some g) (hp : g.path? p.id = some p)
    (hfin : ∀ q, (fin q).id = q.id ∧ (fin q).mask = q.mask ∧ (fin q).windows = q.windows)
    (hh : (s.finish i g p fin).group? g.id = some h) :
    List.Forall₂ (Path.Issued i p.id) g.paths h.paths ∧ h.trapping = g.trapping := by
  let v := s.modCtx g.ctx (fun c => { c with watchStart := none })
  let u := ((v.endYields g.id p.id).slot g.kid (quadOf g.id.cluster g.id.core)).countIssue g
  let k := g.stirred g.id p.id v.clock
  have hv : v.group? g.id = some g := (State.group?_of_groups (State.modCtx_groups ..) _).trans hg
  have hk : u.group? g.id = some k := by
    show (v.endYields g.id p.id).group? g.id = _
    rw [State.group?_endYields, hv]
    rfl
  obtain ⟨f, hf, hkeeps⟩ := g.stirred_paths g.id p.id v.clock
  have hpath : (k.issuedFrom p u.clock).path? p.id = some (f p) := by
    have hfind : (g.paths.map f).find? (fun x => x.id == p.id) = (g.path? p.id).map f :=
      find?_map_of f _ (fun x => by rw [(hkeeps x).1]) g.paths
    rw [Group.path?, Group.issuedFrom_paths, hf, hfind, hp]
    rfl
  let q := fin (if i.info.ends then { f p with windows := [] } else (f p).countWindows)
  have hq : Path.Issued i p.id p q := by
    obtain ⟨hid, hmask, hwindows⟩ := hfin (if i.info.ends then { f p with windows := [] } else (f p).countWindows)
    obtain ⟨fid, fmask, -⟩ := hkeeps p
    refine ⟨hid.trans ?_, hmask.trans ?_, fun he => .inr ⟨rfl, hwindows.trans ?_⟩⟩
    · split <;> exact fid
    · split <;> exact fmask
    · rw [if_pos he]
  have hclose : k.closeIssue p u.clock i.info.ends fin = (k.issuedFrom p u.clock).setPath q := by
    simp only [Group.closeIssue, hpath]
    rfl
  have hset : (s.finish i g p fin).group? g.id = some (k.closeIssue p u.clock i.info.ends fin) := by
    refine State.group?_modGroup_self (f := fun x => x.closeIssue p u.clock i.info.ends fin) hk ?_
    rw [hclose]
    exact (SpecialSame.issuedFrom k p u.clock).id
  have hh : (k.issuedFrom p u.clock).setPath q = h := by
    rw [hset, hclose] at hh
    exact Option.some.inj hh
  have hpaths : h.paths = updFirst (fun x => x.id == q.id) (fun _ => q) (g.paths.map f) := by
    rw [← hh, Group.setPath, Group.issuedFrom_paths, hf]
  have htrapping : h.trapping = g.trapping := by
    rw [← hh]
    exact (k.issuedFrom_trapping p u.clock).trans (g.stirred_trapping g.id p.id v.clock)
  refine ⟨?_, htrapping⟩
  rw [hpaths]
  refine forall₂_updFirst_map (fun z => by rw [(hkeeps z).1]) (fun z => ?_) (by rw [hq.id]; exact hp) hq
  obtain ⟨fid, fmask, fwindows⟩ := hkeeps z
  exact ⟨fid, fmask, fun _ => .inl fwindows⟩

section
variable {s : State} {i : Instr} {g : Group} {p : Path} {body : State → Group → Path → Res}
  {cont : State → Group → State}

/-- An instruction that acts after its issue acts on the retired state and group, whose paths have the numbers, lanes
and windows of those before, and whose pending trap is as before. -/
theorem issue_after_issued (hr : Ready s i g p)
    (hb : ∀ u, OnlyRecorder s.begun u → body u g (p.reading i) = .after u cont) :
    ∃ t h, issue i s body = .next (cont t h) ∧ Retired s t g h p (p.following i) p.stack ∧ FileSame g h ∧
      List.Forall₂ (Path.Issued i p.id) g.paths h.paths ∧ h.trapping = g.trapping := by
  obtain ⟨h, hret, hfile⟩ := State.finish_retired (i := i) (fin := fun q => q.next i) (DeviceSame.opened s i g p)
    (OthersSame.opened s i g p g.id) (.refl g) hr.group?_opened hr.path (fun _ _ => rfl)
    (fun q hid hpc hmask hstack hplace => Path.next_movedTo i hid hpc hmask hstack hplace)
  refine ⟨_, h, ?_, hret, hfile, ?_⟩
  · rw [issue_issues hr (by rw [hb _ (.refl _)]; rfl), hb _ (s.opened_onlyRecorder i g p)]
    simp only [State.settle, hret.group]
  · exact State.finish_issued (fin := fun q => q.next i) hr.group?_opened hr.path (fun _ => ⟨rfl, rfl, rfl⟩) hret.group

end

end Sys2Proof.Machine

/-! ## The threads of some lanes end (R152) -/

namespace Sys2Proof.Machine

/-! ### Lanes taken out of paths -/

theorem lessPaths_cons_of_some {m : Mask} {q : Path} {ps : List Path} (h : q.mask &&& ~~~m ≠ 0) :
    lessPaths m (q :: ps) =
      { q with mask := q.mask &&& ~~~m, park := q.park.map (Park.lessLanes m) } :: lessPaths m ps :=
  List.filter_cons_of_pos (by simpa using h)

theorem lessPaths_cons_of_none {m : Mask} {q : Path} {ps : List Path} (h : q.mask &&& ~~~m = 0) :
    lessPaths m (q :: ps) = lessPaths m ps :=
  List.filter_cons_of_neg (by simpa using h)

/-- A path that keeps a lane is found with the lanes it keeps. -/
theorem find?_lessPaths {m : Mask} {k : Nat} {q : Path} (hq : q.mask &&& ~~~m ≠ 0) {ps : List Path}
    (hfind : ps.find? (fun p => p.id == k) = some q) :
    (lessPaths m ps).find? (fun p => p.id == k) =
      some { q with mask := q.mask &&& ~~~m, park := q.park.map (Park.lessLanes m) } := by
  induction ps with
  | nil => cases hfind
  | cons x ps ih =>
    rw [List.find?_cons] at hfind
    cases hx : x.id == k with
    | true =>
      rw [hx] at hfind
      cases hfind
      rw [lessPaths_cons_of_some hq, List.find?_cons, hx]
    | false =>
      rw [hx] at hfind
      by_cases hm : x.mask &&& ~~~m = 0
      · rw [lessPaths_cons_of_none hm]
        exact ih hfind
      · rw [lessPaths_cons_of_some hm, List.find?_cons, hx]
        exact ih hfind

theorem exists_of_mem_lessPaths {m : Mask} {ps : List Path} {q : Path} (h : q ∈ lessPaths m ps) :
    q.mask ≠ 0 ∧ ∃ x ∈ ps, x.id = q.id := by
  obtain ⟨hmem, hmask⟩ := List.mem_filter.1 h
  obtain ⟨x, hx, rfl⟩ := List.mem_map.1 hmem
  exact ⟨by simpa using hmask, x, hx, rfl⟩

theorem Group.live_lessLanes (g : Group) (m : Mask) : (g.lessLanes m).live = g.live &&& ~~~m := by
  have key : ∀ (ps : List Path) (a : Mask), (lessPaths m ps).foldl (fun n p => n ||| p.mask) (a &&& ~~~m) =
      ps.foldl (fun n p => n ||| p.mask) a &&& ~~~m := by
    intro ps
    induction ps with
    | nil => exact fun a => rfl
    | cons q ps ih =>
      intro a
      have hor : (a &&& ~~~m) ||| (q.mask &&& ~~~m) = (a ||| q.mask) &&& ~~~m := by
        ext j
        simp [Bool.and_or_distrib_right]
      by_cases hq : q.mask &&& ~~~m = 0
      · rw [hq, show a &&& ~~~m ||| (0 : Mask) = a &&& ~~~m from BitVec.or_zero] at hor
        rw [lessPaths_cons_of_none hq, hor, ih, List.foldl_cons]
      · rw [lessPaths_cons_of_some hq, List.foldl_cons, List.foldl_cons, hor, ih]
  simpa [Group.live, Group.lessLanes] using key g.paths 0

/-! ### Barriers of the lanes that leave (R340, R341) -/

/-- Two states that differ in storage and in the crews at most. -/
def OnlyBars (s t : State) : Prop := t = { s with mem := t.mem, crews := t.crews }

theorem OnlyBars.refl (s : State) : OnlyBars s s := rfl

theorem OnlyBars.trans {s t u : State} (h : OnlyBars s t) (k : OnlyBars t u) : OnlyBars s u := by
  unfold OnlyBars at *
  rw [k, h]

theorem OnlyMem.onlyBars {s t : State} (h : OnlyMem s t) : OnlyBars s t := by
  unfold OnlyBars OnlyMem at *
  rw [h]

theorem OnlyBars.ite {P : Prop} [Decidable P] {s t u : State} (ht : OnlyBars s t) (hu : OnlyBars s u) :
    OnlyBars s (if P then t else u) := by
  split
  · exact ht
  · exact hu

theorem OnlyBars.modCrew (s : State) (k c : Nat) (f : Crew → Crew) : OnlyBars s (s.modCrew k c f) := rfl

theorem OnlyBars.foldl {α : Type} {f : State → α → State} (hf : ∀ s a, OnlyBars s (f s a)) (l : List α) :
    ∀ s, OnlyBars s (l.foldl f s) := by
  induction l with
  | nil => exact .refl
  | cons a l ih => exact fun s => (hf s a).trans (ih _)

section
variable {s t : State} (h : OnlyBars s t)
include h

theorem OnlyBars.groups : t.groups = s.groups := (congrArg State.groups h).trans rfl

theorem OnlyBars.resv : t.resv = s.resv := (congrArg State.resv h).trans rfl

theorem OnlyBars.engines : t.engines = s.engines := (congrArg State.engines h).trans rfl

end

theorem OnlyMem.setAph (s : State) (key k : Nat) (b : Bool) : OnlyMem s (s.setAph key k b) := .write ..

theorem OnlyMem.rewriteAph (s : State) (c : Crew) (size : Nat) (team : Option Nat) (b : Nat) (ph : Bool) :
    OnlyMem s (s.rewriteAph c size team b ph) :=
  OnlyMem.foldl (fun s _ => OnlyMem.foldl (fun s _ => .setAph s _ _ _) _ s) _ s

theorem OnlyMem.imageStep (s : State) (kid : Nat) (c : Crew) : OnlyMem s (s.imageStep kid c) := by
  unfold State.imageStep
  split
  · exact OnlyMem.foldl (fun s _ => .write 16 s _ _) _ s
  · exact .refl s

theorem OnlyBars.barStep (s : State) (kid crew : Nat) (team : Option Nat) (b : Nat) (e : BarEntry) :
    OnlyBars s (s.barStep kid crew team b e) := by
  unfold State.barStep
  split
  · exact .refl s
  · split
    · exact ((OnlyMem.rewriteAph ..).onlyBars.trans (.modCrew ..)).trans (OnlyMem.imageStep ..).onlyBars
    · exact (OnlyBars.modCrew ..).trans (OnlyMem.imageStep ..).onlyBars

theorem OnlyBars.barExit (s : State) (kid crew : Nat) (t : Thread) (team : Option Nat) (b : Nat) :
    OnlyBars s (s.barExit kid crew t team b) := by
  unfold State.barExit
  split
  · exact .refl s
  · split
    · exact .refl s
    · split
      · exact .modCrew ..
      · exact .barStep ..

theorem OnlyBars.barExits (s : State) (kid crew : Nat) (hd : Header) (t : Thread) :
    OnlyBars s (s.barExits kid crew hd t) :=
  (OnlyBars.foldl (fun s _ => .barExit s ..) _ s).trans (OnlyBars.foldl (fun s _ => .barExit s ..) _ _)

theorem OnlyBars.reorderCheck (kid crew fuel : Nat) : ∀ s : State, OnlyBars s (s.reorderCheck kid crew fuel) := by
  induction fuel with
  | zero => exact .refl
  | succ n ih =>
    intro s
    unfold State.reorderCheck
    split
    · exact .refl s
    · split
      · exact .refl s
      · exact .ite ((OnlyBars.modCrew ..).trans (ih _)) (.modCrew ..)

/-! ### Storage beside the arrival words of a crew -/

/-- A byte that is in no arrival word of a crew, which stands in its scratch SRAM. -/
def State.SparesByte (s : State) (kid crew a : Nat) : Prop :=
  ∀ c, s.crew? kid crew = some c → c.image = none ∧
    ∀ u k, k < s.teamSize kid → a < c.wordKey u k ∨ c.wordKey u k + 4 ≤ a

/-- A byte beside the arrival words stays as it is, and beside them. -/
def KeepsByte (kid crew a : Nat) (s t : State) : Prop :=
  s.SparesByte kid crew a → t.byte a = s.byte a ∧ t.SparesByte kid crew a

section
variable {kid crew a : Nat}

theorem KeepsByte.refl (s : State) : KeepsByte kid crew a s s := fun h => ⟨rfl, h⟩

theorem KeepsByte.trans {s t u : State} (h : KeepsByte kid crew a s t) (k : KeepsByte kid crew a t u) :
    KeepsByte kid crew a s u := by
  intro hs
  obtain ⟨hbyte, ht⟩ := h hs
  obtain ⟨hbyte', hu⟩ := k ht
  exact ⟨hbyte'.trans hbyte, hu⟩

theorem KeepsByte.foldl {α : Type} {f : State → α → State} (hf : ∀ s x, KeepsByte kid crew a s (f s x)) (l : List α) :
    ∀ s, KeepsByte kid crew a s (l.foldl f s) := by
  induction l with
  | nil => exact .refl
  | cons x l ih => exact fun s => (hf s x).trans (ih _)

theorem Crew.setBar_keeps (c : Crew) (team : Option Nat) (b : Nat) (e : BarEntry) :
    (c.setBar team b e).kid = c.kid ∧ (c.setBar team b e).crew = c.crew ∧ (c.setBar team b e).image = c.image ∧
      (c.setBar team b e).wordKey = c.wordKey := by
  cases team <;> exact ⟨rfl, rfl, rfl, rfl⟩

theorem State.crew?_modCrew (s : State) (k n : Nat) {f : Crew → Crew}
    (hf : ∀ c, (f c).kid = c.kid ∧ (f c).crew = c.crew) : (s.modCrew k n f).crew? k n = (s.crew? k n).map f := by
  have hkey : ∀ c : Crew, (fun x : Crew => x.kid == k && x.crew == n) (if c.kid == k && c.crew == n then f c else c) =
      (c.kid == k && c.crew == n) := by
    intro c
    obtain ⟨hkid, hcrew⟩ := hf c
    dsimp only
    split
    · rw [hkid, hcrew]
    · rfl
  refine (find?_map_of (fun c : Crew => if c.kid == k && c.crew == n then f c else c)
    (fun x : Crew => x.kid == k && x.crew == n) hkey s.crews).trans ?_
  unfold State.crew?
  cases hc : s.crews.find? (fun x => x.kid == k && x.crew == n) with
  | none => rfl
  | some c =>
    have hc : (c.kid == k && c.crew == n) = true :=
      List.find?_some (p := fun x : Crew => x.kid == k && x.crew == n) hc
    simp only [Option.map_some, hc, if_true]

/-- A step of a barrier entry leaves the arrival words where they are. -/
theorem KeepsByte.setBar (s : State) (team : Option Nat) (b : Nat) (e : BarEntry) :
    KeepsByte kid crew a s (s.modCrew kid crew (fun c => c.setBar team b e)) := by
  refine fun hs => ⟨rfl, fun c hc => ?_⟩
  rw [State.crew?_modCrew s kid crew fun c => ⟨(c.setBar_keeps team b e).1, (c.setBar_keeps team b e).2.1⟩] at hc
  obtain ⟨x, hx, rfl⟩ := Option.map_eq_some_iff.1 hc
  obtain ⟨-, -, himage, hword⟩ := x.setBar_keeps team b e
  rw [himage, hword]
  exact hs x hx

theorem OnlyMem.keepsByte {s t : State} (h : OnlyMem s t) (hbyte : t.byte a = s.byte a) : KeepsByte kid crew a s t := by
  have hcrew : t.crew? kid crew = s.crew? kid crew := by rw [h]; rfl
  have hsize : t.teamSize kid = s.teamSize kid := by rw [h]; rfl
  refine fun hs => ⟨hbyte, ?_⟩
  rw [State.SparesByte, hcrew, hsize]
  exact hs

/-- The rewriting of APH writes arrival words alone. -/
theorem State.byte_rewriteAph (s : State) {c : Crew} {size : Nat} (team : Option Nat) (b : Nat) (ph : Bool)
    (hword : ∀ u k, k < size → a < c.wordKey u k ∨ c.wordKey u k + 4 ≤ a) :
    (s.rewriteAph c size team b ph).byte a = s.byte a := by
  refine List.foldlRecOn (motive := fun t : State => t.byte a = s.byte a) _ _ rfl fun t ht u _ => ?_
  refine List.foldlRecOn (motive := fun t : State => t.byte a = s.byte a) _ _ ht fun t ht k hk => ?_
  have hout := hword u k (List.mem_range.1 hk)
  rw [State.setAph, State.byte_write, if_neg (by omega)]
  exact ht

theorem State.imageStep_of_none (s : State) (kid : Nat) {c : Crew} (h : c.image = none) : s.imageStep kid c = s := by
  simp only [State.imageStep, h]

theorem KeepsByte.barStep (s : State) (team : Option Nat) (b : Nat) (e : BarEntry) :
    KeepsByte kid crew a s (s.barStep kid crew team b e) := by
  intro hs
  unfold State.barStep
  split
  · exact ⟨rfl, hs⟩
  · next c hc =>
    obtain ⟨himage, hword⟩ := hs c hc
    rw [State.imageStep_of_none _ _ himage, State.imageStep_of_none _ _ himage]
    have hrewrite : KeepsByte kid crew a s (s.rewriteAph c (s.teamSize kid) team b e.phase) :=
      (OnlyMem.rewriteAph ..).keepsByte (State.byte_rewriteAph s team b e.phase hword)
    split
    · exact (hrewrite.trans (.setBar _ team b e.next)) hs
    · exact KeepsByte.setBar s team b e hs

theorem KeepsByte.barExit (s : State) (t : Thread) (team : Option Nat) (b : Nat) :
    KeepsByte kid crew a s (s.barExit kid crew t team b) := by
  unfold State.barExit
  split
  · exact .refl s
  · split
    · exact .refl s
    · split
      · exact .setBar s team b _
      · exact .barStep s team b _

theorem KeepsByte.barExits (s : State) (hd : Header) (t : Thread) :
    KeepsByte kid crew a s (s.barExits kid crew hd t) :=
  (KeepsByte.foldl (fun s b => .barExit s t (some t.team) b) _ s).trans
    (KeepsByte.foldl (fun s b => .barExit s t none b) _ _)

end

/-! ### Tokens and the last lane -/

/-- Where no token is complete, none is fused (R151). -/
theorem State.fuseAll_same {s : State} {i : GroupId} {g : Group} (hg : s.group? i = some g)
    (htok : ∀ k, SMap.get 0 g.tokE k = 0 ∨ SMap.get 0 g.tokW k ≠ SMap.get 0 g.tokE k) : s.fuseAll i = s := by
  refine List.foldl_fixed' (fun k => ?_) _
  simp only [hg]
  refine if_neg fun hc => ?_
  simp only [Bool.and_eq_true, bne_iff_ne, beq_iff_eq] at hc
  obtain ⟨⟨hsome, hfull⟩, -⟩ := hc
  exact (htok k.val).elim hsome fun hpart => hpart hfull

/-- The group once its last lane has gone (R152, R209, R298). -/
def Group.drained (g : Group) : Group :=
  { g with
    phase := .draining
    discarded := Nat.min 4 (g.intReq.length + g.intPend.length)
    intReq := []
    intPend := [] }

theorem State.lastExit_of_live {s : State} {i : GroupId} {g : Group} (hg : s.group? i = some g) (hlive : g.live ≠ 0) :
    s.lastExit i = s := by
  simp only [State.lastExit, hg]
  refine if_pos ?_
  rw [Bool.or_eq_true, bne_iff_ne]
  exact .inl hlive

theorem OnlyMem.disarm (s : State) (g : Group) (r : CellRef) : OnlyMem s (s.disarm g r) := by
  unfold State.disarm
  dsimp only
  split
  · exact .write ..
  · exact .refl s

theorem State.byte_disarm (s : State) (g : Group) {r : CellRef} {a : Nat} (h : a < r.key ∨ r.key + 32 ≤ a) :
    (s.disarm g r).byte a = s.byte a := by
  unfold State.disarm
  dsimp only
  split
  · rw [State.setCell, State.byte_write, if_neg (by omega)]
  · rfl

/-- A group whose last lane has gone and that has no mark to raise drains: its requests are dropped from their cells,
and its reservations are cleared. -/
theorem State.lastExit_of_last {s : State} {i : GroupId} {g : Group} (hg : s.group? i = some g) (hlive : g.live = 0)
    (hphase : g.phase = .live) (hmarks : s.marks g = []) :
    ∃ w, OnlyMem s w ∧ (∀ a, (∀ r ∈ g.intReq, a < r.key ∨ r.key + 32 ≤ a) → w.byte a = s.byte a) ∧
      s.lastExit i = (w.setGroup g.drained).dropResv g.drained := by
  let w := g.intReq.foldl (fun (s : State) (r : CellRef) => s.disarm g r) s
  have hw : OnlyMem s w := OnlyMem.foldl (fun s r => .disarm s g r) _ s
  refine ⟨w, hw, fun a ha => ?_, ?_⟩
  · exact List.foldlRecOn (motive := fun t : State => t.byte a = s.byte a) _ _ rfl
      fun t ht r hr => (State.byte_disarm t g (ha r hr)).trans ht
  · have hid : g.id = i := State.group?_id hg
    have hfound : ((w.setGroup g.drained).dropResv g.drained).group? i = some g.drained := by
      show (w.setGroup g.drained).group? i = _
      rw [← hid]
      refine State.group?_setGroup_self (g := g.drained) (g' := g) ?_
      rw [State.group?_of_groups hw.groups, ← hg, ← hid]
      rfl
    have hengines : w.engines = s.engines := (congrArg State.engines hw).trans rfl
    have hnone : ((w.setGroup g.drained).dropResv g.drained).marks g.drained = [] := by
      rw [← hmarks]
      show State.marks w g = _
      simp only [State.marks, State.engine, hengines]
    have hcut : s.lastExit i = ((w.setGroup g.drained).dropResv g.drained).raiseDraining i := by
      simp only [State.lastExit, hg, hlive, hphase]
      rfl
    rw [hcut, State.raiseDraining]
    simp only [hfound, hnone, ite_self]

end Sys2Proof.Machine

/-! ## What is left when the threads of some lanes have ended (O11, O13) -/

namespace Sys2Proof.Machine

/-! ### Reservations -/

/-- The reservations of some threads are dropped, and nothing else. -/
theorem State.foldl_dropOwner (c : Nat) (ts : List Thread) : ∀ s : State,
    ∃ rs, ts.foldl (fun (s : State) (t : Thread) => s.dropOwner (.thread c t.wid)) s = { s with resv := rs } ∧
      ∀ r ∈ rs, r ∈ s.resv ∧ ∀ t ∈ ts, r.owner ≠ .thread c t.wid := by
  induction ts with
  | nil => exact fun s => ⟨s.resv, rfl, fun r hr => ⟨hr, nofun⟩⟩
  | cons t ts ih =>
    intro s
    obtain ⟨rs, heq, hrs⟩ := ih (s.dropOwner (.thread c t.wid))
    refine ⟨rs, heq, fun r hr => ?_⟩
    obtain ⟨hmem, hrest⟩ := hrs r hr
    obtain ⟨hin, hne⟩ := List.mem_filter.1 hmem
    refine ⟨hin, fun x hx => ?_⟩
    rcases List.mem_cons.1 hx with rfl | hx
    · simpa using hne
    · exact hrest x hx

/-! ### The group and the state -/

/-- The state after the lanes are taken out of the group and before its barriers are told. -/
def State.withoutLanes (s : State) (g : Group) (m : Mask) (rs : List Reservation) : State :=
  (({ s with resv := rs } : State).dropDests g m).setGroup (g.lessLanes m)

/-- The threads of lanes of a group. -/
def Group.threadsOf (g : Group) (m : Mask) : List Thread := (lanesOf m).filterMap (fun l => g.thread? l)

/-- The barriers of some threads of a group after their exits (R341). -/
def State.toldBarriers (s : State) (g : Group) (ts : List Thread) : State :=
  ts.foldl (fun (s : State) (x : Thread) => s.barExits g.kid g.crew g.hdr x) s

theorem State.exitLanes_eq {t : State} {g : Group} (m : Mask) (hg : t.group? g.id = some g) :
    ∃ rs, t.exitLanes g.id m = ((((t.withoutLanes g m rs).toldBarriers g (g.threadsOf m)).fuseAll g.id).lastExit
        g.id).reorderCheck g.kid g.crew 3 ∧
      ∀ r ∈ rs, ∀ x ∈ g.threadsOf m, r.owner ≠ .thread g.ctx x.wid := by
  obtain ⟨rs, hdrop, hrs⟩ := State.foldl_dropOwner g.ctx (g.threadsOf m) t
  refine ⟨rs, ?_, fun r hr => (hrs r hr).2⟩
  unfold State.exitLanes State.withoutLanes
  rw [hg, ← hdrop]
  rfl

/-- What `exitLanes` of lanes `m` leaves in `u`, from group `g` of `t`. -/
structure LanesEnded (t u : State) (g h : Group) (m : Mask) : Prop where
  group : u.group? g.id = some h
  paths : h.paths = lessPaths m g.paths
  live : h.live = g.live &&& ~~~m
  last : h.live = 0 → h.phase = .draining
  rest : h.live ≠ 0 → h.phase = .live ∧ SpecialSame { g with tokW := h.tokW } h
  file : FileSame g h
  others : OthersSame g.id t u
  resv : ∀ l ∈ lanesOf m, ∀ x, g.thread? l = some x → ∀ r ∈ u.resv, r.owner ≠ .thread g.ctx x.wid
  words : WordsKept t u g

/-- What stands in `v` once lanes `m` of group `g` of `t` have left their barriers. -/
structure LanesGone (t v : State) (g : Group) (m : Mask) : Prop where
  group : v.group? g.id = some (g.lessLanes m)
  others : OthersSame g.id t v
  engines : v.engines = t.engines
  resv : ∀ l ∈ lanesOf m, ∀ x, g.thread? l = some x → ∀ r ∈ v.resv, r.owner ≠ .thread g.ctx x.wid
  bytes : ∀ a, t.SparesByte g.kid g.crew a → v.byte a = t.byte a

/-- Where no token is pending, the lanes leave without a fusion. -/
theorem State.exitLanes_lanesGone {t : State} {g : Group} (m : Mask) (hg : t.group? g.id = some g)
    (htok : g.tokE = []) :
    ∃ v, LanesGone t v g m ∧ t.exitLanes g.id m = (v.lastExit g.id).reorderCheck g.kid g.crew 3 := by
  obtain ⟨rs, heq, hrs⟩ := State.exitLanes_eq m hg
  let w := t.withoutLanes g m rs
  let v := w.toldBarriers g (g.threadsOf m)
  have hbars : OnlyBars w v := OnlyBars.foldl (fun s x => .barExits s ..) _ w
  have hv : v.group? g.id = some (g.lessLanes m) := by
    rw [State.group?_of_groups hbars.groups]
    exact State.group?_setGroup_self (g := g.lessLanes m) hg
  have hnone : (g.lessLanes m).tokE = [] := by
    show lessLanes m g.tokE = []
    rw [htok]
    rfl
  have hfuse : v.fuseAll g.id = v := State.fuseAll_same hv fun n => .inl (by rw [hnone]; rfl)
  refine ⟨v, ⟨hv, ?_, hbars.engines, fun l hl x hx r hr => ?_, fun a ha => ?_⟩, ?_⟩
  · exact (OthersSame.setGroup (s := ({ t with resv := rs } : State).dropDests g m) (g.lessLanes m)).trans
      (.of_groups hbars.groups)
  · rw [hbars.resv] at hr
    exact hrs r hr x (List.mem_filterMap.2 ⟨l, hl, hx⟩)
  · exact (KeepsByte.foldl (fun s x => .barExits s g.hdr x) _ w ha).1
  · rw [heq]
    exact congrArg (fun u : State => (u.lastExit g.id).reorderCheck g.kid g.crew 3) hfuse

section
variable {t v : State} {g : Group} {m : Mask}

/-- A byte beside the words that `WordsKept` names is beside the arrival words of the crew. -/
theorem LanesGone.byte (h : LanesGone t v g m) (himage : ∀ c, t.crew? g.kid g.crew = some c → c.image = none) {a : Nat}
    (hword : ∀ c, t.crew? g.kid g.crew = some c → ∀ u k, k < t.teamSize g.kid →
      a < c.wordKey u k ∨ c.wordKey u k + 4 ≤ a) : v.byte a = t.byte a :=
  h.bytes a fun c hc => ⟨himage c hc, hword c hc⟩

/-- A group that keeps a lane goes on. -/
theorem LanesGone.ended_of_live (h : LanesGone t v g m) (hlive : (g.lessLanes m).live ≠ 0) (hphase : g.phase = .live)
    (htok : g.tokE = []) (hframe : g.frame = none) : LanesEnded t (v.lastExit g.id) g (g.lessLanes m) m := by
  have htokE : (g.lessLanes m).tokE = g.tokE := by
    show lessLanes m g.tokE = g.tokE
    rw [htok]
    rfl
  have hframe : (g.lessLanes m).frame = g.frame := by
    show g.frame.map _ = g.frame
    rw [hframe]
    rfl
  rw [State.lastExit_of_live h.group hlive]
  refine ⟨h.group, rfl, g.live_lessLanes m, fun hz => absurd hz hlive, fun _ => ⟨hphase, ?_⟩, ⟨rfl, rfl, rfl, rfl⟩,
    h.others, h.resv, fun himage a hword _ => h.byte himage hword⟩
  constructor
  case tokE => exact htokE
  case frame => exact hframe
  all_goals rfl

/-- A group that keeps no lane drains. -/
theorem LanesGone.ended_of_last (h : LanesGone t v g m) (hlast : (g.lessLanes m).live = 0) (hphase : g.phase = .live)
    (hmarks : t.marks g = []) : LanesEnded t (v.lastExit g.id) g (g.lessLanes m).drained m := by
  let k := g.lessLanes m
  have hvmarks : v.marks k = [] := by
    rw [← hmarks]
    simp only [State.marks, State.engine, h.engines]
    rfl
  obtain ⟨w, hw, hbyte, heq⟩ := State.lastExit_of_last h.group hlast hphase hvmarks
  have hset : (w.setGroup k.drained).group? g.id = some k.drained :=
    State.group?_setGroup_self (g := k.drained) ((State.group?_of_groups hw.groups _).trans h.group)
  have hothers : OthersSame g.id t (w.setGroup k.drained) :=
    (h.others.trans (.of_groups hw.groups)).trans (OthersSame.setGroup k.drained)
  rw [heq]
  refine ⟨hset, rfl, g.live_lessLanes m, fun _ => rfl, fun hne => absurd hlast hne, ⟨rfl, rfl, rfl, rfl⟩,
    hothers.trans (.of_groups rfl), fun l hl x hx r hr => ?_, fun himage a hword hreq => ?_⟩
  · have hwresv : w.resv = v.resv := (congrArg State.resv hw).trans rfl
    refine h.resv l hl x hx r ?_
    rw [← hwresv]
    exact (List.mem_filter.1 hr).1
  · exact (hbyte a hreq).trans (h.byte himage hword)

/-- What the reorder instances of the crew come to changes none of it. -/
theorem LanesEnded.reorderCheck {u : State} {h : Group} (he : LanesEnded t u g h m) (kid crew fuel : Nat) :
    LanesEnded t (u.reorderCheck kid crew fuel) g h m := by
  have hbars : OnlyBars u (u.reorderCheck kid crew fuel) := .reorderCheck kid crew fuel u
  refine ⟨(State.group?_of_groups hbars.groups _).trans he.group, he.paths, he.live, he.last, he.rest, he.file,
    he.others.trans (.of_groups hbars.groups), ?_, fun himage a hword hreq => ?_⟩
  · rw [hbars.resv]
    exact he.resv
  · exact (State.byte_congr (State.reorderCheck_mem ..) a).trans (he.words himage a hword hreq)

/-- A group without tokens, frame and marks loses lanes: it goes on with the others, and drains where none is left. -/
theorem State.exitLanes_ended (m : Mask) (hg : t.group? g.id = some g) (hphase : g.phase = .live)
    (htok : g.tokE = []) (hframe : g.frame = none) (hmarks : t.marks g = []) :
    ∃ h, LanesEnded t (t.exitLanes g.id m) g h m := by
  obtain ⟨v, hgone, heq⟩ := State.exitLanes_lanesGone m hg htok
  rw [heq]
  by_cases hlast : (g.lessLanes m).live = 0
  · exact ⟨_, (hgone.ended_of_last hlast hphase hmarks).reorderCheck ..⟩
  · exact ⟨_, (hgone.ended_of_live hlast hphase htok hframe).reorderCheck ..⟩

end

/-- Storage beside the words that `WordsKept` names, from the state before the issue. -/
theorem WordsKept.of_retired {s t u : State} {g h : Group} {p : Path} {pc : DWord} {stack : List DWord}
    (hret : Retired s t g h p pc stack) (hwords : WordsKept t u h) : WordsKept s u g := by
  have hcrew : ∀ k n, t.crew? k n = s.crew? k n := fun k n => by rw [State.crew?, State.crew?, hret.device.crews]
  have hsize : ∀ k, t.teamSize k = s.teamSize k := fun k => by
    simp only [State.teamSize, State.launch?, hret.device.launches]
  intro himage a hword hreq
  rw [WordsKept, hret.special.kid, hret.special.crew, hret.special.intReq, hcrew, hsize] at hwords
  rw [hwords himage a hword hreq]
  exact State.byte_congr hret.device.mem a

theorem SpecialSame.withTokW {g h : Group} (k : SpecialSame g h) (w : SMap Mask) :
    SpecialSame { g with tokW := w } { h with tokW := w } :=
  ⟨k.id, k.ctx, k.kid, k.crew, k.hdr, k.gval, k.threads, k.handler, k.trapinfo, k.tokE, rfl, k.frame, k.phase,
    k.flights, k.fences, k.intReq, k.intPend⟩

/-- An instruction that ends lanes `m` after its issue, where no token is pending, no frame is held and no mark is left
to raise. -/
theorem issue_endsLanes {s : State} {i : Instr} {g : Group} {p : Path} {body : State → Group → Path → Res} {m : Mask}
    (hr : Ready s i g p) (hexec : exec i s = issue i s body)
    (hb : ∀ u, OnlyRecorder s.begun u → body u g (p.reading i) = .after u (fun s g => s.exitLanes g.id m))
    (hphase : g.phase = .live) (htok : g.tokE = []) (hframe : g.frame = none) (hmarks : s.marks g = []) :
    EndsLanes i s g p m := by
  obtain ⟨t, k, hnext, hret, hfile, hissued, -⟩ := issue_after_issued hr hb
  have hid : k.id = g.id := hret.special.id
  have htmarks : t.marks k = [] := by
    rw [← hmarks]
    simp only [State.marks, State.engine, Group.engineNum, hret.device.engines, hid]
  obtain ⟨h, hended⟩ := State.exitLanes_ended (t := t) (g := k) m (by rw [hid]; exact hret.group)
    (hret.special.phase.trans hphase) (hret.special.tokE.trans htok) (hret.special.frame.trans hframe) htmarks
  have hpath : ∀ n, h.path? n = (lessPaths m k.paths).find? (fun q => q.id == n) := fun n => by
    rw [Group.path?, hended.paths]
  refine ⟨_, h, hexec.trans hnext, hid ▸ hended.group, ?_, hended.last, fun hne => ?_, fun q hq => ?_, fun hkeeps => ?_,
    fun n x hn hx hkeeps => ?_, fun q hq => ?_, ?_, hfile.trans hended.file, ?_, hended.words.of_retired hret⟩
  · rw [hended.live, Group.live_of_forall₂ hissued]
  · obtain ⟨hlivephase, hspecial⟩ := hended.rest hne
    exact ⟨hlivephase, (hret.special.withTokW h.tokW).trans hspecial⟩
  · rw [hended.paths] at hq
    exact (exists_of_mem_lessPaths hq).1
  · obtain ⟨q, hq, hmoved⟩ := hret.went.path
    refine ⟨_, (hpath p.id).trans (find?_lessPaths (by rw [hmoved.mask]; exact hkeeps) hq), hmoved.id, hmoved.pc, ?_,
      hmoved.place, hmoved.stack, ?_⟩
    · exact congrArg (· &&& ~~~m) hmoved.mask
    · exact congrArg (Option.map (Park.lessLanes m)) hmoved.park
  · have hsame := hret.went.others n hn
    rw [hx] at hsame
    obtain ⟨y, hy, heq⟩ := Option.map_eq_some_iff.1 hsame
    simp only [Prod.mk.injEq] at heq
    obtain ⟨hpc, hmask, hstack, hplace⟩ := heq
    exact ⟨_, (hpath n).trans (find?_lessPaths (by rw [hmask]; exact hkeeps) hy), hpc,
      congrArg (· &&& ~~~m) hmask, hstack, hplace⟩
  · rw [hended.paths] at hq
    obtain ⟨-, y, hy, hyq⟩ := exists_of_mem_lessPaths hq
    obtain ⟨x, hx, hxy⟩ := exists_issued hissued hy
    exact ⟨x, hx, hxy.id.symm.trans hyq⟩
  · intro l hl x hx
    have hthread : k.thread? l = some x := by rw [Group.thread?, hret.special.threads]; exact hx
    rw [← hret.special.ctx]
    exact hended.resv l hl x hthread
  · exact hret.others.trans (hid ▸ hended.others)

end Sys2Proof.Machine

/-! ## Transfers and exits (O11, O13) -/

namespace Sys2Proof.Machine

section
variable {s : State} {g : Group} {p : Path} {gd : Guard} {a : Fin 64} {disp : Word}

/-! ### Branches through a displacement or a register pair -/

theorem br_movesTo (hr : Ready s (.br gd disp) g p) (ht : (p.pc + disp.signExtend 64).toNat % 4 = 0) :
    MovesTo (.br gd disp) s g p (if g.guard gd then p.pc + disp.signExtend 64 else p.following (.br gd disp))
      p.stack := by
  have hexec : exec (.br gd disp) s = execBr gd disp s := rfl
  have heven : ¬ oddTarget (p.target disp) = true := by rw [Path.target, oddTarget_false ht]; simp
  cases hg : g.guard gd with
  | true => exact issue_jumpsTo hr hexec fun _ => (if_neg heven).trans (if_pos hg)
  | false => exact issue_movesTo hr hexec fun _ _ => (if_neg heven).trans (if_neg (by simp [hg]))

theorem jmpi_movesTo (hr : Ready s (.jmpi gd a) g p) :
    (g.guard gd = false → MovesTo (.jmpi gd a) s g p (p.following (.jmpi gd a)) p.stack) ∧
    (g.guard gd = true → (g.rd64 p (192 + a.val) 0).toNat % 4 = 0 →
      MovesTo (.jmpi gd a) s g p (g.rd64 p (192 + a.val) 0) p.stack) := by
  have hexec : exec (.jmpi gd a) s = execJmpi gd a s := rfl
  refine ⟨fun hg => issue_movesTo hr hexec fun _ _ => if_pos (by rw [hg]; rfl), fun hg ht => ?_⟩
  have heven : ¬ oddTarget (g.rd64 p (192 + a.val) 0) = true := by rw [oddTarget_false ht]; simp
  exact issue_jumpsTo hr hexec fun _ => (if_neg (by simp [hg])).trans (if_neg heven)

/-! ### Calls -/

theorem call_result (hr : Ready s (.call gd disp) g p) (ht : (p.pc + disp.signExtend 64).toNat % 4 = 0) :
    (g.guard gd = false → MovesTo (.call gd disp) s g p (p.following (.call gd disp)) p.stack) ∧
    (g.guard gd = true → p.stack.length < 256 → CallsTo (.call gd disp) s g p (p.pc + disp.signExtend 64)) ∧
    (g.guard gd = true → 256 ≤ p.stack.length → Traps (.call gd disp) s g p .spaceBounds) := by
  have hexec : exec (.call gd disp) s = execCall gd disp s := rfl
  have heven : ¬ oddTarget (p.target disp) = true := by rw [Path.target, oddTarget_false ht]; simp
  refine ⟨fun hg => issue_movesTo hr hexec fun _ _ => (if_neg heven).trans (if_neg (by simp [hg])), fun hg hroom => ?_,
    fun hg hfull => ?_⟩
  · exact issue_callsTo hr hexec (fun _ => (if_neg heven).trans (if_pos hg)) hroom
  · exact issue_callTraps hr hexec (fun _ => (if_neg heven).trans (if_pos hg)) hfull

theorem callReg_result (hr : Ready s (.callReg gd a) g p) (hg : g.guard gd = true) :
    ((g.rd64 p (192 + a.val) 0).toNat % 4 = 0 → p.stack.length < 256 →
      CallsTo (.callReg gd a) s g p (g.rd64 p (192 + a.val) 0)) ∧
    ((g.rd64 p (192 + a.val) 0).toNat % 4 ≠ 0 → Traps (.callReg gd a) s g p .misalignedTarget) ∧
    ((g.rd64 p (192 + a.val) 0).toNat % 4 = 0 → 256 ≤ p.stack.length → Traps (.callReg gd a) s g p .spaceBounds) := by
  have hexec : exec (.callReg gd a) s = execCallReg gd a s := rfl
  have hguard : ¬ (!g.guard gd) = true := by simp [hg]
  have heven : (g.rd64 p (192 + a.val) 0).toNat % 4 = 0 → ¬ oddTarget (g.rd64 p (192 + a.val) 0) = true := fun ht => by
    rw [oddTarget_false ht]; simp
  refine ⟨fun ht hroom => ?_, fun ht => ?_, fun ht hfull => ?_⟩
  · exact issue_callsTo hr hexec (fun _ => (if_neg hguard).trans (if_neg (heven ht))) hroom
  · exact issue_trapsIn hr hexec ((if_neg hguard).trans (if_pos (oddTarget_true ht)))
  · exact issue_callTraps hr hexec (fun _ => (if_neg hguard).trans (if_neg (heven ht))) hfull

theorem callReg_movesTo (hr : Ready s (.callReg gd a) g p) (hg : g.guard gd = false) :
    MovesTo (.callReg gd a) s g p (p.following (.callReg gd a)) p.stack :=
  issue_movesTo hr (show exec (.callReg gd a) s = execCallReg gd a s from rfl) fun _ _ => if_pos (by rw [hg]; rfl)

/-! ### Returns -/

/-- The own part of `ret`. -/
def retBody (gd : Guard) (s : State) (g : Group) (p : Path) : Res :=
  if !g.guard gd then .done s
  else match p.stack with
    | t :: rest => .jump (s.setGroup (g.setPath { p with stack := rest })) t
    | [] => .after s (fun s g => s.exitLanes g.id p.mask)

theorem exec_ret (gd : Guard) (s : State) : exec (.ret gd) s = issue (.ret gd) s (retBody gd) := rfl

theorem ret_movesTo (hr : Ready s (.ret gd) g p) (hg : g.guard gd = false) :
    MovesTo (.ret gd) s g p (p.following (.ret gd)) p.stack :=
  issue_movesTo hr (exec_ret gd s) fun _ _ => if_pos (by rw [hg]; rfl)

theorem retBody_of_cons {pc : DWord} {rest : List DWord} (u : State) (hg : g.guard gd = true)
    (hstack : p.stack = pc :: rest) :
    retBody gd u g p = .jump (u.setGroup (g.setPath { p with stack := rest })) pc := by
  simp only [retBody, hg, hstack]
  rfl

theorem retBody_of_nil (u : State) (hg : g.guard gd = true) (hstack : p.stack = []) :
    retBody gd u g p = .after u (fun s g => s.exitLanes g.id p.mask) := by
  simp only [retBody, hg, hstack]
  rfl

theorem ret_pops {pc : DWord} {rest : List DWord} (hr : Ready s (.ret gd) g p) (hg : g.guard gd = true)
    (hstack : p.stack = pc :: rest) : MovesTo (.ret gd) s g p pc rest :=
  issue_popsTo hr (exec_ret gd s) fun u => retBody_of_cons u hg hstack

theorem ret_ends (hr : Ready s (.ret gd) g p) (hg : g.guard gd = true) (hstack : p.stack = [])
    (hphase : g.phase = .live) (htok : g.tokE = []) (hframe : g.frame = none) (hmarks : s.marks g = []) :
    EndsLanes (.ret gd) s g p p.mask :=
  issue_endsLanes hr (exec_ret gd s) (fun u _ => retBody_of_nil u hg hstack) hphase htok hframe hmarks

end

/-- Settles O11: a transfer's own part jumps, calls, pops, ends lanes or traps, and each is settled by its own lemma. -/
theorem transfers : Obligations.Transfers := by
  unfold Obligations.Transfers
  refine ⟨⟨fun gd disp s g p hr => br_movesTo hr, fun gd a s g p hr => jmpi_movesTo hr, fun gd disp s g p hr ht => ?_,
    fun gd a s g p hr => ?_, fun gd s g p hr => ?_⟩, fun gd disp s g p hr ht => ?_, fun gd a s g p hr hg ht => ?_,
    fun gd disp s g p hr => ⟨fun ht => ?_, fun hg ht => (call_result hr ht).2.2 hg⟩, fun gd a s g p hr hg => ?_⟩
  · obtain ⟨hfalse, htrue, -⟩ := call_result hr ht
    exact ⟨hfalse, htrue⟩
  · exact ⟨callReg_movesTo hr, fun hg => (callReg_result hr hg).1⟩
  · exact ⟨ret_movesTo hr, fun _ _ => ret_pops hr, ret_ends hr⟩
  · exact issue_trapsIn hr (show exec (.br gd disp) s = execBr gd disp s from rfl) (if_pos (oddTarget_true ht))
  · refine issue_trapsIn hr (show exec (.jmpi gd a) s = execJmpi gd a s from rfl) ?_
    exact (if_neg (by simp [hg])).trans (if_pos (oddTarget_true ht))
  · exact issue_trapsIn hr (show exec (.call gd disp) s = execCall gd disp s from rfl) (if_pos (oddTarget_true ht))
  · exact (callReg_result hr hg).2

/-- Settles O13: the lanes that end are those of the path at which the guard is true. -/
theorem exitEndsLanes : Obligations.ExitEndsLanes := by
  unfold Obligations.ExitEndsLanes
  intro gd s g p hr
  exact issue_endsLanes hr (show exec (.exit gd) s = execExit gd s from rfl) fun _ _ => rfl

end Sys2Proof.Machine

/-! ## Software traps and halts (O14) -/

namespace Sys2Proof.Machine

/-! ### A trap that vectors its group (R154, R259) -/

theorem Group.endWindows_path? (g : Group) (k : Nat) :
    g.endWindows.path? k = (g.path? k).map (fun p => { p with windows := [] }) :=
  find?_map_of (fun p : Path => { p with windows := [] }) _ (fun _ => rfl) g.paths

theorem State.dropStuck_groups (s : State) (g : Group) : (s.dropStuck g).groups = s.groups := by
  unfold State.dropStuck
  dsimp only
  split <;> rfl

/-- The group that the handler starts in: windows ended, TRAPINFO written, accesses done but those of path 5. -/
def Group.vectored (g : Group) (r : TrapReq) : Group :=
  { g.endWindows with
    trapping := none
    trapinfo := infoWord g r.num r.lane r.kind r.space r.detail r.pc
    flights := g.flights.filter (fun f => f.path == 5) }

theorem Group.vectored_live (g : Group) (r : TrapReq) : (g.vectored r).live = g.live := by
  rw [Group.live, Group.live]
  exact List.foldl_map

/-- A trap that vectors a quiet group starts its handler and leaves storage. -/
theorem State.trap_vectors {t : State} {g : Group} {r : TrapReq} (hg : t.group? g.id = some g)
    (hnone : g.trapping = none) (hquiet : t.quiet g = true) (hvec : r.vectors g = true) :
    (t.trap g r).group? g.id = some (g.vectored r).enterHandler ∧ (t.trap g r).mem = t.mem := by
  let k := g.vectored r
  let u := ((t.dropResv g.endWindows).dropStuck g.endWindows).sched k 6 k.live r.pc 0
  have hfatal : t.fatalTrap g r = false := by simp only [State.fatalTrap, hvec, Bool.not_true, Bool.false_and]
  have hvec' : r.vectors k = true := hvec
  have htake : t.trap g r = u.setGroup k.enterHandler := by
    have htrap : t.trap g r = t.takeTrap g r := by
      simp only [State.trap, hnone, hquiet, hfatal]
      rfl
    rw [htrap]
    exact if_pos hvec'
  have hu : u.group? g.id = some g := by
    rw [← hg]
    exact State.group?_of_groups (State.dropStuck_groups ..) _
  rw [htake]
  refine ⟨State.group?_setGroup_self (g := k.enterHandler) hu, ?_⟩
  simp only [State.setGroup_mem, u, State.sched_mem, State.dropStuck_mem, State.dropResv_mem]

/-- What keeps a group from being quiet stands in its accesses and the engines, which an issue leaves. -/
theorem Retired.quiet {s t : State} {g h : Group} {p : Path} {pc : DWord} {stack : List DWord}
    (hret : Retired s t g h p pc stack) : t.quiet h = s.quiet g := by
  have hstuck : t.stuck h = s.stuck g := by
    simp only [State.stuck, State.engine, Group.engineNum, hret.device.engines, hret.special.id]
  simp only [State.quiet, hstuck, State.opsOf, hret.device.ops, hret.device.engines, hret.special.flights,
    hret.special.id, hret.special.gval, hret.special.kid]

/-! ### Where the paths stand in a group that only ends windows -/

theorem Went.endWindows {g h k : Group} {p : Path} {pc : DWord} {stack : List DWord} (hwent : Went g h p pc stack)
    (hk : k.paths = h.endWindows.paths) : Went g k p pc stack := by
  have hpath : ∀ n, k.path? n = (h.path? n).map (fun p => { p with windows := [] }) := fun n => by
    rw [← Group.endWindows_path?, Group.path?, hk]
    rfl
  obtain ⟨q, hq, hmoved⟩ := hwent.path
  refine ⟨⟨{ q with windows := [] }, by rw [hpath, hq]; rfl, hmoved.id, hmoved.pc, hmoved.mask, hmoved.place,
    hmoved.stack, hmoved.park⟩, fun n hn => ?_⟩
  rw [hpath, Option.map_map]
  exact hwent.others n hn

theorem Went.of_paths {g h k : Group} {p : Path} {pc : DWord} {stack : List DWord} (hwent : Went g h p pc stack)
    (hk : k.paths = h.paths) : Went g k p pc stack := by
  have hpath : ∀ n, k.path? n = h.path? n := fun n => by rw [Group.path?, Group.path?, hk]
  obtain ⟨q, hq, hmoved⟩ := hwent.path
  exact ⟨⟨q, (hpath p.id).trans hq, hmoved⟩, fun n hn => by rw [hpath]; exact hwent.others n hn⟩

/-! ### Windows that await a result -/

theorem Group.windowPending_of_forall₂ {i : Instr} {pid : Nat} {g h : Group} (he : i.info.ends = true)
    (hpaths : List.Forall₂ (Path.Issued i pid) g.paths h.paths) (hg : g.windowPending = false) :
    h.windowPending = false := by
  rw [Group.windowPending, List.any_eq_false] at hg ⊢
  intro y hy
  obtain ⟨x, hx, hxy⟩ := exists_issued hpaths hy
  rcases hxy.windows he with hsame | ⟨-, hnone⟩
  · rw [hsame]
    exact hg x hx
  · rw [hnone]
    exact Bool.false_ne_true

theorem Group.windowPending_of_other {i : Instr} {pid : Nat} {g h : Group} (he : i.info.ends = true)
    (hpaths : List.Forall₂ (Path.Issued i pid) g.paths h.paths)
    (hq : ∃ q ∈ g.paths, q.id ≠ pid ∧ ∃ w ∈ q.windows, w.op.isSome = true) : h.windowPending = true := by
  obtain ⟨q, hq, hne, w, hw, hop⟩ := hq
  obtain ⟨y, hy, hqy⟩ := exists_issued_of_mem hpaths hq
  have hsame : y.windows = q.windows := (hqy.windows he).resolve_right fun hown => hne hown.1
  rw [Group.windowPending, List.any_eq_true]
  exact ⟨y, hy, List.any_eq_true.2 ⟨w, hsame ▸ hw, hop⟩⟩

section
variable {s : State} {g : Group} {p : Path} {gd : Guard}

/-! ### Software traps (R153) -/

/-- The trap that `softTrap` raises. -/
def softReq (c : Code) (lane code : Nat) (p : Path) : TrapReq where
  path := some p.id
  code := some c
  lane := lane
  kind := 0
  detail := code
  space := 0
  va := 0
  pc := p.pc
  wid := none
  order := none

/-- An instruction that raises a software trap after its issue vectors its quiet group. -/
theorem issue_vectors {i : Instr} {body : State → Group → Path → Res} {c : Code} {lane code : Nat} (hr : Ready s i g p)
    (hexec : exec i s = issue i s body)
    (hb : ∀ u, OnlyRecorder s.begun u → body u g (p.reading i) = .after u (fun s g => s.trap g (softReq c lane code p)))
    (hhandler : g.handler ≠ 0) (hframe : g.frame = none) (hquiet : s.quiet g = true) (hnone : g.trapping = none) :
    ∃ t h f q x, exec i s = .next t ∧ t.group? g.id = some h ∧ h.trapinfo = infoWord g c.num lane 0 0 code p.pc ∧
      h.frame = some f ∧ f.tokE = g.tokE ∧ f.tokW = g.tokW ∧
      f.paths.find? (fun y => y.id == p.id) = some q ∧ p.MovedTo q (p.following i) p.stack ∧
      h.paths = [x] ∧ x.pc = g.handler ∧ x.mask = g.live ∧ x.stack = [] ∧ x.place = .slot 0 ∧
      h.tokE = [] ∧ h.tokW = [] ∧ FileSame g h ∧ t.mem = s.mem := by
  obtain ⟨t, k, hnext, hret, hfile, hissued, htrapping⟩ := issue_after_issued hr hb
  have hid : k.id = g.id := hret.special.id
  have hvec : (softReq c lane code p).vectors k = true := by
    have hset : (g.handler != 0) = true := bne_iff_ne.2 hhandler
    simp only [TrapReq.vectors, softReq, hret.special.handler, hret.special.frame, hset, hframe]
    rfl
  obtain ⟨hgroup, hmem⟩ := State.trap_vectors (t := t) (g := k) (by rw [hid]; exact hret.group)
    (htrapping.trans hnone) (hret.quiet.trans hquiet) hvec
  obtain ⟨q, hq, hmoved⟩ := hret.went.path
  have hfrozen : (k.endWindows.paths.map (fun p => { p with park := p.park.map Park.ungrant })).find?
      (fun y => y.id == p.id) = some { q with windows := [], park := q.park.map Park.ungrant } := by
    rw [find?_map_of (fun p : Path => { p with park := p.park.map Park.ungrant }) _ (fun _ => rfl)]
    rw [show k.endWindows.paths.find? (fun y => y.id == p.id) = k.endWindows.path? p.id from rfl,
      Group.endWindows_path?, hq]
    rfl
  have hinfo : (k.vectored (softReq c lane code p)).trapinfo = infoWord g c.num lane 0 0 code p.pc := by
    have hword : (k.vectored (softReq c lane code p)).trapinfo = infoWord k c.num lane 0 0 code p.pc := by
      simp only [Group.vectored, softReq, TrapReq.num]
    rw [hword]
    simp only [infoWord, Group.pcw, hret.special.hdr]
  have hlive : (k.vectored (softReq c lane code p)).live = g.live :=
    (k.vectored_live _).trans (Group.live_of_forall₂ hissued)
  refine ⟨_, (k.vectored (softReq c lane code p)).enterHandler, _, _, _, hexec.trans hnext, hid ▸ hgroup,
    hinfo, rfl, hret.special.tokE, hret.special.tokW, hfrozen, ?_, rfl, hret.special.handler,
    hlive, rfl, rfl, rfl, rfl, ⟨hfile.v, hfile.s, hfile.p, hfile.q⟩, hmem.trans hret.device.mem⟩
  exact ⟨hmoved.id, hmoved.pc, hmoved.mask, hmoved.place, hmoved.stack, by rw [hmoved.park]; rfl⟩

/-! ### Halts (R157) -/

/-- The own part of `halt`. -/
def haltBody (gd : Guard) (s : State) (g : Group) (p : Path) : Res :=
  if !g.guard gd then .done s
  else if s.attached g.ctx then .after s (fun s g => s.debugStop g .halt)
  else .after s (softTrap .brk (lowLane p.mask) 0xFFFF p)

theorem exec_halt (gd : Guard) (s : State) : exec (.halt gd) s = issue (.halt gd) s (haltBody gd) := rfl

theorem OnlyRecorder.attached {t : State} (h : OnlyRecorder s.begun t) (c : Nat) : t.attached c = s.attached c := by
  rw [h]
  rfl

/-- Under a debugger `halt` stops the group after its issue. -/
theorem haltBody_stops {u : State} {q : Path} (hu : OnlyRecorder s.begun u) (hg : g.guard gd = true)
    (hdebug : (s.ctx? g.ctx).any (·.debug) = true) :
    haltBody gd u g q = .after u (fun s g => s.debugStop g .halt) := by
  have hattached : u.attached g.ctx = true := (hu.attached g.ctx).trans hdebug
  simp only [haltBody, hg, hattached]
  rfl

/-- The group halted between two instructions. -/
def Group.halted (g : Group) (r : StopReason) : Group :=
  { g.endWindows with before := g.phase, phase := .halted, stop := some r, stopping := none }

/-- A stop of a group that awaits no result halts it between two instructions (R298). -/
theorem State.group?_debugStop_halted {t : State} {r : StopReason} (hg : t.group? g.id = some g)
    (hnone : g.windowPending = false) : (t.debugStop g r).group? g.id = some (g.halted r) := by
  have hstop : t.debugStop g r = t.stopNow g r := if_neg (by simp [hnone])
  rw [hstop]
  exact State.group?_setGroup_self (g := g.halted r) hg

/-- A stop of a group that awaits a result is noted until then (R140). -/
theorem State.group?_debugStop_pending {t : State} {r : StopReason} (hg : t.group? g.id = some g)
    (hpending : g.windowPending = true) : (t.debugStop g r).group? g.id = some { g with stopping := some r } := by
  have hstop : t.debugStop g r = t.setGroup { g with stopping := some r } := if_pos hpending
  rw [hstop]
  exact State.group?_setGroup_self (g := { g with stopping := some r }) hg

theorem halt_stops (hr : Ready s (.halt gd) g p) (hg : g.guard gd = true)
    (hdebug : (s.ctx? g.ctx).any (·.debug) = true) :
    (g.windowPending = false →
      ∃ t h, exec (.halt gd) s = .next t ∧ t.group? g.id = some h ∧ h.phase = .halted ∧ h.stop = some .halt ∧
        h.before = g.phase ∧ Went g h p (p.following (.halt gd)) p.stack ∧ FileSame g h ∧ t.mem = s.mem) ∧
    ((∃ q ∈ g.paths, q.id ≠ p.id ∧ ∃ w ∈ q.windows, w.op.isSome = true) →
      ∃ t h, exec (.halt gd) s = .next t ∧ t.group? g.id = some h ∧ h.phase = g.phase ∧ h.stopping = some .halt ∧
        Went g h p (p.following (.halt gd)) p.stack ∧ FileSame g h ∧ t.mem = s.mem) := by
  obtain ⟨t, k, hnext, hret, hfile, hissued, -⟩ := issue_after_issued hr fun u hu => haltBody_stops hu hg hdebug
  have hid : k.id = g.id := hret.special.id
  have hk : t.group? k.id = some k := by rw [hid]; exact hret.group
  have hexec := (exec_halt gd s).trans hnext
  have hmem : (t.debugStop k .halt).mem = s.mem := (State.debugStop_mem ..).trans hret.device.mem
  refine ⟨fun hnone => ?_, fun hq => ?_⟩
  · have hgroup := State.group?_debugStop_halted (r := .halt) hk (Group.windowPending_of_forall₂ rfl hissued hnone)
    exact ⟨_, k.halted .halt, hexec, hid ▸ hgroup, rfl, rfl, hret.special.phase, hret.went.endWindows rfl,
      ⟨hfile.v, hfile.s, hfile.p, hfile.q⟩, hmem⟩
  · have hgroup := State.group?_debugStop_pending (r := .halt) hk (Group.windowPending_of_other rfl hissued hq)
    exact ⟨_, { k with stopping := some .halt }, hexec, hid ▸ hgroup, hret.special.phase, rfl, hret.went.of_paths rfl,
      ⟨hfile.v, hfile.s, hfile.p, hfile.q⟩, hmem⟩

end

/-- Settles O14: both software traps vector by one lemma, and `halt` goes on or stops its group. -/
theorem softwareTrapsAndHalts : Obligations.SoftwareTrapsAndHalts := by
  unfold Obligations.SoftwareTrapsAndHalts
  refine ⟨fun gd code s g p e he hr hactive hhandler hframe hquiet _ hnone => ?_, fun gd s g p hr =>
    ⟨fun hg => ?_, fun hg hdebug => (halt_stops hr hg hdebug).1, fun hg hdebug => (halt_stops hr hg hdebug).2⟩⟩
  · rcases List.mem_cons.1 he with rfl | he
    · exact issue_vectors hr (show exec (.trap gd code) s = execTrap gd code s from rfl) (fun _ _ => if_neg hactive)
        hhandler hframe hquiet hnone
    · rw [List.mem_singleton] at he
      subst he
      exact issue_vectors hr (show exec (.trapBreak gd code) s = execTrapBreak gd code s from rfl)
        (fun _ _ => if_neg hactive) hhandler hframe hquiet hnone
  · exact issue_movesTo hr (exec_halt gd s) fun _ _ => if_pos (by rw [hg]; rfl)

end Sys2Proof.Machine

/-! ## Return from the handler (O15) -/

namespace Sys2Proof.Machine

theorem State.desc_eq (s : State) (c : Nat) : s.desc c = ((s.ctx? c).map Ctx.desc).getD .none := by
  unfold State.desc
  cases s.ctx? c <;> rfl

/-- The start of a watchdog count is no part of a context's description. -/
theorem DeviceSame.desc {s t : State} (h : DeviceSame s t) (c : Nat) : t.desc c = s.desc c := by
  have hctx := congrArg (Option.map Ctx.desc) (h.ctxs c)
  rw [Option.map_map, Option.map_map] at hctx
  rw [State.desc_eq, State.desc_eq]
  exact congrArg (fun x : Option Desc => x.getD .none) hctx

/-- Storage beside the return-stack areas of some paths stays as it is when their deep addresses are written. -/
theorem State.byte_foldl_keepDeep (g : Group) {a : Nat} (ps : List Path) : ∀ s : State,
    (∀ q ∈ ps, a < s.deepKey g q ∨ s.deepKey g q + 8 * q.deep.length ≤ a) →
    (ps.foldl (fun (s : State) q => s.keepDeep g q) s).byte a = s.byte a := by
  induction ps with
  | nil => exact fun s _ => rfl
  | cons q ps ih =>
    intro s hout
    have hkey : ∀ x, (s.keepDeep g q).deepKey g x = s.deepKey g x := fun x => by
      rw [OnlyMem.keepDeep s g q]
      rfl
    rw [List.foldl_cons, ih (s.keepDeep g q) fun x hx => by rw [hkey]; exact hout x (List.mem_cons_of_mem _ hx)]
    exact State.byte_writeWords _ _ _ _ (hout q List.mem_cons_self)

section
variable {s : State} {g : Group} {p : Path} {f : Frame}

/-- What `tret` does after its issue: the group leaves its handler, and the deep return addresses of its paths are
kept. -/
def tretCont (f : Frame) (p : Path) (s : State) (g : Group) : State :=
  (f.paths.foldl (fun (s : State) q => s.keepDeep g q)
    ((s.sched g 7 p.mask p.pc 0).setGroup (g.leaveHandler f))).fuseAll g.id

/-- The own part of `tret`. -/
def tretBody (s : State) (g : Group) (p : Path) : Res :=
  match g.frame with
  | none => .trap .illegalOpcode (lowLane p.mask) 0 0
  | some f =>
    if g.paths.length > 1 then .trap .illegalConvergence (lowLane p.mask) 0 0
    else .after s (tretCont f p)

theorem exec_tret (s : State) : exec .tret s = issue .tret s tretBody := rfl

theorem tretBody_traps (u : State) (hframe : g.frame = none) :
    tretBody u g p = .trap .illegalOpcode (lowLane p.mask) 0 0 := by
  simp only [tretBody, hframe]

theorem tretBody_returns (u : State) (hframe : g.frame = some f) (hone : g.paths.length = 1) :
    tretBody u g p = .after u (tretCont f p) := by
  simp only [tretBody, hframe, hone]
  rfl

/-- Where no frozen token is complete, the group stands as it was frozen, and storage changes in the return-stack areas
of its paths alone. -/
theorem tretCont_spec {t : State} (hg : t.group? g.id = some g)
    (htok : ∀ k, SMap.get 0 f.tokE k = 0 ∨ SMap.get 0 f.tokW k ≠ SMap.get 0 f.tokE k) :
    (tretCont f p t g).group? g.id = some (g.leaveHandler f) ∧
      DeviceSame t { tretCont f p t g with mem := t.mem } ∧
      ∀ a, (∀ q ∈ f.paths, a < t.deepKey g q ∨ t.deepKey g q + 8 * q.deep.length ≤ a) →
        (tretCont f p t g).byte a = t.byte a := by
  let u := (t.sched g 7 p.mask p.pc 0).setGroup (g.leaveHandler f)
  let v := f.paths.foldl (fun (s : State) q => s.keepDeep g q) u
  have hv : OnlyMem u v := OnlyMem.foldl (fun s q => .keepDeep s g q) _ u
  have hgroup : v.group? g.id = some (g.leaveHandler f) :=
    (State.group?_of_groups hv.groups _).trans (State.group?_setGroup_self (g := g.leaveHandler f) hg)
  have heq : tretCont f p t g = v := State.fuseAll_same hgroup htok
  have hdev : DeviceSame t u := (DeviceSame.recordG ..).trans (.setGroup ..)
  have hsame : ({ v with mem := t.mem } : State) = u := by
    rw [hv]
    rfl
  rw [heq, hsame]
  exact ⟨hgroup, hdev, fun a hout => State.byte_foldl_keepDeep g f.paths u hout⟩

end

/-- Settles O15: `tret` restores the frame by the lemma on what follows its issue, and traps without one; the order of
the addresses in an area is log 9's choice, the lane of the trap log 12's. -/
theorem handlerReturn : Obligations.HandlerReturn := by
  unfold Obligations.HandlerReturn
  refine ⟨fun s g p f hr hframe hone htok => ?_, fun s g p hr hframe => ?_⟩
  · obtain ⟨t, k, hnext, hret, hfile⟩ := issue_after hr fun u _ => tretBody_returns u hframe hone
    have hid : k.id = g.id := hret.special.id
    obtain ⟨hgroup, hdev, hbytes⟩ := tretCont_spec (p := p.reading .tret) (f := f)
      (by rw [hid]; exact hret.group : t.group? k.id = some k) htok
    have hkey : ∀ q, t.deepKey k q = s.deepKey g q := fun q => by
      rw [State.deepKey, State.deepKey, hret.device.desc, hret.special.ctx, hid]
    refine ⟨_, k.leaveHandler f, (exec_tret s).trans hnext, hid ▸ hgroup, rfl, rfl, rfl, rfl, hret.special.handler,
      ⟨hfile.v, hfile.s, hfile.p, hfile.q⟩, ?_, fun a hout => ?_⟩
    · rw [← hret.device.mem]
      exact hret.device.trans hdev
    · exact (hbytes a fun q hq => by rw [hkey]; exact hout q hq).trans (State.byte_congr hret.device.mem a)
  · exact issue_trapsIn hr (exec_tret s) (tretBody_traps _ hframe)

end Sys2Proof.Machine
